-- ==== Sys2Proof/Word.lean ====
section
/-! DEFINITION. The word types of the HN440 model: a byte, a sparse table keyed by number, and a byte memory. -/

namespace Sys2Proof

/-- A byte: a cell of the Grid Store, a mask the manual carries as flags, a byte of a frame. -/
abbrev Byte := BitVec 8

/-- A sparse table: records by number, in ascending key order, each key at most once. -/
abbrev Tab (α : Type) := List (Nat × α)

/-- A byte memory: `Tab Byte` spelt with the host's cell type. -/
abbrev Mem := List Host.Cell

end Sys2Proof
end

