-- ==== Sys2Proof/Config.lean ====
section
/-! DEFINITION. What the HN440 fixes (00_scope.md 2.4) and the values the manual leaves open. -/

namespace Sys2Proof.Config

/-- Hide slots 0 to 11 (R37). -/
abbrev hideSlots : Nat := 12

/-- Tile frames in the pool (R60). -/
abbrev tileFrames : Nat := 8192

/-- Cells in one tile frame, 32 × 32 (R58). -/
abbrev frameCells : Nat := 1024

/-- Piece slots 0 to 127 (R21). -/
abbrev pieceSlots : Nat := 128

/-- Cells of the mask arena (R26). -/
abbrev arenaCells : Nat := 262144

/-- Order lines 0 to 255 (R1). -/
abbrev orderLines : Nat := 256

/-- Placements in one hide's list (R95). -/
abbrev placements : Nat := 160

/-- Entries of the placement stack (R114). -/
abbrev stackEntries : Nat := 64

/-- Staged flaws in one hide (R81). -/
abbrev stagedFlaws : Nat := 256

/-- Deferred flaws in one hide (R82). -/
abbrev deferredFlaws : Nat := 32

/-- The last release sequence number (R47). -/
abbrev lastRelease : Nat := 4294967295

/-- The largest payload (R168). -/
abbrev payloadBytes : Nat := 1024

/-- FREE VALUE (log entry 5): the detail of the RANGE refusal of a BANK_MODE whose mode code is neither OPEN nor
LOCKED, by that code.
R28 gives the request two modes and R172 gives RANGE to a field outside its range, but no rule gives the detail. -/
opaque bankModeDetail : Nat → Nat

end Sys2Proof.Config
end

