-- ==== Sys2Proof/Syntax.lean ====
section
/-! DEFINITION. The commands of the HN440: one constructor for each row of spec/opcode_table.json, with its operands. -/

namespace Sys2Proof

/-- The six serial links (00_scope.md 2.1). -/
inductive Link where
  | control
  | scanner
  | cutter (c : Fin 4)
  deriving DecidableEq, Repr

/-- The two links whose partners only send requests. -/
inductive UpLink where
  | control
  | scanner
  deriving DecidableEq, Repr

/-- The frame around a request's fields (R168): its TAG, its LEN, and whether its reply is still to be sent when the
step ends.
`len = none` stands for a LEN equal to the length the fields take, the one R170 asks for; `some n` is a LEN of n.
`slow` leaves the request in hand, its reply to be sent at the next idle step (R171, log entry 2); `sending` says of
such a reply that its frame has begun, so that no other frame of the link goes before it (R167). -/
structure Head where
  tag : Nat := 0
  len : Option Nat := none
  slow : Bool := false
  sending : Bool := false
  deriving DecidableEq, Repr

/-- A run of VARIANT_ROWS (R32: a zone class) or of ROWS (R64: a content code), with its length in cells. -/
structure Run where
  code : Nat
  length : Nat
  deriving DecidableEq, Repr

/-- One entry of THICKNESS (R67). -/
structure Reading where
  col : Nat
  row : Nat
  value : Nat
  deriving DecidableEq, Repr

/-- A flaw record (R76); `kind` is its code, SCAR 0 to CHALK 5. -/
structure Flaw where
  id : Nat
  kind : Nat
  severity : Nat
  x0 : Nat
  y0 : Nat
  x1 : Nat
  y1 : Nat
  deriving DecidableEq, Repr

/-- One step of a NEST request (R115); `mode` is its code, FILL 0, EXACT 1. -/
structure StepReq where
  line : Nat
  quota : Nat
  mode : Nat
  deriving DecidableEq, Repr

/-- A ticket out on a channel: its number, and the index of the placement that it was sent for (R151). -/
structure TicketRef where
  number : Nat
  index : Nat
  deriving DecidableEq, Repr

/-- One set of PLACE_PAIR (R108). -/
structure Spot where
  orientation : Nat
  x : Nat
  y : Nat
  deriving DecidableEq, Repr

/-- The three outcomes of a checked read (R70).
They come from outside the part: a command that reads cells brings the outcomes of its reads, in the order in which
the reads are made, and the reads beyond the list are clean (log entry 3). -/
inductive ReadOutcome where
  | clean
  | singleBit
  | uncorrectable
  deriving DecidableEq, Repr

/-- The outcome a cutter reports for a ticket (R153). -/
inductive CutOutcome where
  | cut
  | spoiled
  | skipped
  deriving DecidableEq, Repr

/-- A cutter's reply to a TICKET or to an ABORT_HIDE (R152, R162). -/
inductive PlainAnswer where
  | accept
  | refuse (reason detail : Nat)
  deriving DecidableEq, Repr

/-- A cutter's reply to a TICKET_QUERY (R158). -/
inductive QueryReply where
  | finished (outcome : CutOutcome) (reason detail : Nat)
  | inProgress
  | unknown
  | refuse (reason detail : Nat)
  deriving DecidableEq, Repr

/-- The commands. Numbers are the fields as they stand in the frame; their widths are checked in WellFormed.
The framing commands carry bytes that arrive on a link: `frameBegin` those after the 0x5A byte, short of the end of the
frame, and the others those up to the byte that ends the frame, which stands by itself as `last` in some of them (log
entry 19).
A field that may be absent is an option: a frame whose presence byte is neither 0 nor 1, or whose absent field has bytes that
are not 0, is none of the commands (log entry 34). -/
inductive Instr where
  -- start, settings and the profile store
  | powerOn
  | resetInput
  | restartAfterReset
  | identify (h : Head)
  | reset (h : Head)
  | set (h : Head) (code value : Nat)
  | get (h : Head) (code : Nat)
  | save (h : Head)
  | saveCompletion (passes : Bool)
  | load (h : Head)
  | loadCompletion
  | defaults (h : Head)
  | controlRateChange
  -- the cut order book
  | lineAdd (h : Head) (id slot style size ordered : Nat)
  | pairAdd (h : Head) (id1 id2 slot1 slot2 ordered style size : Nat)
  | lineResize (h : Head) (id ordered : Nat)
  | lineCancel (h : Head) (id : Nat)
  | lineRemove (h : Head) (id : Nat)
  | lineRead (h : Head) (id : Nat)
  -- the pattern library
  | pieceDefine (h : Head) (slot code margin : Nat) (offsets : Byte) (band : Option (Nat × Nat))
  | variantDefine (h : Head) (slot orientation width height : Nat)
  | variantRows (h : Head) (slot orientation row start : Nat) (runs : List Run)
  | pieceReady (h : Head) (slot : Nat)
  | pieceErase (h : Head) (slot : Nat)
  | pieceRead (h : Head) (slot : Nat) (row : Option (Nat × Nat))
  | bankMode (h : Head) (bank mode : Nat)
  -- hides and their maps
  | hideOpen (h : Head) (tag width height backbone : Nat)
  | rows (h : Head) (slot y x : Nat) (runs : List Run)
  | thickness (h : Head) (slot : Nat) (entries : List Reading)
  | flaw (l : UpLink) (h : Head) (slot : Nat) (f : Flaw) (reads : List ReadOutcome)
  | flawsClear (h : Head) (slot : Nat)
  | mapCommit (h : Head) (slot : Nat)
  | commitCompletion (slot : Nat) (reads : List ReadOutcome)
  | hideRead (h : Head) (slot : Nat)
  | placementsRead (h : Head) (slot first : Nat)
  | discard (l : UpLink) (h : Head) (slot : Nat)
  | close (h : Head) (slot : Nat)
  -- the nest engine
  | nest (h : Head) (slot : Nat) (steps : List StepReq)
  | nestTake
  | stopChecks
  | fitTest (reads : List ReadOutcome)
  | unitPush
  | stepEnd
  | passEnd (reads : List ReadOutcome)
  | passAbort
  -- placing by hand
  | place (h : Head) (slot line orientation x y : Nat) (reads : List ReadOutcome)
  | placePair (h : Head) (slot line : Nat) (a b : Spot) (reads : List ReadOutcome)
  | strike (h : Head) (slot index : Nat)
  -- dispatch
  | release (h : Head) (slot urgency : Nat) (mask : Byte)
  | hold (h : Head)
  | run (h : Head)
  -- cutter channels: the host's requests
  | cutterEnable (h : Head) (channel : Nat)
  | cutterDisable (h : Head) (channel : Nat)
  | cutterReset (h : Head) (channel : Nat) (reads : List ReadOutcome)
  | cutterRead (h : Head) (channel : Nat)
  | storeRead (h : Head)
  -- attention
  | attnSummary (h : Head)
  | attnRead (h : Head) (source : Nat)
  | attnClear (h : Head) (source : Nat) (list : List Nat)
  | attentionSend
  -- cutter channels: the cutter's requests
  | ready (c : Fin 4) (h : Head) (reads : List ReadOutcome)
  | cutReport (c : Fin 4) (h : Head) (ticket outcome reason detail : Nat)
  | cutterFault (c : Fin 4) (h : Head) (code : Nat) (reads : List ReadOutcome)
  -- cutter channels: the part's own requests, their answers and timers
  | ticketSend (c : Fin 4)
  | ticketAnswer (c : Fin 4) (tag : Nat) (answer : PlainAnswer)
  | ticketTimeout (c : Fin 4)
  | deadlineExpiry (c : Fin 4) (ticket : TicketRef)
  | ticketQuerySend (c : Fin 4)
  | queryAnswer (c : Fin 4) (tag : Nat) (answer : QueryReply) (reads : List ReadOutcome)
  | queryTimeout (c : Fin 4) (reads : List ReadOutcome)
  | abortHideSend (c : Fin 4)
  | abortAnswer (c : Fin 4) (tag : Nat) (answer : PlainAnswer)
  | abortTimeout (c : Fin 4)
  | unexpectedReply (c : Fin 4) (tag : Nat)
  -- framing
  | lenTooLong (l : Link) (bytes : List Byte) (last : Byte)
  | frameCrcMismatch (l : Link) (bytes : List Byte)
  | interByteGap (l : Link)
  | badKindFrame (l : Link) (bytes : List Byte) (last : Byte)
  | frameBegin (p : Link × List Byte)
  | notOnLinkFrame (l : Link) (bytes : List Byte) (last : Byte)
  | replyOnControlOrScannerLink (p : UpLink × List Byte)
  deriving DecidableEq, Repr

end Sys2Proof
end

