-- ==== Sys2Proof/Machine/State.lean ====
section
/-! DEFINITION. The state of the HN440, block by block as 00_scope.md 2.2 lists them, and the state after reset. -/

namespace Sys2Proof.Machine

/-! ### Settings and the profile store (chapter 12) -/

/-- ATTN_MODE (R182). -/
inductive AttnMode where
  | edge
  | each
  deriving DecidableEq, Repr

/-- CUTTER_PICK (R138). -/
inductive Pick where
  | lowest
  | rotate
  deriving DecidableEq, Repr

/-- OVERDUE_ACTION (R159). -/
inductive Overdue where
  | wait
  | fail
  deriving DecidableEq, Repr

/-- One value for each setting of R185. -/
structure Settings where
  sevT1 : Nat
  sevT2 : Nat
  sevT3 : Nat
  haloScar : Nat
  haloBrand : Nat
  haloTick : Nat
  haloHole : Nat
  haloFold : Nat
  haloChalk : Nat
  frameLow : Nat
  frameResume : Nat
  thickRequired : Bool
  attnMode : AttnMode
  rushRatio : Nat
  pick : Pick
  window0 : Nat
  window1 : Nat
  window2 : Nat
  window3 : Nat
  cutDeadline : Nat
  queryLimit : Nat
  overdue : Overdue
  controlRate : Nat
  deriving DecidableEq, Repr

/-- The fixed defaults of R185. -/
def Settings.fixed : Settings where
  sevT1 := 40
  sevT2 := 110
  sevT3 := 200
  haloScar := 2
  haloBrand := 3
  haloTick := 1
  haloHole := 4
  haloFold := 2
  haloChalk := 1
  frameLow := 1024
  frameResume := 2048
  thickRequired := false
  attnMode := .edge
  rushRatio := 3
  pick := .lowest
  window0 := 2
  window1 := 2
  window2 := 2
  window3 := 2
  cutDeadline := 90
  queryLimit := 3
  overdue := .fail
  controlRate := 230400

/-- The profile image (R187): good when its check matches its contents. -/
inductive Image where
  | good (contents : Settings)
  | bad
  deriving DecidableEq, Repr

/-- The store's busy state (R187); SAVING holds the contents taken at acceptance (R188). -/
inductive Busy where
  | idle
  | saving (contents : Settings)
  | loading
  deriving DecidableEq, Repr

/-- The settings in force and the Profile Store. -/
structure Profile where
  settings : Settings
  image : Image
  busy : Busy
  deriving DecidableEq, Repr

/-! ### The cut order book (chapter 1) -/

/-- The states of a line in use (R3). -/
inductive LineState where
  | active
  | cancelling
  | complete
  | closed
  deriving DecidableEq, Repr

/-- The role of a line in its pair (R13). -/
inductive PairRole where
  | first
  | second
  deriving DecidableEq, Repr

/-- What a paired line holds beside its counts (R1): both are present, or both absent. -/
structure Pairing where
  mirror : Nat
  role : PairRole
  deriving DecidableEq, Repr

/-- The record of a line in use (R1); its id is its key in the book. -/
structure Line where
  state : LineState
  slot : Nat
  style : Nat
  size : Nat
  ordered : Nat
  openUnits : Nat
  reserved : Nat
  cut : Nat
  pair : Option Pairing
  notice : Bool
  deriving DecidableEq, Repr

/-! ### The pattern library (chapter 2) -/

/-- The states of a slot that holds a piece (R22). -/
inductive PieceState where
  | loading
  | ready
  deriving DecidableEq, Repr

/-- A variant record (R21): the raster keeps zone classes 1, 2 and 3 at j * width + i; unlisted cells are class 0. -/
structure Variant where
  width : Nat
  height : Nat
  raster : Mem
  deriving DecidableEq, Repr

/-- A piece record (R21); variants by orientation. -/
structure Piece where
  state : PieceState
  code : Nat
  margin : Nat
  offsets : Byte
  band : Option (Nat × Nat)
  variants : Tab Variant
  deriving DecidableEq, Repr

/-- The mode of a bank (R27). -/
inductive BankMode where
  | unlocked
  | locked
  deriving DecidableEq, Repr

/-- The Pattern Library: a slot that is not listed is EMPTY. -/
structure Library where
  pieces : Tab Piece
  banks : Vector BankMode 4
  deriving DecidableEq, Repr

/-! ### The hide context table (chapter 3) -/

/-- The ten live states of R39; FREE is the absence of a record. -/
inductive HideState where
  | mapping
  | committing
  | mapped
  | nestWait
  | nesting
  | nested
  | dispatchWait
  | cutting
  | done
  | discarding
  deriving DecidableEq, Repr

/-- A tile's thickness entry (R66); NONE is the absence of an entry. Samples stand oldest first. -/
inductive Thickness where
  | valid (a b c d : Nat)
  | invalid
  deriving DecidableEq, Repr

/-- The listed states of a placement (R96). -/
inductive PlacementState where
  | placed
  | ticketed
  | cut
  | spoiled
  | skipped
  | struck
  | withdrawn
  deriving DecidableEq, Repr

/-- Who made a placement (R95). -/
inductive Maker where
  | engine
  | manual
  deriving DecidableEq, Repr

/-- A placement record (R95); its index is its position in the hide's list. `ticket` is the ticket number with the
channel, `reason` the resolution reason with its detail. -/
structure Placement where
  line : Nat
  slot : Nat
  variant : Nat
  x : Nat
  y : Nat
  partner : Option Nat
  source : Maker
  state : PlacementState
  ticket : Option (Nat × Fin 4)
  marker : Bool
  reason : Option (Nat × Nat)
  deriving DecidableEq, Repr

/-- The result of the last completed map commit (R92): a flag, or an offender, for each failed check. -/
inductive CommitResult where
  | ok
  | failed (empty : Bool) (flawOffHide : Option Nat) (thicknessMissing : Option (Nat × Nat))
  deriving DecidableEq, Repr

/-- The end reasons of a step (R124). -/
inductive EndReason where
  | quota
  | demandMet
  | notActive
  | listFull
  | noFit
  deriving DecidableEq, Repr

/-- One step's result in the pass report (R124). -/
structure StepResult where
  line : Nat
  units : Nat
  reason : EndReason
  rolledBack : Bool
  deriving DecidableEq, Repr

/-- The pass report (R38, R124); the step in progress is read from the engine. -/
structure PassReport where
  steps : List StepResult
  placementsAdded : Nat
  bodyAdded : Nat
  deriving DecidableEq, Repr

/-- Urgency (R46). -/
inductive Urgency where
  | rush
  | normal
  deriving DecidableEq, Repr

/-- What the first RELEASE gives a hide (R46). -/
structure Release where
  number : Nat
  urgency : Urgency
  mask : Byte
  deriving DecidableEq, Repr

/-- The discard route (R52, R53). -/
inductive Route where
  | engine
  | channel
  deriving DecidableEq, Repr

/-- A live hide (R38). Tiles are numbered in tile raster order, row * columns + column (00_scope.md 5.2). -/
structure Hide where
  state : HideState
  tag : Nat
  width : Nat
  height : Nat
  backbone : Nat
  /-- The tile table: the frame of each tile that has one (R59). -/
  frames : Tab Nat
  /-- The thickness entries that are not NONE (R66). -/
  thick : Tab Thickness
  /-- The poisoned-tile marks, ascending (R71). -/
  poisoned : List Nat
  staged : List Flaw
  deferred : List Flaw
  /-- The deferred-poison set, ascending (R72). -/
  deferredPoison : List Nat
  placements : List Placement
  commit : Option CommitResult
  report : Option PassReport
  release : Option Release
  channel : Option (Fin 4)
  route : Option Route
  deriving DecidableEq, Repr

/-- The Hide Context Table: live hides by slot, and the release counter (R47). -/
structure HideTable where
  slots : Tab Hide
  released : Nat
  deriving DecidableEq, Repr

/-! ### The grid store (chapter 4) -/

/-- The throttle's state (R62). -/
inductive Throttle where
  | normal
  | throttled
  deriving DecidableEq, Repr

/-- The Grid Store. Cell addresses are 1024 * frame + 32 * (y mod 32) + x mod 32 (R58). -/
structure Grid where
  /-- Contents: grades 0 to 3; an unlisted cell is OUTSIDE. -/
  contents : Mem
  /-- Cover counts; an unlisted cell has count 0. -/
  covers : Mem
  /-- Retired frames, ascending (R60). -/
  retired : List Nat
  throttle : Throttle
  /-- The corrected count, 0 to 65535 (R70). -/
  corrected : Nat
  deriving DecidableEq, Repr

/-! ### The nest engine (chapter 7) -/

/-- A step's mode (R123). -/
inductive StepMode where
  | fill
  | exact
  deriving DecidableEq, Repr

/-- A step of an accepted plan with the line's pairing at acceptance (R116). -/
structure PlanStep where
  line : Nat
  quota : Nat
  mode : StepMode
  pair : Option Pairing
  deriving DecidableEq, Repr

/-- A nest queue entry (R114). -/
structure QueueEntry where
  slot : Nat
  plan : List PlanStep
  deriving DecidableEq, Repr

/-- The role of a stack entry, and of a search (R114). -/
inductive Role where
  | single
  | primary
  | mirror
  deriving DecidableEq, Repr

/-- A TENTATIVE entry of the placement stack (R114). -/
structure Entry where
  line : Nat
  slot : Nat
  variant : Nat
  x : Nat
  y : Nat
  role : Role
  deriving DecidableEq, Repr

/-- A search in progress (R100): the line it lays a unit of, with the line's piece slot, pairing and piece as read when
the search began, and how many of its candidates have been tested and failed (log entry 11). -/
structure Search where
  role : Role
  line : Nat
  slot : Nat
  pair : Option Pairing
  piece : Piece
  tried : Nat
  deriving DecidableEq, Repr

/-- What the engine's next event is (R118 to R123, R128, R129). -/
inductive Phase where
  /-- The stop checks of a unit attempt. -/
  | attempt
  /-- A fit test of the search. -/
  | search (q : Search)
  /-- The push of the fit found. -/
  | found (q : Search) (variant x y : Nat)
  /-- The pop of the PRIMARY entry whose mirror search found no fit. -/
  | mirrorNoFit
  /-- The end of the step in progress. -/
  | ending (r : EndReason)
  /-- The end of the pass. -/
  | passEnd
  /-- The abort of the pass. -/
  | aborting
  deriving DecidableEq, Repr

/-- The context of the current pass (R113); the stack stands newest entry first. -/
structure Pass where
  slot : Nat
  plan : List PlanStep
  step : Nat
  units : Nat
  stack : List Entry
  phase : Phase
  deriving DecidableEq, Repr

/-- The Nest Engine: IDLE is the absence of a pass (R113). -/
structure Engine where
  queue : List QueueEntry
  pass : Option Pass
  deriving DecidableEq, Repr

/-! ### The dispatch arbiter (chapter 8) -/

/-- The dispatch state (R132). -/
inductive DispatchState where
  | run
  | hold
  deriving DecidableEq, Repr

/-- The Dispatch Arbiter (R132). -/
structure Arbiter where
  state : DispatchState
  /-- Waiting hide slots in ascending release number (R133). -/
  waiting : List Nat
  ratio : Nat
  lastGranted : Fin 4
  deriving DecidableEq, Repr

/-! ### The cutter channels (chapter 9) -/

/-- The seven states of R146. -/
inductive ChannelState where
  | stopped
  | idle
  | running
  | draining
  | held
  | aborting
  | faulted
  deriving DecidableEq, Repr

/-- The deadline of a ticket out (R157): the time it runs for, or expired. -/
structure Deadline where
  ticket : TicketRef
  seconds : Nat
  expired : Bool
  deriving DecidableEq, Repr

/-- What a channel's outstanding request is; a ticket or a query names its ticket (R145, R150, R152, R158). -/
inductive OwnRequest where
  | ticket (ticket : TicketRef)
  | query (ticket : TicketRef)
  | abort
  deriving DecidableEq, Repr

/-- The outstanding request with its tag (R150). -/
structure Outstanding where
  request : OwnRequest
  tag : Nat
  deriving DecidableEq, Repr

/-- The causes of a channel fault (R160). -/
inductive FaultCause where
  | cutterFault
  | queryLimit
  | cutterRestarted
  deriving DecidableEq, Repr

/-- The record of a channel (R145); tickets out are counted from the placements. -/
structure Channel where
  state : ChannelState
  enabled : Bool
  ready : Bool
  hide : Option Nat
  ticketCounter : Nat
  /-- Deadlines in the order in which their tickets were sent (R157). -/
  deadlines : List Deadline
  queryCount : Nat
  outstanding : Option Outstanding
  /-- The last fault cause with its code; absent is NONE with code 0. -/
  lastFault : Option (FaultCause × Nat)
  /-- The tag of the link's next request (R173). -/
  nextTag : Nat
  deriving DecidableEq, Repr

/-! ### Attention (chapter 11) -/

/-- Events of a hide source, in code order (R179). -/
inductive HideEvent where
  | mapOk
  | mapFailed
  | nestDone
  | struck
  | flawAfterIssue
  | hideDone
  | redispatch
  | discardDone
  deriving DecidableEq, Repr

/-- Events of a channel source, in code order (R179). -/
inductive ChannelEvent where
  | fault
  | overdue
  | staleReport
  | abortUnanswered
  | readySeen
  deriving DecidableEq, Repr

/-- Events of STORE, in code order (R179). -/
inductive StoreEvent where
  | framePoisoned
  | throttleOn
  | throttleOff
  deriving DecidableEq, Repr

/-- Events of PROFILE, in code order (R179). -/
inductive ProfileEvent where
  | loaded
  | defaulted
  | loadFailed
  | saved
  | saveFailed
  deriving DecidableEq, Repr

/-- An event on its source; BOOK's are the line notices (R179). -/
inductive Event where
  | hide (slot : Nat) (e : HideEvent)
  | channel (c : Fin 4) (e : ChannelEvent)
  | store (e : StoreEvent)
  | profile (e : ProfileEvent)
  deriving DecidableEq, Repr

/-- The Attention Unit. -/
structure Attention where
  /-- The pending events of every source but BOOK, each once, in ascending source and code (R179). -/
  events : List Event
  /-- Whether an ATTENTION frame waits (R183). -/
  waiting : Bool
  /-- Whether the first frame of the control link since the start is still to be sent (R175, R184). -/
  first : Bool
  /-- The TAG of the next ATTENTION frame (R178). -/
  nextTag : Nat
  deriving DecidableEq, Repr

/-! ### What the part sends -/

/-- The reasons of R172. -/
inductive Reason where
  | badCrc
  | badLength
  | badKind
  | notOnLink
  | busy
  | noSuch
  | wrongState
  | range
  | noRoom
  | throttled
  | isProtected
  | inUse
  | noFit
  | stale
  deriving DecidableEq, Repr

/-- How FLAW was handled, with what its reply carries (R80 to R83). -/
inductive FlawHandling where
  | staged (index count : Nat)
  | deferred (count : Nat)
  | applied (grade x0 y0 x1 y1 changed struck marked state : Nat)
  deriving DecidableEq, Repr

/-- The items HIDE_READ gives of a live hide (R56). -/
structure LiveView where
  tag : Nat
  width : Nat
  height : Nat
  backbone : Nat
  cols : Nat
  rows : Nat
  framed : Nat
  poisoned : Nat
  thickValid : Nat
  staged : Nat
  deferred : Nat
  deferredPoison : Nat
  listCount : Nat
  /-- PLACED, TICKETED, CUT, SPOILED, SKIPPED, STRUCK, WITHDRAWN. -/
  counts : List Nat
  stackDepth : Option Nat
  commit : Option CommitResult
  report : Option PassReport
  stepInProgress : Option Nat
  release : Option Release
  channel : Option (Fin 4)
  route : Option Route
  deriving DecidableEq, Repr

/-- One variant as PIECE_READ gives it (R35). -/
structure VariantView where
  orientation : Nat
  width : Nat
  height : Nat
  body : Nat
  zone1 : Nat
  zone2 : Nat
  zone3 : Nat
  deriving DecidableEq, Repr

/-- What PIECE_READ gives of a LOADING or READY slot (R35). -/
structure PieceView where
  code : Nat
  margin : Nat
  offsets : Byte
  band : Option (Nat × Nat)
  variants : List VariantView
  deriving DecidableEq, Repr

/-- What HOLD and RUN give (R141). -/
structure DispatchView where
  state : DispatchState
  ratio : Nat
  lastGranted : Fin 4
  /-- Slot, release number and urgency of each waiting hide. -/
  waiting : List (Nat × Nat × Urgency)
  deriving DecidableEq, Repr

/-- What CUTTER_READ gives (R164). -/
structure ChannelView where
  channel : Fin 4
  state : ChannelState
  enabled : Bool
  ready : Bool
  window : Nat
  ticketsOut : Nat
  queryCount : Nat
  nextTicket : Nat
  expired : Nat
  lastFault : Option (FaultCause × Nat)
  /-- Slot and tag of the assigned hide. -/
  hide : Option (Nat × Nat)
  /-- The KIND of the outstanding request. -/
  outstanding : Option Nat
  deriving DecidableEq, Repr

/-- The result fields of an ACCEPT, by the rule of the request. -/
inductive Result where
  /-- The rule names no field. -/
  | nothing
  /-- IDENTIFY (R191): vendor, part, revision, and the capacity figures in order. -/
  | identity (vendor part revision : Nat) (capacities : List Nat)
  /-- SET, GET (R186). -/
  | setting (code value : Nat)
  /-- A line's record (R11). -/
  | line (id : Nat) (l : Line)
  /-- Both records of a pair, the named line first (R11). -/
  | lines (id1 : Nat) (l1 : Line) (id2 : Nat) (l2 : Line)
  /-- LINE_REMOVE (R11). -/
  | removed (ids : List Nat)
  /-- PIECE_DEFINE, PIECE_READY, PIECE_ERASE (R29, R34): slot, state code, arena free count. -/
  | piece (slot state arenaFree : Nat)
  /-- VARIANT_DEFINE, VARIANT_ROWS (R29). -/
  | variant (slot state : Nat) (v : VariantView) (arenaFree : Nat)
  /-- PIECE_READ (R35). -/
  | pieceRecord (slot bank : Nat) (mode : BankMode) (state lines arenaFree : Nat) (p : Option PieceView)
      (row : Option (List Run))
  /-- BANK_MODE (R28). -/
  | bank (bank : Nat) (mode : BankMode)
  /-- HIDE_OPEN (R42). -/
  | opened (slot tag : Nat)
  /-- ROWS (R65). -/
  | rows (slot y taken free : Nat) (throttle : Throttle)
  /-- THICKNESS (R67). -/
  | thickness (slot taken invalid valid : Nat)
  /-- FLAW (R80). -/
  | flaw (slot : Nat) (f : FlawHandling)
  /-- FLAWS_CLEAR (R86). -/
  | flawsCleared (slot dropped : Nat)
  /-- MAP_COMMIT (R87): slot, state code, staged count. -/
  | committing (slot state staged : Nat)
  /-- HIDE_READ (R56): slot, state code, and the rest when live. -/
  | hide (slot state : Nat) (v : Option LiveView)
  /-- PLACEMENTS_READ (R111): slot, list count, and the records with their indices. -/
  | placements (slot count : Nat) (page : List (Nat × Placement))
  /-- DISCARD (R51): slot, tag, state code. -/
  | discarded (slot tag state : Nat)
  /-- CLOSE (R50). -/
  | closed (slot tag : Nat)
  /-- NEST (R116): slot, state code, entries ahead. -/
  | queued (slot state ahead : Nat)
  /-- PLACE, PLACE_PAIR (R107, R108): the new records and the hide's state code. -/
  | placed (records : List (Nat × Placement)) (state : Nat)
  /-- STRIKE (R109): placements struck, the hide's state code. -/
  | struck (count state : Nat)
  /-- RELEASE (R46). -/
  | released (slot number : Nat)
  /-- HOLD (R141). -/
  | holding (v : DispatchView)
  /-- RUN (R142), with the grants made. -/
  | running (v : DispatchView) (grants : Nat)
  /-- CUTTER_ENABLE, CUTTER_DISABLE, CUTTER_RESET (R147, R163). -/
  | channel (c : Fin 4) (state : ChannelState) (enabled ready : Bool)
  /-- CUTTER_READ (R164). -/
  | channelRecord (v : ChannelView)
  /-- STORE_READ (R74). -/
  | store (free owned retired : Nat) (throttle : Throttle) (corrected poisoned low resume : Nat)
  /-- ATTN_SUMMARY (R181). -/
  | summary (bytes : List Byte)
  /-- ATTN_READ of a source but BOOK (R181): the codes of its pending events. -/
  | pendingCodes (source : Nat) (codes : List Nat)
  /-- ATTN_READ of BOOK (R181): the notices set and up to 32 ids. -/
  | notices (source count : Nat) (ids : List Nat)
  /-- ATTN_CLEAR of a source but BOOK (R181). -/
  | cleared (source : Nat) (codes : List Nat) (summary : List Byte)
  /-- ATTN_CLEAR of BOOK (R181). -/
  | clearedBook (source count : Nat) (summary : List Byte)
  deriving DecidableEq, Repr

/-- A reply (R171); a NO_FIT carries the failing hide cell (R177). -/
inductive Reply where
  | accept (r : Result)
  | refuse (reason : Reason) (detail : Nat)
  | refuseNoFit (detail x y : Nat)
  deriving DecidableEq, Repr

/-- What a frame of the part carries. -/
inductive OutFrame where
  | reply (r : Reply)
  /-- TICKET (R151, R177). -/
  | ticket (number hideTag index code orientation x y : Nat)
  /-- TICKET_QUERY (R157). -/
  | ticketQuery (number hideTag index : Nat)
  /-- ABORT_HIDE (R162). -/
  | abortHide (hideTag : Nat)
  /-- ATTENTION (R178). -/
  | attention (summary : List Byte)
  deriving DecidableEq, Repr

/-- A frame the part has sent: its link, its TAG and what it carries. -/
structure Sent where
  link : Link
  tag : Nat
  frame : OutFrame
  deriving DecidableEq, Repr

/-! ### The link unit (chapter 10) -/

/-- A receiver (R169); IN_FRAME holds the bytes gathered after START. -/
inductive Receiver where
  | hunting
  | inFrame (gathered : List Byte)
  deriving DecidableEq, Repr

/-- What the reply to a request in hand waits for (R171, R174, R175; log entry 2). -/
inductive ReplyEnd where
  /-- No event: an idle step sends it. -/
  | idle
  /-- It is sent just before the change of the control link's rate that its request has caused. -/
  | rateChange
  /-- It is sent just before the restart after RESET. -/
  | restart
  deriving DecidableEq, Repr

/-- A request in hand, with the reply that is still to be sent (R171).
`begun` says that the reply's frame is being sent, and `behind` holds the replies, with their tags, that are due on the
link behind it, in the order in which they became due (R167). -/
structure InHand where
  kind : Nat
  tag : Nat
  reply : Reply
  ends : ReplyEnd
  begun : Bool
  behind : List (Nat × Reply)
  deriving DecidableEq, Repr

/-- One link. -/
structure LinkState where
  receiver : Receiver
  inHand : Option InHand
  deriving DecidableEq, Repr

/-- The Link Unit: six links, and the rate of the control link (R167, R174). -/
structure Links where
  control : LinkState
  scanner : LinkState
  cutters : Vector LinkState 4
  rate : Nat
  deriving DecidableEq, Repr

/-! ### What the operations hand one another -/

/-- A body cell of a variant with its zone class (R21). -/
structure BodyCell where
  i : Nat
  j : Nat
  zone : Nat
  deriving DecidableEq, Repr

/-- A rectangle of cells, corners included. -/
structure Rect where
  x0 : Nat
  y0 : Nat
  x1 : Nat
  y1 : Nat
  deriving DecidableEq, Repr

/-- A grade (00_scope.md 5.3). -/
inductive Grade where
  | a
  | b
  | c
  | reject
  deriving DecidableEq, Repr

/-- What a read of a cell of a hide gives (R59, R70); `fresh` says that this read poisoned the tile. -/
inductive CellRead where
  /-- The tile has no frame: OUTSIDE, without a read. -/
  | noFrame
  | outside
  | grade (g : Grade)
  | poisoned (fresh : Bool)
  deriving DecidableEq, Repr

/-- The result of a fit test (R98): the failing condition's code, the failing hide cell, and the tile the test's read
poisoned, if it did. -/
inductive FitResult where
  | pass
  | fail (code x y : Nat) (fresh : Option Nat)
  deriving DecidableEq, Repr

/-! ### The state of the part -/

/-- The part, block by block, with the model's own three fields at the end. -/
structure State where
  /-- Cut Order Book: lines in use by id; a line that is not listed is free (R1). -/
  book : Tab Line
  library : Library
  hides : HideTable
  grid : Grid
  engine : Engine
  arbiter : Arbiter
  /-- Cutter Channels 0 to 3. -/
  chans : Vector Channel 4
  attn : Attention
  profile : Profile
  links : Links
  /-- Model's own: the outcomes of the next checked reads of the command being taken (log entry 3). -/
  tape : List ReadOutcome
  /-- Model's own: the frames sent, newest first (log entry 2). -/
  sent : List Sent
  /-- Model's own: the commands waiting, first in, first out (log entry 1). -/
  pending : List Instr
  deriving DecidableEq, Repr

/-- A strike sweep as it runs (R102 to R105): the state, the placements struck, the TICKETED placements marked, and the
tiles poisoned in the round. -/
structure Sweep where
  s : State
  struck : Nat
  marked : List Nat
  fresh : List Nat
  deriving DecidableEq, Repr

/-- A flaw being applied (R79): the state, the changed cells, and the tiles poisoned by its reads. -/
structure Applied where
  s : State
  changed : List (Nat × Nat)
  fresh : List Nat
  deriving DecidableEq, Repr

/-- What ends a frame that is being gathered (R169): a LEN above 1024, a CRC that does not match, or the last byte of a
good frame. -/
inductive FrameEnd where
  | tooLong (tag len : Nat)
  | badCrc (tag : Nat)
  | good (kind tag : Nat) (payload : List Byte)
  deriving DecidableEq, Repr

/-- What a byte brings a receiver to: it goes on, or its frame ends, and it is HUNTING again (R169). -/
inductive Arrival where
  | going (r : Receiver)
  | ended (e : FrameEnd)
  deriving DecidableEq, Repr

/-- Nothing stops the part: the manual gives every event an effect, so there is no fault to name. -/
inductive Fault where
  deriving DecidableEq, Repr

/-- Why a command has no meaning here. -/
inductive Refusal where
  /-- Raised by exec alone, for a command whose meaning is not written; safe. No arm of exec raises it. -/
  | notModelled (mnemonic : String)
  deriving DecidableEq, Repr

/-- A channel after reset (R166, R175). -/
def Channel.fresh : Channel where
  state := .stopped
  enabled := false
  ready := false
  hide := none
  ticketCounter := 1
  deadlines := []
  queryCount := 0
  outstanding := none
  lastFault := none
  nextTag := 0

/-- A link after reset (R169, R175). -/
def LinkState.fresh : LinkState where
  receiver := .hunting
  inHand := none

/-- The part right after reset, on a part whose image no completed SAVE has written (R187): R20, R36, R57, R75, R94,
R112, R131, R144, R166, R175, R184, and by R190 the fixed defaults in force, DEFAULTED pending and the ATTENTION
frame it makes due waiting. -/
def State.reset : State where
  book := []
  library := { pieces := [], banks := Vector.replicate 4 .unlocked }
  hides := { slots := [], released := 0 }
  grid := { contents := [], covers := [], retired := [], throttle := .normal, corrected := 0 }
  engine := { queue := [], pass := none }
  arbiter := { state := .hold, waiting := [], ratio := 0, lastGranted := 3 }
  chans := Vector.replicate 4 Channel.fresh
  attn := { events := [.profile .defaulted], waiting := true, first := true, nextTag := 0 }
  profile := { settings := Settings.fixed, image := .bad, busy := .idle }
  links :=
    { control := LinkState.fresh, scanner := LinkState.fresh, cutters := Vector.replicate 4 LinkState.fresh,
      rate := 230400 }
  tape := []
  sent := []
  pending := []

end Sys2Proof.Machine
end

