-- ==== Sys2Proof/Machine/Ops.lean ====
section
/-! DEFINITION. The named operations over tables, memories and the records of State. -/

namespace Sys2Proof

/-! ### Tables -/

/-- The record at a key. -/
def Tab.get {α : Type} : Tab α → Nat → Option α
  | [], _ => none
  | (j, a) :: t, k => if j = k then some a else Tab.get t k

/-- The table with the record at a key written, in ascending key order. -/
def Tab.put {α : Type} : Tab α → Nat → α → Tab α
  | [], k, a => [(k, a)]
  | (j, b) :: t, k, a =>
    if k < j then (k, a) :: (j, b) :: t
    else if j = k then (k, a) :: t
    else (j, b) :: Tab.put t k a

/-- The table without the record at a key. -/
def Tab.del {α : Type} (t : Tab α) (k : Nat) : Tab α := t.filter fun e => decide (e.1 ≠ k)

/-- Keys strictly rising. -/
def Tab.sorted {α : Type} : Tab α → Bool
  | [] => true
  | (j, _) :: t => t.all (fun e => decide (j < e.1)) && Tab.sorted t

/-- A sorted list of numbers with one added, each at most once. -/
def insertNat : Nat → List Nat → List Nat
  | k, [] => [k]
  | k, j :: t => if k < j then k :: j :: t else if k = j then j :: t else j :: insertNat k t

/-! ### Byte memories

A memory reads `d` at every address it does not list, and lists no address whose byte is `d`. -/

/-- One byte. -/
def Mem.read (d : Byte) (m : Mem) (a : Nat) : Byte := (Tab.get m a).getD d

/-- One byte written; writing what an unlisted address reads as removes the entry. -/
def Mem.write (d : Byte) (m : Mem) (a : Nat) (b : Byte) : Mem := if b = d then Tab.del m a else Tab.put m a b

/-- The memory with `n` addresses from `a` back at what an unlisted address reads as. -/
def Mem.clear (m : Mem) (a n : Nat) : Mem := m.filter fun e => decide (e.1 < a ∨ a + n ≤ e.1)

/-- The canonical form: addresses strictly rising, no entry equal to `d`. -/
def Mem.wf (d : Byte) (m : Mem) : Bool := Tab.sorted m && m.all fun e => decide (e.2 ≠ d)

namespace Machine

/-! ### Codes -/

/-- State codes of R39. -/
def HideState.code : HideState → Nat
  | .mapping => 1
  | .committing => 2
  | .mapped => 3
  | .nestWait => 4
  | .nesting => 5
  | .nested => 6
  | .dispatchWait => 7
  | .cutting => 8
  | .done => 9
  | .discarding => 10

/-- State codes of R96. -/
def PlacementState.code : PlacementState → Nat
  | .placed => 1
  | .ticketed => 2
  | .cut => 3
  | .spoiled => 4
  | .skipped => 5
  | .struck => 6
  | .withdrawn => 7

/-- State codes of R146. -/
def ChannelState.code : ChannelState → Nat
  | .stopped => 0
  | .idle => 1
  | .running => 2
  | .draining => 3
  | .held => 4
  | .aborting => 5
  | .faulted => 6

/-- Reason codes of R172. -/
def Reason.code : Reason → Nat
  | .badCrc => 1
  | .badLength => 2
  | .badKind => 3
  | .notOnLink => 4
  | .busy => 5
  | .noSuch => 6
  | .wrongState => 7
  | .range => 8
  | .noRoom => 9
  | .throttled => 10
  | .isProtected => 11
  | .inUse => 12
  | .noFit => 13
  | .stale => 14

/-- Fault cause codes of R160. -/
def FaultCause.code : FaultCause → Nat
  | .cutterFault => 1
  | .queryLimit => 2
  | .cutterRestarted => 3

/-- End reason codes of R124. -/
def EndReason.code : EndReason → Nat
  | .quota => 1
  | .demandMet => 2
  | .notActive => 3
  | .listFull => 4
  | .noFit => 5

/-- The KIND of a request of the part's own (R176). -/
def OwnRequest.kind : OwnRequest → Nat
  | .ticket _ => 0x60
  | .query _ => 0x61
  | .abort => 0x62

/-! ### Geometry of a hide (R37, R59) -/

/-- Tile columns. -/
def Hide.cols (h : Hide) : Nat := (h.width + 31) / 32

/-- Tile rows. -/
def Hide.tileRows (h : Hide) : Nat := (h.height + 31) / 32

/-- The number, in tile raster order, of the tile of a cell. -/
def Hide.tileOf (h : Hide) (x y : Nat) : Nat := y / 32 * h.cols + x / 32

/-- The cell lies in the extent. -/
def Hide.inExtent (h : Hide) (x y : Nat) : Bool := decide (x < h.width) && decide (y < h.height)

/-- The Grid Store's address of a cell held in a frame (R58). -/
def cellAddr (frame x y : Nat) : Nat := frame * Config.frameCells + y % 32 * 32 + x % 32

/-- The address of a cell of the hide, where it lies in the extent and in a tile with a frame (R59). -/
def Hide.cellAt (h : Hide) (x y : Nat) : Option Nat :=
  if h.inExtent x y then (Tab.get h.frames (h.tileOf x y)).map fun f => cellAddr f x y else none

/-- What an unlisted content reads as: OUTSIDE (R58). -/
def outsideCode : Byte := 7

/-- What an unlisted cover count reads as (R58). -/
def noCover : Byte := 0

/-- What an unlisted raster cell reads as: zone class 0 (R31). -/
def noZone : Byte := 0

namespace State

/-! ### Records of State -/

/-- The line in use under an id. -/
def line (s : State) (id : Nat) : Option Line := Tab.get s.book id

/-- A line record written. -/
def putLine (s : State) (id : Nat) (l : Line) : State := { s with book := Tab.put s.book id l }

/-- A line record freed. -/
def dropLine (s : State) (id : Nat) : State := { s with book := Tab.del s.book id }

/-- The piece in a slot that is not EMPTY. -/
def piece (s : State) (slot : Nat) : Option Piece := Tab.get s.library.pieces slot

/-- A piece record written. -/
def putPiece (s : State) (slot : Nat) (p : Piece) : State :=
  { s with library := { s.library with pieces := Tab.put s.library.pieces slot p } }

/-- A slot emptied. -/
def dropPiece (s : State) (slot : Nat) : State :=
  { s with library := { s.library with pieces := Tab.del s.library.pieces slot } }

/-- The hide in a slot that is not FREE. -/
def hide (s : State) (slot : Nat) : Option Hide := Tab.get s.hides.slots slot

/-- A hide record written. -/
def putHide (s : State) (slot : Nat) (h : Hide) : State :=
  { s with hides := { s.hides with slots := Tab.put s.hides.slots slot h } }

/-- A slot made FREE. -/
def dropHide (s : State) (slot : Nat) : State :=
  { s with hides := { s.hides with slots := Tab.del s.hides.slots slot } }

/-- The hide of a slot changed; nothing where the slot is FREE. -/
def modHide (s : State) (slot : Nat) (f : Hide → Hide) : State :=
  match s.hide slot with
  | none => s
  | some h => s.putHide slot (f h)

/-- The hide's state set. -/
def setHideState (s : State) (slot : Nat) (st : HideState) : State := s.modHide slot fun h => { h with state := st }

/-- The record of a channel. -/
def chan (s : State) (c : Fin 4) : Channel := s.chans.get c

/-- A channel record written. -/
def putChan (s : State) (c : Fin 4) (ch : Channel) : State := { s with chans := s.chans.set c.1 ch c.2 }

/-- A channel record changed. -/
def modChan (s : State) (c : Fin 4) (f : Channel → Channel) : State := s.putChan c (f (s.chan c))

/-- A placement of a hide. -/
def placement (s : State) (slot i : Nat) : Option Placement :=
  match s.hide slot with
  | none => none
  | some h => h.placements[i]?

/-- A placement changed. -/
def modPlacement (s : State) (slot i : Nat) (f : Placement → Placement) : State :=
  s.modHide slot fun h => { h with placements := h.placements.modify i f }

/-- The state of one link. -/
def link (s : State) : Link → LinkState
  | .control => s.links.control
  | .scanner => s.links.scanner
  | .cutter c => s.links.cutters.get c

/-- The state of one link written. -/
def putLink (s : State) (l : Link) (v : LinkState) : State :=
  match l with
  | .control => { s with links := { s.links with control := v } }
  | .scanner => { s with links := { s.links with scanner := v } }
  | .cutter c => { s with links := { s.links with cutters := s.links.cutters.set c.1 v c.2 } }

/-- The link's receiver back at HUNTING (R169). -/
def hunt (s : State) (l : Link) : State := s.putLink l { s.link l with receiver := .hunting }

/-- The link's request in hand set (R171). -/
def setInHand (s : State) (l : Link) (q : Option InHand) : State := s.putLink l { s.link l with inHand := q }

/-- The request in hand whose reply's frame is being sent on a link (R167). -/
def beingSent (s : State) (l : Link) : Option InHand := (s.link l).inHand.filter InHand.begun

/-- No frame is being sent on a link. -/
def linkFree (s : State) (l : Link) : Bool := (s.beingSent l).isNone

/-- A frame sent on a link. -/
def send (s : State) (l : Link) (tag : Nat) (f : OutFrame) : State := { s with sent := ⟨l, tag, f⟩ :: s.sent }

/-- The settings in force. -/
def settings (s : State) : Settings := s.profile.settings

/-- The mode of a piece slot's bank (R21, R27). -/
def bankOf (s : State) (slot : Nat) : BankMode := (s.library.banks[slot / 32]?).getD .unlocked

end State

/-! ### Views of a hide -/

/-- Placements of the hide in one state. -/
def Hide.countIn (h : Hide) (st : PlacementState) : Nat := h.placements.countP fun p => decide (p.state = st)

/-- Some placement is PLACED. -/
def Hide.anyPlaced (h : Hide) : Bool := h.placements.any fun p => decide (p.state = .placed)

/-- Some placement is TICKETED. -/
def Hide.anyTicketed (h : Hide) : Bool := h.placements.any fun p => decide (p.state = .ticketed)

/-- Thickness entries that are VALID (R56). -/
def Hide.thickValid (h : Hide) : Nat :=
  h.thick.countP fun e => match e.2 with
    | .valid .. => true
    | .invalid => false

/-- The average of a VALID entry (R66). -/
def Thickness.average : Thickness → Option Nat
  | .valid a b c d => some ((a + b + c + d) / 4)
  | .invalid => none

/-! ### Views of the store (R60, R74) -/

/-- The frames named in some tile table. -/
def State.ownedFrames (s : State) : List Nat := s.hides.slots.flatMap fun e => e.2.frames.map (·.2)

/-- The owned frame count. -/
def State.owned (s : State) : Nat := s.ownedFrames.length

/-- The free frame count. -/
def State.free (s : State) : Nat := Config.tileFrames - (s.owned + s.grid.retired.length)

/-- The poisoned-tile count. -/
def State.poisonedTiles (s : State) : Nat := (s.hides.slots.map fun e => e.2.poisoned.length).sum

/-- The lowest number from `i` up, among the next `fuel`, that is not used. -/
def lowestUnused (used : List Nat) : Nat → Nat → Option Nat
  | 0, _ => none
  | fuel + 1, i => if used.contains i then lowestUnused used fuel (i + 1) else some i

/-- The lowest-numbered free frame (R60). -/
def State.lowestFree (s : State) : Option Nat :=
  lowestUnused (s.ownedFrames ++ s.grid.retired) Config.tileFrames 0

/-! ### Views of the library (R21, R26) -/

/-- The body cells in raster order: the raster lists only the cells whose zone class is not 0, by rising address. -/
def Variant.body (v : Variant) : List BodyCell := v.raster.map fun e => ⟨e.1 % v.width, e.1 / v.width, e.2.toNat⟩

/-- The body cell count. -/
def Variant.bodyCount (v : Variant) : Nat := v.raster.length

/-- The count of one zone class. -/
def Variant.zoneCount (v : Variant) (z : Nat) : Nat := v.raster.countP fun e => decide (e.2.toNat = z)

/-- The arena cells a variant claims (R26). -/
def Variant.area (v : Variant) : Nat := v.width * v.height

/-- The arena cells a piece claims. -/
def Piece.area (p : Piece) : Nat := (p.variants.map fun e => e.2.area).sum

/-- The arena's free count (R26). -/
def State.arenaFree (s : State) : Nat := Config.arenaCells - (s.library.pieces.map fun e => e.2.area).sum

/-- The variant of an orientation of the piece in a slot, with its piece. -/
def State.variantOf (s : State) (slot orientation : Nat) : Option (Piece × Variant) :=
  match s.piece slot with
  | none => none
  | some p => (Tab.get p.variants orientation).map fun v => (p, v)

/-- The halo setting of a flaw kind (R78). -/
def Settings.halo (g : Settings) : Nat → Nat
  | 0 => g.haloScar
  | 1 => g.haloBrand
  | 2 => g.haloTick
  | 3 => g.haloHole
  | 4 => g.haloFold
  | _ => g.haloChalk

/-- The window of a channel (R145). -/
def Settings.window (g : Settings) (c : Fin 4) : Nat :=
  match c with
  | 0 => g.window0
  | 1 => g.window1
  | 2 => g.window2
  | 3 => g.window3

/-- The four channels in number order. -/
def channels : List (Fin 4) := [0, 1, 2, 3]

/-! ### Outcomes -/

/-- Every command has a next state. -/
abbrev Out := Host.Outcome State Fault Refusal

/-- A command that reads cells, run with the outcomes it brings for its reads (R70, log entry 3). -/
def State.withReads (s : State) (reads : List ReadOutcome) (f : State → State) : State :=
  { f { s with tape := reads } with tape := s.tape }

end Machine

end Sys2Proof
end

