-- ==== Sys2Proof/Machine/Flags.lean ====
section
/-! DEFINITION. Pending events, line notices and the attention frame (chapter 11, and R18, R19). -/

namespace Sys2Proof.Machine

/-! ### Sources and codes (R179) -/

/-- Event codes of a hide source. -/
def HideEvent.code : HideEvent → Nat
  | .mapOk => 0
  | .mapFailed => 1
  | .nestDone => 2
  | .struck => 3
  | .flawAfterIssue => 4
  | .hideDone => 5
  | .redispatch => 6
  | .discardDone => 7

/-- Event codes of a channel source. -/
def ChannelEvent.code : ChannelEvent → Nat
  | .fault => 0
  | .overdue => 1
  | .staleReport => 2
  | .abortUnanswered => 3
  | .readySeen => 4

/-- Event codes of STORE. -/
def StoreEvent.code : StoreEvent → Nat
  | .framePoisoned => 0
  | .throttleOn => 1
  | .throttleOff => 2

/-- Event codes of PROFILE. -/
def ProfileEvent.code : ProfileEvent → Nat
  | .loaded => 0
  | .defaulted => 1
  | .loadFailed => 2
  | .saved => 3
  | .saveFailed => 4

/-- The source byte of an event. -/
def Event.source : Event → Nat
  | .hide slot _ => slot
  | .channel c _ => 12 + c.1
  | .store _ => 17
  | .profile _ => 18

/-- The code of an event in its source's list. -/
def Event.code : Event → Nat
  | .hide _ e => e.code
  | .channel _ e => e.code
  | .store e => e.code
  | .profile e => e.code

/-- The BOOK source (R179). -/
def bookSource : Nat := 16

/-- How many events a source other than BOOK has (R179). -/
def eventCount (source : Nat) : Nat :=
  if source < 12 then 8 else if source < 16 then 5 else if source = 17 then 3 else if source = 18 then 5 else 0

/-- One number for an event: sources ascending, and codes ascending within a source. -/
def Event.key (e : Event) : Nat := e.source * 8 + e.code

/-- An event made pending: the set holds it once, in ascending source and code. -/
def insertEvent (e : Event) : List Event → List Event
  | [] => [e]
  | d :: t => if e = d then d :: t else if e.key < d.key then e :: d :: t else d :: insertEvent e t

namespace State

/-! ### The summary -/

/-- Some line's notice is set: BOOK is pending (R19). -/
def bookPending (s : State) : Bool := s.book.any fun e => e.2.notice

/-- The source has a pending event (R179). -/
def sourcePending (s : State) (source : Nat) : Bool :=
  if source = bookSource then s.bookPending else s.attn.events.any fun e => decide (e.source = source)

/-- The summary is not empty. -/
def anyPending (s : State) : Bool := !s.attn.events.isEmpty || s.bookPending

/-- The bits of eight sources from `base` up, as one byte of the summary (R177). -/
def summaryByte (s : State) (base : Nat) : Byte :=
  BitVec.ofNat 8 (((List.range 8).map fun k => if s.sourcePending (base + k) then 2 ^ k else 0).sum)

/-- The attention summary: H0 to H7; H8 to H11 and C0 to C3; BOOK, STORE and PROFILE (R177). -/
def summary (s : State) : List Byte := [s.summaryByte 0, s.summaryByte 8, s.summaryByte 16]

/-- The codes pending on a source, ascending (R181). -/
def pendingCodes (s : State) (source : Nat) : List Nat :=
  (s.attn.events.filter fun e => decide (e.source = source)).map Event.code

/-- The ids of the lines with their notice set, ascending (R19). -/
def noticeIds (s : State) : List Nat := (s.book.filter fun e => e.2.notice).map (·.1)

/-! ### Raising (R179, R182, R183) -/

/-- The frame that a raise makes due by ATTN_MODE, tested against the summary just before the raise (R182); one frame
at most waits, so one that is due while another waits is merged into it (R183). -/
def frameDue (s : State) : State :=
  match s.settings.attnMode with
  | .each => { s with attn := { s.attn with waiting := true } }
  | .edge => if s.anyPending then s else { s with attn := { s.attn with waiting := true } }

/-- An event raised on its source. -/
def raise (e : Event) (s : State) : State :=
  { s.frameDue with attn := { s.frameDue.attn with events := insertEvent e s.attn.events } }

/-- A line's record written with its notice set: a raise on BOOK (R18). -/
def raiseNotice (id : Nat) (l : Line) (s : State) : State := s.frameDue.putLine id { l with notice := true }

/-! ### Clearing (R180) -/

/-- Every event of one hide source cleared. -/
def clearHide (slot : Nat) (s : State) : State :=
  { s with attn := { s.attn with events := s.attn.events.filter fun e => decide (e.source ≠ slot) } }

/-- The listed codes of a source cleared (R181). -/
def clearCodes (source : Nat) (codes : List Nat) (s : State) : State :=
  { s with attn := { s.attn with
      events := s.attn.events.filter fun e => !(decide (e.source = source) && codes.contains e.code) } }

/-- A line's notice cleared; a free id is passed over (R19). -/
def clearNotice (s : State) (id : Nat) : State :=
  match s.line id with
  | none => s
  | some l => s.putLine id { l with notice := false }

/-- The notices of the listed lines cleared (R19, R181). -/
def clearNotices (ids : List Nat) (s : State) : State := ids.foldl clearNotice s

end State

end Sys2Proof.Machine
end

