-- ==== Sys2Proof/Machine/Operands.lean ====
section
/-! DEFINITION. How a request is taken on its link, and how its fields are checked in order (R11, R29, R32, R40, R170,
R171). -/

namespace Sys2Proof.Machine

/-! ### Checks in order -/

/-- One check of a request's rule: whether it passes, and the refusal where it fails. -/
abbrev Check := Bool × Reason × Nat

/-- The refusal of the first check that fails (R11). -/
def firstFail : List Check → Option Reply
  | [] => none
  | (ok, reason, detail) :: t => if ok then firstFail t else some (.refuse reason detail)

/-- The request's work where every check passes; otherwise the first refusal, with nothing changed. -/
def checked (s : State) (checks : List Check) (go : State × Reply) : State × Reply :=
  match firstFail checks with
  | some r => (s, r)
  | none => go

/-- A refusal that changes nothing. -/
def refuse (s : State) (reason : Reason) (detail : Nat) : State × Reply := (s, .refuse reason detail)

/-- The checks of R40, then the hide's state: taken in the states of `taken`, BUSY in those of `busy`, and WRONG_STATE
in the others, with the state code. -/
def onHide (s : State) (slot : Nat) (taken busy : List HideState) (go : Hide → State × Reply) : State × Reply :=
  if slot < Config.hideSlots then
    match s.hide slot with
    | none => refuse s .noSuch slot
    | some h =>
      if taken.contains h.state then go h
      else if busy.contains h.state then refuse s .busy h.state.code
      else refuse s .wrongState h.state.code
  else refuse s .range slot

/-- Every live state. -/
def liveStates : List HideState :=
  [.mapping, .committing, .mapped, .nestWait, .nesting, .nested, .dispatchWait, .cutting, .done, .discarding]

/-- The slot-state code of R29. -/
def pieceCode : Option Piece → Nat
  | none => 0
  | some p => match p.state with
    | .loading => 1
    | .ready => 2

/-- The common checks of R29: the slot's range, its bank, its state. -/
def pieceChecks (s : State) (slot : Nat) (states : List Nat) : List Check :=
  [(decide (slot < Config.pieceSlots), .range, 0),
   (decide (s.bankOf slot = .unlocked), .isProtected, slot / 32),
   (states.contains (pieceCode (s.piece slot)), .wrongState, pieceCode (s.piece slot))]

/-- The checks of a list of runs laid from column `e` (R32, R64): of each run in list order its code, its length, and
that it ends within the width. -/
def runChecks (codeOk : Nat → Bool) (longest width : Nat) : Nat → Nat → List Run → List Check
  | _, _, [] => []
  | k, e, r :: t =>
    (codeOk r.code, .range, 256 + k) ::
    (decide (1 ≤ r.length) && decide (r.length ≤ longest), .range, 512 + k) ::
    (decide (e + r.length ≤ width), .range, 768 + k) :: runChecks codeOk longest width (k + 1) (e + r.length) t

/-- The cells of a list of runs laid end to end from column `x`, each with its code. -/
def runCells : Nat → List Run → List (Nat × Nat)
  | _, [] => []
  | x, r :: t => (List.range r.length).map (fun k => (x + k, r.code)) ++ runCells (x + r.length) t

/-- A row's cells as the shortest list of runs (R35). -/
def shortestRuns : List Nat → List Run
  | [] => []
  | z :: t => match shortestRuns t with
    | [] => [⟨z, 1⟩]
    | r :: rs => if r.code = z then ⟨z, r.length + 1⟩ :: rs else ⟨z, 1⟩ :: r :: rs

/-! ### Frames of the part (R167, R171, R175, R178) -/

namespace State

/-- The ATTENTION frame sent, with the summary as it stands (R178). -/
def sendAttention (s : State) : State :=
  { s with attn := { s.attn with waiting := false, first := false, nextTag := (s.attn.nextTag + 1) % 256 } }.send .control
    s.attn.nextTag (.attention s.summary)

/-- The first frame of the control link after a start is the ATTENTION frame (R175, R184): a reply that would go first
makes it go before (log entry 28). -/
def lead (l : Link) (s : State) : State :=
  match l with
  | .control => if s.attn.first then s.sendAttention else s
  | .scanner => s
  | .cutter _ => s

/-- A reply on a link, with the request's tag (R171): sent, or, while another reply's frame is being sent there, due
behind it (R167). -/
def answer (s : State) (l : Link) (tag : Nat) (r : Reply) : State :=
  match s.beingSent l with
  | none => (s.lead l).send l tag (.reply r)
  | some q => s.setInHand l (some { q with behind := q.behind ++ [(tag, r)] })

/-- A request that stays in hand with its reply, whose frame may have begun (R171, log entry 2). -/
def hold (s : State) (l : Link) (kind tag : Nat) (begun : Bool) (e : ReplyEnd) (r : Reply) : State :=
  (if begun then s.lead l else s).setInHand l (some ⟨kind, tag, r, e, begun, []⟩)

end State

/-! ### A request on its link -/

/-- The frame of a reply begins in the step of its request, unless the request is slow and does not say so (log
entry 2). -/
def replyBegun (h : Head) : Bool := !h.slow || h.sending

/-- A good frame of a request kind taken on its link, and its reply (R169 to R171).
The receiver is HUNTING again after the frame's last byte.
A LEN that is not the length of the kind's fields is refused BAD_LENGTH, and a frame behind a request in hand is
refused BUSY with the kind in hand; neither changes another block, and the refusal goes before the reply in hand unless
that reply's frame has begun (log entry 2).
Otherwise the owning block takes the request whole, and its reply is sent; the reply of a request that is `slow`, or
whose `ends` names a later event, stays in hand and is sent then (log entry 2). -/
def requestUntil (ends : State → Option ReplyEnd) (l : Link) (kind : Nat) (h : Head) (len : Nat)
    (body : State → State × Reply) (s : State) : State :=
  if h.len.all fun n => n == len then
    match (s.link l).inHand with
    | some q => (s.hunt l).answer l h.tag (.refuse .busy q.kind)
    | none =>
      let r := body (s.hunt l)
      match ends r.1 with
      | some e => r.1.hold l kind h.tag (replyBegun h) e r.2
      | none => if h.slow then r.1.hold l kind h.tag h.sending .idle r.2 else r.1.answer l h.tag r.2
  else (s.hunt l).answer l h.tag (.refuse .badLength (h.len.getD len))

/-- A request whose reply waits for no later event. -/
def request (l : Link) (kind : Nat) (h : Head) (len : Nat) (body : State → State × Reply) (s : State) : State :=
  requestUntil (fun _ => none) l kind h len body s

/-- The link of a partner that only sends requests. -/
def upLink : UpLink → Link
  | .control => .control
  | .scanner => .scanner

/-- The channel field of a host request (R147): outside 0..3 it is refused RANGE with the value given. -/
def onChannel (s : State) (channel : Nat) (go : Fin 4 → State × Reply) : State × Reply :=
  if hc : channel < 4 then go ⟨channel, hc⟩ else refuse s .range channel

end Sys2Proof.Machine
end

