-- ==== Sys2Proof/Machine/Book.lean ====
section
/-! DEFINITION. The Cut Order Book (chapter 1): the claims, and the six line requests. -/

namespace Sys2Proof.Machine

namespace State

/-! ### Completion and closing (R9, R18) -/

/-- A line's record written after a change of its counts, with the test of R9: a line that finishes takes its final
state and its notice. -/
def settleLine (id : Nat) (l : Line) (s : State) : State :=
  match l.state with
  | .active =>
    if l.openUnits = 0 ∧ l.reserved = 0 then s.raiseNotice id { l with state := .complete } else s.putLine id l
  | .cancelling => if l.reserved = 0 then s.raiseNotice id { l with state := .closed } else s.putLine id l
  | .complete => s.putLine id l
  | .closed => s.putLine id l

/-! ### Claims (R5 to R8) -/

/-- A line that a reserve takes a unit from (R6). -/
def canReserve (l : Line) : Bool := decide (l.state = .active) && decide (1 ≤ l.openUnits)

/-- A reserve (R6); none where it is refused. -/
def claimReserve (id : Nat) (s : State) : Option State :=
  match s.line id with
  | none => none
  | some l =>
    if canReserve l then some (s.putLine id { l with openUnits := l.openUnits - 1, reserved := l.reserved + 1 })
    else none

/-- A resolve (R7).
A claim on a line that is free, finished or without a reserved unit does not arise, and changes nothing. -/
def claimResolve (id : Nat) (s : State) : State :=
  match s.line id with
  | none => s
  | some l =>
    if l.reserved = 0 then s
    else match l.state with
      | .active => s.settleLine id { l with reserved := l.reserved - 1, cut := l.cut + 1 }
      | .cancelling => s.settleLine id { l with reserved := l.reserved - 1, cut := l.cut + 1 }
      | .complete => s
      | .closed => s

/-- A return (R8).
A claim on a line that is free, finished or without a reserved unit does not arise, and changes nothing. -/
def claimReturn (id : Nat) (s : State) : State :=
  match s.line id with
  | none => s
  | some l =>
    if l.reserved = 0 then s
    else match l.state with
      | .active => s.settleLine id { l with reserved := l.reserved - 1, openUnits := l.openUnits + 1 }
      | .cancelling => s.settleLine id { l with reserved := l.reserved - 1, ordered := l.ordered - 1 }
      | .complete => s
      | .closed => s

/-! ### Lines and pairs -/

/-- The mirror line's id and record; the record is absent only where no run leads (R2). -/
def mirrorOf (s : State) (l : Line) : Option (Nat × Option Line) := l.pair.map fun p => (p.mirror, s.line p.mirror)

/-- The named line and then its mirror, as the replies of R11 carry them. -/
def lineResult (s : State) (id : Nat) : Result :=
  match s.line id with
  | none => .nothing
  | some l =>
    match l.pair with
    | none => .line id l
    | some p => match s.line p.mirror with
      | none => .line id l
      | some m => .lines id l p.mirror m

/-- The work of one request on a line and, where it is paired, on its mirror, the named line first. -/
def onPair (id : Nat) (l : Line) (f : Nat → State → State) (s : State) : State :=
  match l.pair with
  | none => f id s
  | some p => f p.mirror (f id s)

/-- The slot holds a READY piece (R12). -/
def slotReady (s : State) (slot : Nat) : Bool := decide (pieceCode (s.piece slot) = 2)

end State

/-- A line in one of the two finished states. -/
def Line.finished (l : Line) : Bool := decide (l.state = .complete) || decide (l.state = .closed)

/-- The record that LINE_ADD and PAIR_ADD create (R12, R13). -/
def newLine (slot style size ordered : Nat) (pair : Option Pairing) : Line where
  state := .active
  slot := slot
  style := style
  size := size
  ordered := ordered
  openUnits := ordered
  reserved := 0
  cut := 0
  pair := pair
  notice := false

/-- An ordered value of 1..4095 (R12). -/
def orderedOk (n : Nat) : Bool := decide (1 ≤ n) && decide (n ≤ 4095)

/-! ### LINE_ADD (R12) -/

/-- LINE_ADD as the book takes it. -/
def lineAddBody (id slot style size ordered : Nat) (s : State) : State × Reply :=
  checked s
    [(decide (slot < Config.pieceSlots), .range, 1),
     (orderedOk ordered, .range, 2),
     ((s.line id).isNone, .inUse, id),
     (s.slotReady slot, .wrongState, slot)]
    (let t := s.putLine id (newLine slot style size ordered none)
     (t, .accept (t.lineResult id)))

/-- LINE_ADD. -/
def execLineAdd (h : Head) (id slot style size ordered : Nat) (s : State) : Out :=
  .next (request .control 0x10 h 8 (lineAddBody id slot style size ordered) s)

/-! ### PAIR_ADD (R13) -/

/-- PAIR_ADD as the book takes it. -/
def pairAddBody (id1 id2 slot1 slot2 ordered style size : Nat) (s : State) : State × Reply :=
  checked s
    [(decide (id1 ≠ id2), .range, 1),
     (decide (slot1 < Config.pieceSlots), .range, 2),
     (decide (slot2 < Config.pieceSlots), .range, 3),
     (orderedOk ordered, .range, 4),
     ((s.line id1).isNone, .inUse, id1),
     ((s.line id2).isNone, .inUse, id2),
     (s.slotReady slot1, .wrongState, slot1),
     (s.slotReady slot2, .wrongState, slot2)]
    (let t := (s.putLine id1 (newLine slot1 style size ordered (some ⟨id2, .first⟩))).putLine id2
        (newLine slot2 style size ordered (some ⟨id1, .second⟩))
     (t, .accept (t.lineResult id1)))

/-- PAIR_ADD. -/
def execPairAdd (h : Head) (id1 id2 slot1 slot2 ordered style size : Nat) (s : State) : Out :=
  .next (request .control 0x11 h 10 (pairAddBody id1 id2 slot1 slot2 ordered style size) s)

/-! ### LINE_RESIZE (R14) -/

/-- The new ordered value on one line. -/
def resizeLine (ordered id : Nat) (s : State) : State :=
  match s.line id with
  | none => s
  | some l => s.settleLine id { l with ordered := ordered, openUnits := ordered - l.reserved - l.cut }

/-- The units a line must keep on order. -/
def Line.held (l : Line) : Nat := l.reserved + l.cut

/-- A check on the mirror line, where there is one. -/
def onMirror (m : Option (Nat × Option Line)) (ok : Line → Bool) : Bool :=
  m.all fun e => e.2.any ok

/-- The id of the mirror line. -/
def mirrorId (m : Option (Nat × Option Line)) : Nat := (m.map (·.1)).getD 0

/-- The smallest acceptable value of R14. -/
def smallestOrdered (l : Line) (m : Option (Nat × Option Line)) : Nat :=
  match m with
  | some (_, some k) => max l.held k.held
  | _ => l.held

/-- LINE_RESIZE as the book takes it. -/
def lineResizeBody (id ordered : Nat) (s : State) : State × Reply :=
  match s.line id with
  | none => refuse s .noSuch id
  | some l =>
    let m := s.mirrorOf l
    checked s
      [(decide (l.state = .active), .wrongState, id),
       (onMirror m fun k => decide (k.state = .active), .wrongState, mirrorId m),
       (orderedOk ordered, .range, 0),
       (decide (l.held ≤ ordered), .range, smallestOrdered l m),
       (onMirror m fun k => decide (k.held ≤ ordered), .range, smallestOrdered l m)]
      (let t := s.onPair id l (resizeLine ordered)
       (t, .accept (t.lineResult id)))

/-- LINE_RESIZE. -/
def execLineResize (h : Head) (id ordered : Nat) (s : State) : Out :=
  .next (request .control 0x12 h 3 (lineResizeBody id ordered) s)

/-! ### LINE_CANCEL (R15) -/

/-- The cancel of one line: an ACTIVE line takes the row of R15's table; a line in another state stays as it is. -/
def cancelLine (id : Nat) (s : State) : State :=
  match s.line id with
  | none => s
  | some l =>
    if l.state = .active then
      if l.reserved = 0 then s.raiseNotice id { l with state := .closed, ordered := l.cut, openUnits := 0 }
      else s.putLine id { l with state := .cancelling, ordered := l.reserved + l.cut, openUnits := 0 }
    else s

/-- The mirror line is ACTIVE. -/
def mirrorActive (m : Option (Nat × Option Line)) : Bool :=
  m.any fun e => e.2.any fun k => decide (k.state = .active)

/-- LINE_CANCEL as the book takes it. -/
def lineCancelBody (id : Nat) (s : State) : State × Reply :=
  match s.line id with
  | none => refuse s .noSuch id
  | some l =>
    checked s [(decide (l.state = .active) || mirrorActive (s.mirrorOf l), .wrongState, id)]
      (let t := s.onPair id l cancelLine
       (t, .accept (t.lineResult id)))

/-- LINE_CANCEL. -/
def execLineCancel (h : Head) (id : Nat) (s : State) : Out :=
  .next (request .control 0x13 h 1 (lineCancelBody id) s)

/-! ### LINE_REMOVE (R16) -/

/-- LINE_REMOVE as the book takes it; of a pair, the reply carries the named line's id first (log entry 39). -/
def lineRemoveBody (id : Nat) (s : State) : State × Reply :=
  match s.line id with
  | none => refuse s .noSuch id
  | some l =>
    let m := s.mirrorOf l
    checked s
      [(l.finished, .wrongState, id),
       (onMirror m Line.finished, .wrongState, mirrorId m)]
      (s.onPair id l fun k t => t.dropLine k, .accept (.removed (id :: (m.map (·.1)).toList)))

/-- LINE_REMOVE. -/
def execLineRemove (h : Head) (id : Nat) (s : State) : Out :=
  .next (request .control 0x14 h 1 (lineRemoveBody id) s)

/-! ### LINE_READ (R17) -/

/-- LINE_READ as the book takes it. -/
def lineReadBody (id : Nat) (s : State) : State × Reply :=
  match s.line id with
  | none => refuse s .noSuch id
  | some l => (s, .accept (.line id l))

/-- LINE_READ. -/
def execLineRead (h : Head) (id : Nat) (s : State) : Out := .next (request .control 0x15 h 1 (lineReadBody id) s)

end Sys2Proof.Machine
end

