-- ==== Sys2Proof/Machine/Grid.lean ====
section
/-! DEFINITION. The Grid Store (chapter 4): cells, frames, the throttle, thickness, cover, checked reads and poisoning,
with ROWS, THICKNESS and STORE_READ. -/

namespace Sys2Proof.Machine

/-! ### Grades (00_scope.md 5.3) -/

/-- A grade's value. -/
def Grade.val : Grade → Nat
  | .a => 0
  | .b => 1
  | .c => 2
  | .reject => 3

/-- The grade of a value. -/
def Grade.ofVal : Nat → Option Grade
  | 0 => some .a
  | 1 => some .b
  | 2 => some .c
  | 3 => some .reject
  | _ => none

/-- A grade as a cell content. -/
def Grade.byte (g : Grade) : Byte := BitVec.ofNat 8 g.val

namespace State

/-! ### The throttle (R62) -/

/-- The throttle THROTTLED; a change from NORMAL raises THROTTLE_ON. -/
def toThrottled (s : State) : State :=
  match s.grid.throttle with
  | .throttled => s
  | .normal => { s with grid := { s.grid with throttle := .throttled } }.raise (.store .throttleOn)

/-- The throttle NORMAL; a change from THROTTLED raises THROTTLE_OFF. -/
def toNormal (s : State) : State :=
  match s.grid.throttle with
  | .normal => s
  | .throttled => { s with grid := { s.grid with throttle := .normal } }.raise (.store .throttleOff)

/-- The evaluation after an allocation. -/
def allocationEval (s : State) : State := if s.free < s.settings.frameLow then s.toThrottled else s

/-- The evaluation after a release. -/
def releaseEval (s : State) : State := if s.settings.frameResume ≤ s.free then s.toNormal else s

/-- The evaluation after a change of the marks (R63). -/
def markEval (s : State) : State :=
  if s.free < s.settings.frameLow then s.toThrottled
  else if s.settings.frameResume ≤ s.free then s.toNormal
  else s

/-! ### Frames (R60, R61, R65) -/

/-- The lowest free frame taken for a tile of a hide, its contents OUTSIDE and its covers 0. -/
def takeFrame (slot : Nat) (s : State) (tile : Nat) : State :=
  match s.lowestFree with
  | none => s
  | some f =>
    let t := s.modHide slot fun h => { h with frames := Tab.put h.frames tile f }
    { t with grid := { t.grid with
        contents := Mem.clear t.grid.contents (f * Config.frameCells) Config.frameCells
        covers := Mem.clear t.grid.covers (f * Config.frameCells) Config.frameCells } }

/-- The frames of a hide's poisoned tiles, which retire when its slot is freed. -/
def poisonedFrames (h : Hide) : List Nat := h.poisoned.filterMap fun t => Tab.get h.frames t

/-- A slot freed (R55, R61): the frames of poisoned tiles retire and the others are free again, the record goes with
its map data and lists, and the throttle is evaluated once for the release. -/
def freeSlot (slot : Nat) (s : State) : State :=
  match s.hide slot with
  | none => s
  | some h =>
    let t := { s with grid := { s.grid with retired := (poisonedFrames h).foldl (fun r f => insertNat f r) s.grid.retired } }
    (t.dropHide slot).releaseEval

/-! ### Poisoning and checked reads (R70, R71) -/

/-- A tile poisoned: its mark is set and FRAME_POISONED is raised on STORE. -/
def poisonTile (slot tile : Nat) (s : State) : State :=
  (s.modHide slot fun h => { h with poisoned := insertNat tile h.poisoned }).raise (.store .framePoisoned)

/-- What a content reads as. -/
def contentRead (s : State) (addr : Nat) : CellRead :=
  match Grade.ofVal (Mem.read outsideCode s.grid.contents addr).toNat with
  | some g => .grade g
  | none => .outside

/-- A read of a cell of a hide (R59, R70).
A tile without a frame and a poisoned tile need no check.
Any other read takes the next outcome of the tape: a single-bit error gives the corrected content and counts, up to
65535; an uncorrectable error poisons the tile. -/
def readCell (slot x y : Nat) (s : State) : State × CellRead :=
  match s.hide slot with
  | none => (s, .noFrame)
  | some h =>
    match Tab.get h.frames (h.tileOf x y) with
    | none => (s, .noFrame)
    | some f =>
      if h.poisoned.contains (h.tileOf x y) then (s, .poisoned false)
      else
        let t := { s with tape := s.tape.tail }
        match s.tape.head? with
        | some .uncorrectable => (poisonTile slot (h.tileOf x y) t, .poisoned true)
        | some .singleBit =>
          ({ t with grid := { t.grid with corrected := min 65535 (t.grid.corrected + 1) } },
            s.contentRead (cellAddr f x y))
        | _ => (t, s.contentRead (cellAddr f x y))

/-! ### Cover (R68) -/

/-- The cover count of a cell of a hide; none where the cell is outside the extent or its tile has no frame. -/
def coverAt (s : State) (slot x y : Nat) : Option Nat :=
  match s.hide slot with
  | none => none
  | some h => (h.cellAt x y).map fun a => (Mem.read noCover s.grid.covers a).toNat

end State

/-- Cell (a, b), counted from `margin` cells before the bounding box, lies within the margin of some body cell. -/
def Variant.claims (v : Variant) (margin a b : Nat) : Bool :=
  v.body.any fun c =>
    decide (c.i ≤ a) && decide (a ≤ c.i + 2 * margin) && decide (c.j ≤ b) && decide (b ≤ c.j + 2 * margin)

/-- The addresses of the cells a placement claims: its body, and its margin ring inside the extent and in framed
tiles (R68). -/
def claimed (h : Hide) (margin : Nat) (v : Variant) (x y : Nat) : List Nat :=
  (List.range (v.height + 2 * margin)).flatMap fun b =>
    (List.range (v.width + 2 * margin)).filterMap fun a =>
      if decide (margin ≤ x + a) && decide (margin ≤ y + b) && v.claims margin a b then
        h.cellAt (x + a - margin) (y + b - margin)
      else none

/-- One added to the cover count at each address. -/
def addCover (covers : Mem) (addrs : List Nat) : Mem :=
  addrs.foldl (fun m a => Mem.write noCover m a (Mem.read noCover m a + 1)) covers

/-- One taken from the cover count at each address. -/
def subCover (covers : Mem) (addrs : List Nat) : Mem :=
  addrs.foldl (fun m a => Mem.write noCover m a (Mem.read noCover m a - 1)) covers

namespace State

/-- The addresses claimed on a hide by a piece's variant laid at a position. -/
def claimedOn (s : State) (slot margin : Nat) (v : Variant) (x y : Nat) : List Nat :=
  match s.hide slot with
  | none => []
  | some h => claimed h margin v x y

/-- The cover of a placement marked (R68). -/
def markCover (slot margin : Nat) (v : Variant) (x y : Nat) (s : State) : State :=
  { s with grid := { s.grid with covers := addCover s.grid.covers (s.claimedOn slot margin v x y) } }

/-- The cover of a placement unmarked, its variant read from the library (R23, R68). -/
def unmarkCover (slot pieceSlot orientation x y : Nat) (s : State) : State :=
  match s.variantOf pieceSlot orientation with
  | none => s
  | some (p, v) =>
    { s with grid := { s.grid with covers := subCover s.grid.covers (s.claimedOn slot p.margin v x y) } }

/-! ### ROWS (R64, R65) -/

/-- The tiles of a row's cells that need a frame, in the order in which the runs first reach them. -/
def newTiles (h : Hide) (y : Nat) (cells : List (Nat × Nat)) : List Nat :=
  ((cells.filter fun c => decide (c.2 < 4) && (Tab.get h.frames (h.tileOf c.1 y)).isNone).map
    fun c => h.tileOf c.1 y).eraseDups

/-- One cell of a run written; nothing where its tile has no frame. -/
def writeCell (slot y : Nat) (s : State) (c : Nat × Nat) : State :=
  match s.hide slot with
  | none => s
  | some h =>
    match h.cellAt c.1 y with
    | none => s
    | some a => { s with grid := { s.grid with
        contents := Mem.write outsideCode s.grid.contents a (if c.2 < 4 then BitVec.ofNat 8 c.2 else outsideCode) } }

/-- The work of an accepted ROWS (R65). -/
def layRows (slot y : Nat) (tiles : List Nat) (cells : List (Nat × Nat)) (s : State) : State :=
  let t := cells.foldl (writeCell slot y) (tiles.foldl (takeFrame slot) s)
  if tiles.isEmpty then t else t.allocationEval

end State

/-- A content code of R64. -/
def contentCode (c : Nat) : Bool := decide (c < 4) || decide (c = 7)

/-- ROWS as the Grid Store takes it (R64, R65). -/
def rowsBody (slot y x : Nat) (runs : List Run) (s : State) : State × Reply :=
  onHide s slot [.mapping] [.committing] fun h =>
    let cells := runCells x runs
    let tiles := State.newTiles h y cells
    checked s
      ([(decide (y < h.height), .range, 1),
        (decide (x < h.width), .range, 2),
        (decide (1 ≤ runs.length) && decide (runs.length ≤ 255), .range, 3)] ++
        runChecks contentCode 255 h.width 0 x runs ++
        [(decide (tiles.length ≤ s.free), .noRoom, tiles.length)])
      (let t := s.layRows slot y tiles cells
       (t, .accept (.rows slot y tiles.length t.free t.grid.throttle)))

/-- ROWS. -/
def execRows (h : Head) (slot y x : Nat) (runs : List Run) (s : State) : Out :=
  .next (request .scanner 0x31 h (6 + 2 * runs.length) (rowsBody slot y x runs) s)

/-! ### THICKNESS (R66, R67) -/

/-- A valid reading. -/
def readingOk (v : Nat) : Bool := decide (30 ≤ v) && decide (v ≤ 600)

/-- A tile's entry after one reading (R67). -/
def thicknessAfter (old : Option Thickness) (v : Nat) : Thickness :=
  if readingOk v then
    match old with
    | some (.valid _ b c d) => .valid b c d v
    | _ => .valid v v v v
  else .invalid

/-- One reading taken on its tile. -/
def takeReading (h : Hide) (r : Reading) : Hide :=
  let tile := r.row * h.cols + r.col
  { h with thick := Tab.put h.thick tile (thicknessAfter (Tab.get h.thick tile) r.value) }

/-- The checks of the entries: first every column, then every row (R67 checks 4 and 5). -/
def readingChecks (h : Hide) (entries : List Reading) : List Check :=
  (entries.zipIdx.map fun e => ((decide (e.1.col < h.cols), .range, 256 + e.2) : Check)) ++
  (entries.zipIdx.map fun e => ((decide (e.1.row < h.tileRows), .range, 512 + e.2) : Check))

/-- THICKNESS as the Grid Store takes it (R67). -/
def thicknessBody (slot : Nat) (entries : List Reading) (s : State) : State × Reply :=
  onHide s slot [.mapping, .mapped] [.committing] fun h =>
    checked s
      ((decide (1 ≤ entries.length) && decide (entries.length ≤ 64), .range, 0) :: readingChecks h entries)
      (let g := entries.foldl takeReading h
       (s.putHide slot g,
        .accept (.thickness slot entries.length (entries.countP fun r => !readingOk r.value) g.thickValid)))

/-- THICKNESS. -/
def execThickness (h : Head) (slot : Nat) (entries : List Reading) (s : State) : Out :=
  .next (request .scanner 0x32 h (2 + 4 * entries.length) (thicknessBody slot entries) s)

/-! ### STORE_READ (R74) -/

/-- STORE_READ as the Grid Store takes it. -/
def storeReadBody (s : State) : State × Reply :=
  (s, .accept (.store s.free s.owned s.grid.retired.length s.grid.throttle s.grid.corrected s.poisonedTiles
    s.settings.frameLow s.settings.frameResume))

/-- STORE_READ. -/
def execStoreRead (h : Head) (s : State) : Out := .next (request .control 0x54 h 0 storeReadBody s)

end Sys2Proof.Machine
end

