-- ==== Sys2Proof/Machine/Library.lean ====
section
/-! DEFINITION. The Pattern Library (chapter 2): the seven library requests. -/

namespace Sys2Proof.Machine

/-! ### Usable variants (R24) -/

/-- Orientation `v` is allowed on a hide with backbone `b`: (v − b) mod 8 is in the set. -/
def allowed (offsets : Byte) (b v : Nat) : Bool := offsets.getLsbD ((v + 8 - b % 8) % 8)

/-- A variant laid at (x, y) keeps its bounding box inside the extent (R25). -/
def boxFits (h : Hide) (v : Variant) (x y : Nat) : Bool :=
  decide (x + v.width ≤ h.width) && decide (y + v.height ≤ h.height)

/-! ### What the replies carry -/

/-- A variant as the replies give it (R29, R35). -/
def Variant.view (o : Nat) (v : Variant) : VariantView where
  orientation := o
  width := v.width
  height := v.height
  body := v.bodyCount
  zone1 := v.zoneCount 1
  zone2 := v.zoneCount 2
  zone3 := v.zoneCount 3

/-- A piece as PIECE_READ gives it (R35). -/
def Piece.view (p : Piece) : PieceView where
  code := p.code
  margin := p.margin
  offsets := p.offsets
  band := p.band
  variants := p.variants.map fun e => Variant.view e.1 e.2

/-- The reply of the requests that change a slot (R29, R34). -/
def pieceResult (s : State) (slot : Nat) : Result := .piece slot (pieceCode (s.piece slot)) s.arenaFree

/-- The reply of the requests that change a variant (R29). -/
def variantResult (s : State) (slot o : Nat) (v : Variant) : Result :=
  .variant slot (pieceCode (s.piece slot)) (Variant.view o v) s.arenaFree

/-! ### PIECE_DEFINE (R30) -/

/-- A thickness of 30..600. -/
def bandOk (n : Nat) : Bool := decide (30 ≤ n) && decide (n ≤ 600)

/-- PIECE_DEFINE as the library takes it. -/
def pieceDefineBody (slot code margin : Nat) (offsets : Byte) (band : Option (Nat × Nat)) (s : State) :
    State × Reply :=
  checked s
    (pieceChecks s slot [0] ++
      [(decide (margin ≤ 3), .range, 1),
       (band.all fun b => bandOk b.1, .range, 2),
       (band.all fun b => bandOk b.2, .range, 3),
       (band.all fun b => decide (b.1 ≤ b.2), .range, 4)])
    (let t := s.putPiece slot ⟨.loading, code, margin, offsets, band, []⟩
     (t, .accept (pieceResult t slot)))

/-- PIECE_DEFINE. -/
def execPieceDefine (h : Head) (slot code margin : Nat) (offsets : Byte) (band : Option (Nat × Nat)) (s : State) :
    Out :=
  .next (request .control 0x20 h 10 (pieceDefineBody slot code margin offsets band) s)

/-! ### VARIANT_DEFINE (R31) -/

/-- The area that a redefinition gives back. -/
def oldArea (p : Piece) (o : Nat) : Nat := ((Tab.get p.variants o).map Variant.area).getD 0

/-- A length of 1..192. -/
def boxOk (n : Nat) : Bool := decide (1 ≤ n) && decide (n ≤ 192)

/-- VARIANT_DEFINE as the library takes it. -/
def variantDefineBody (slot o width height : Nat) (s : State) : State × Reply :=
  let room := s.arenaFree + ((s.piece slot).map fun p => oldArea p o).getD 0
  checked s
    (pieceChecks s slot [1] ++
      [(decide (o < 8), .range, 1),
       (boxOk width, .range, 2),
       (boxOk height, .range, 3),
       (decide (width * height ≤ room), .noRoom, width * height - room)])
    (match s.piece slot with
     | none => refuse s .wrongState 0
     | some p =>
       let v : Variant := ⟨width, height, []⟩
       let t := s.putPiece slot { p with variants := Tab.put p.variants o v }
       (t, .accept (variantResult t slot o v)))

/-- VARIANT_DEFINE. -/
def execVariantDefine (h : Head) (slot o width height : Nat) (s : State) : Out :=
  .next (request .control 0x21 h 4 (variantDefineBody slot o width height) s)

/-! ### VARIANT_ROWS (R32) -/

/-- The cells of one row written into a raster. -/
def writeZones (v : Variant) (row : Nat) (cells : List (Nat × Nat)) : Variant :=
  { v with raster := cells.foldl (fun m c => Mem.write noZone m (row * v.width + c.1) (BitVec.ofNat 8 c.2)) v.raster }

/-- VARIANT_ROWS as the library takes it.
R32 lists no check of the list's count, so an empty list is taken and writes nothing (log entry 6). -/
def variantRowsBody (slot o row start : Nat) (runs : List Run) (s : State) : State × Reply :=
  let found := (s.variantOf slot o).map (·.2)
  let width := (found.map Variant.width).getD 0
  checked s
    (pieceChecks s slot [1] ++
      [(found.isSome, .range, 1),
       (found.any fun v => decide (row < v.height), .range, 2),
       (decide (start < width), .range, 3)] ++
      runChecks (fun z => decide (z < 4)) 192 width 0 start runs)
    (match s.variantOf slot o with
     | none => refuse s .range 1
     | some (p, v) =>
       let w := writeZones v row (runCells start runs)
       let t := s.putPiece slot { p with variants := Tab.put p.variants o w }
       (t, .accept (variantResult t slot o w)))

/-- VARIANT_ROWS. -/
def execVariantRows (h : Head) (slot o row start : Nat) (runs : List Run) (s : State) : Out :=
  .next (request .control 0x22 h (5 + 2 * runs.length) (variantRowsBody slot o row start runs) s)

/-! ### PIECE_READY (R33) -/

/-- The lowest orientation whose variant has no body cell. -/
def Piece.bodiless (p : Piece) : Option Nat := (p.variants.find? fun e => decide (e.2.bodyCount = 0)).map (·.1)

/-- PIECE_READY as the library takes it. -/
def pieceReadyBody (slot : Nat) (s : State) : State × Reply :=
  checked s (pieceChecks s slot [1])
    (match s.piece slot with
     | none => refuse s .wrongState 0
     | some p =>
       checked s
         [(!p.variants.isEmpty, .range, 1),
          (p.bodiless.isNone, .range, 16 + p.bodiless.getD 0),
          (decide (p.offsets ≠ 0), .range, 2)]
         (let t := s.putPiece slot { p with state := .ready }
          (t, .accept (pieceResult t slot))))

/-- PIECE_READY. -/
def execPieceReady (h : Head) (slot : Nat) (s : State) : Out :=
  .next (request .control 0x23 h 1 (pieceReadyBody slot) s)

/-! ### PIECE_ERASE (R34) -/

/-- The lowest line in use that names a slot. -/
def namingLine (s : State) (slot : Nat) : Option Nat := (s.book.find? fun e => decide (e.2.slot = slot)).map (·.1)

/-- The count of lines in use that name a slot (R35). -/
def namingCount (s : State) (slot : Nat) : Nat := s.book.countP fun e => decide (e.2.slot = slot)

/-- PIECE_ERASE as the library takes it. -/
def pieceEraseBody (slot : Nat) (s : State) : State × Reply :=
  checked s
    (pieceChecks s slot [1, 2] ++
      [((namingLine s slot).isNone, .inUse, (namingLine s slot).getD 0)])
    (let t := s.dropPiece slot
     (t, .accept (pieceResult t slot)))

/-- PIECE_ERASE. -/
def execPieceErase (h : Head) (slot : Nat) (s : State) : Out :=
  .next (request .control 0x24 h 1 (pieceEraseBody slot) s)

/-! ### PIECE_READ (R35) -/

/-- The zone classes of one row of a variant. -/
def rowZones (v : Variant) (row : Nat) : List Nat :=
  (List.range v.width).map fun i => (Mem.read noZone v.raster (row * v.width + i)).toNat

/-- PIECE_READ as the library takes it. -/
def pieceReadBody (slot : Nat) (row : Option (Nat × Nat)) (s : State) : State × Reply :=
  let found := row.bind fun r => (s.variantOf slot r.1).map (·.2)
  checked s
    [(decide (slot < Config.pieceSlots), .range, 0),
     (row.isNone || found.isSome, .range, 1),
     (row.all fun r => found.any fun v => decide (r.2 < v.height), .range, 2)]
    (s, .accept (.pieceRecord slot (slot / 32) (s.bankOf slot) (pieceCode (s.piece slot)) (namingCount s slot)
      s.arenaFree ((s.piece slot).map Piece.view)
      (row.bind fun r => found.map fun v => shortestRuns (rowZones v r.2))))

/-- PIECE_READ. -/
def execPieceRead (h : Head) (slot : Nat) (row : Option (Nat × Nat)) (s : State) : Out :=
  .next (request .control 0x25 h 4 (pieceReadBody slot row) s)

/-! ### BANK_MODE (R28) -/

/-- The mode of a code: OPEN 0, LOCKED 1 (R176). -/
def bankModeOf : Nat → Option BankMode
  | 0 => some .unlocked
  | 1 => some .locked
  | _ => none

/-- BANK_MODE as the library takes it; the detail of a mode outside the two is the free value of log entry 5. -/
def bankModeBody (bank mode : Nat) (s : State) : State × Reply :=
  if hb : bank < 4 then
    match bankModeOf mode with
    | none => refuse s .range (Config.bankModeDetail mode)
    | some m =>
      ({ s with library := { s.library with banks := s.library.banks.set bank m hb } }, .accept (.bank bank m))
  else refuse s .range 0

/-- BANK_MODE. -/
def execBankMode (h : Head) (bank mode : Nat) (s : State) : Out :=
  .next (request .control 0x26 h 2 (bankModeBody bank mode) s)

end Sys2Proof.Machine
end

