-- ==== Sys2Proof/Machine/Fit.lean ====
section
/-! DEFINITION. The fit test, the strike, the strike sweep and the application of a flaw (chapters 5 and 6). -/

namespace Sys2Proof.Machine

/-! ### The fit test (R98, R99) -/

/-- Condition 5 of R98 on one tile. -/
def thicknessOk (h : Hide) (band : Option (Nat × Nat)) (tile : Nat) : Bool :=
  band.all fun b => ((Tab.get h.thick tile).bind Thickness.average).any fun a => decide (b.1 ≤ a) && decide (a ≤ b.2)

/-- The conditions of R98 on one body cell laid on hide cell (x, y).
A re-test uses conditions 2 to 5; a first test uses all six. -/
def testCell (retest : Bool) (slot : Nat) (band : Option (Nat × Nat)) (h : Hide) (zone x y : Nat) (s : State) :
    State × FitResult :=
  if !retest && !h.inExtent x y then (s, .fail 1 x y none)
  else
    let r := s.readCell slot x y
    match r.2 with
    | .noFrame => (r.1, .fail 2 x y none)
    | .outside => (r.1, .fail 2 x y none)
    | .poisoned fresh => (r.1, .fail 3 x y (if fresh then some (h.tileOf x y) else none))
    | .grade g =>
      if zone < g.val + 1 then (r.1, .fail 4 x y none)
      else if !thicknessOk h band (h.tileOf x y) then (r.1, .fail 5 x y none)
      else if !retest && !decide (r.1.coverAt slot x y = some 0) then (r.1, .fail 6 x y none)
      else (r.1, .pass)

/-- The body cells tested in raster order, up to the first failure. -/
def testCells (retest : Bool) (slot : Nat) (band : Option (Nat × Nat)) (h : Hide) (x y : Nat) :
    List BodyCell → State → State × FitResult
  | [], s => (s, .pass)
  | c :: t, s =>
    let r := testCell retest slot band h c.zone (x + c.i) (y + c.j) s
    match r.2 with
    | .pass => testCells retest slot band h x y t r.1
    | .fail .. => r

/-- The fit test of a piece's variant at (x, y) on the hide of a slot (R98). -/
def fitTest (retest : Bool) (slot : Nat) (band : Option (Nat × Nat)) (v : Variant) (x y : Nat) (s : State) :
    State × FitResult :=
  match s.hide slot with
  | none => (s, .pass)
  | some h => testCells retest slot band h x y v.body s

namespace State

/-! ### Strikes (R103) -/

/-- A PLACED placement made STRUCK: its cover is unmarked, its line takes one return, and STRUCK is raised.
A placement that is not PLACED is left as it is. -/
def strikeOne (slot i : Nat) (s : State) : State :=
  match s.placement slot i with
  | none => s
  | some p =>
    if p.state = .placed then
      (((s.modPlacement slot i fun q => { q with state := .struck }).unmarkCover slot p.slot p.variant p.x p.y).claimReturn
        p.line).raise (.hide slot .struck)
    else s

/-- The placement is PLACED. -/
def isPlaced (s : State) (slot i : Nat) : Bool := (s.placement slot i).any fun p => decide (p.state = .placed)

/-- A PLACED placement struck, and then its partner where that is PLACED. -/
def strike (slot i : Nat) (s : State) : State :=
  match (s.placement slot i).bind Placement.partner with
  | none => s.strikeOne slot i
  | some j => (s.strikeOne slot i).strikeOne slot j

/-- How many placements a strike takes (R103). -/
def strikeCount (slot i : Nat) (s : State) : Nat :=
  match (s.placement slot i).bind Placement.partner with
  | none => 1
  | some j => if s.isPlaced slot j then 2 else 1

/-! ### The strike sweep (R102, R104, R105) -/

/-- The placement's body meets a cell of an area. -/
def bodyMeets (s : State) (p : Placement) (area : Nat → Nat → Bool) : Bool :=
  match s.variantOf p.slot p.variant with
  | none => false
  | some (_, v) => v.body.any fun c => area (p.x + c.i) (p.y + c.j)

/-- The indices of the placements of a hide in one state whose body meets an area, ascending. -/
def meeting (s : State) (slot : Nat) (st : PlacementState) (area : Nat → Nat → Bool) : List Nat :=
  match s.hide slot with
  | none => []
  | some h => (h.placements.zipIdx.filter fun e => decide (e.1.state = st) && s.bodyMeets e.1 area).map (·.2)

end State

/-- A tile joined to those poisoned in a round. -/
def joinFresh (fresh : Option Nat) (tiles : List Nat) : List Nat :=
  match fresh with
  | none => tiles
  | some t => insertNat t tiles

/-- One candidate re-tested, and struck where it fails; one that is no longer PLACED is passed over (R102). -/
def Sweep.retest (slot : Nat) (w : Sweep) (i : Nat) : Sweep :=
  match w.s.placement slot i with
  | none => w
  | some p =>
    if p.state = .placed then
      match w.s.variantOf p.slot p.variant with
      | none => w
      | some (pc, v) =>
        let r := fitTest true slot pc.band v p.x p.y w.s
        match r.2 with
        | .pass => { w with s := r.1 }
        | .fail _ _ _ fresh =>
          { w with s := r.1.strike slot i, struck := w.struck + r.1.strikeCount slot i, fresh := joinFresh fresh w.fresh }
    else w

/-- One TICKETED placement given the marker, with FLAW_AFTER_ISSUE raised (R104). -/
def Sweep.mark (slot : Nat) (w : Sweep) (i : Nat) : Sweep :=
  { w with
    s := (w.s.modPlacement slot i fun p => { p with marker := true }).raise (.hide slot .flawAfterIssue)
    marked := insertNat i w.marked }

/-- One round: the candidates of an area re-tested in ascending index, and then the TICKETED placements that meet the
changed cells marked (R105). -/
def Sweep.round (slot : Nat) (area changed : Nat → Nat → Bool) (w : Sweep) : Sweep :=
  let a := (w.s.meeting slot .placed area).foldl (Sweep.retest slot) { w with fresh := [] }
  (a.s.meeting slot .ticketed changed).foldl (Sweep.mark slot) a

/-- The cell lies in one of the tiles of a hide of the given tile columns. -/
def inTiles (cols : Nat) (tiles : List Nat) (x y : Nat) : Bool := tiles.contains (y / 32 * cols + x / 32)

/-- The further rounds, each over the tiles poisoned in the round before, to a round that poisons none (R105). -/
def Sweep.rounds (slot cols : Nat) : Nat → Sweep → Sweep
  | 0, w => w
  | fuel + 1, w =>
    if w.fresh.isEmpty then w
    else Sweep.rounds slot cols fuel (w.round slot (inTiles cols w.fresh) (inTiles cols w.fresh))

namespace State

/-- The tile columns of a hide. -/
def colsOf (s : State) (slot : Nat) : Nat := ((s.hide slot).map Hide.cols).getD 0

/-- More rounds than a sweep of the hide can take: each poisons one of its tiles (R105). -/
def roundsOf (s : State) (slot : Nat) : Nat := ((s.hide slot).map fun h => h.cols * h.tileRows + 1).getD 0

/-- A strike sweep over an area with its changed cells (R102 to R105). -/
def sweep (slot : Nat) (area changed : Nat → Nat → Bool) (s : State) : Sweep :=
  (Sweep.round slot area changed ⟨s, 0, [], []⟩).rounds slot (s.colsOf slot) (s.roundsOf slot)

/-- A strike sweep over one poisoned tile (R102). -/
def sweepTile (slot tile : Nat) (s : State) : Sweep :=
  s.sweep slot (inTiles (s.colsOf slot) [tile]) (inTiles (s.colsOf slot) [tile])

end State

/-! ### The application of a flaw (R77 to R79, R69) -/

/-- The flaw grade of a record by the settings in force (R77). -/
def flawGrade (g : Settings) (f : Flaw) : Grade :=
  if f.kind = 3 then .reject
  else if f.severity < g.sevT1 then .a
  else if f.severity < g.sevT2 then .b
  else if f.severity < g.sevT3 then .c
  else .reject

/-- The marked rectangle grown by the halo and clipped to the extent (R78). -/
def flawRect (g : Settings) (h : Hide) (f : Flaw) : Rect where
  x0 := f.x0 - g.halo f.kind
  y0 := f.y0 - g.halo f.kind
  x1 := min (f.x1 + g.halo f.kind) (h.width - 1)
  y1 := min (f.y1 + g.halo f.kind) (h.height - 1)

/-- The rectangle as marked (R76). -/
def markedRect (f : Flaw) : Rect := ⟨f.x0, f.y0, f.x1, f.y1⟩

/-- The cells of a rectangle in raster order. -/
def Rect.cells (r : Rect) : List (Nat × Nat) :=
  (List.range (r.y1 + 1 - r.y0)).flatMap fun b => (List.range (r.x1 + 1 - r.x0)).map fun a => (r.x0 + a, r.y0 + b)

/-- The cell lies in the rectangle. -/
def Rect.has (r : Rect) (x y : Nat) : Bool :=
  decide (r.x0 ≤ x) && decide (x ≤ r.x1) && decide (r.y0 ≤ y) && decide (y ≤ r.y1)

/-- The grade of one cell of a hide written (R69). -/
def writeGrade (slot x y : Nat) (g : Grade) (s : State) : State :=
  match (s.hide slot).bind fun h => h.cellAt x y with
  | none => s
  | some a => { s with grid := { s.grid with contents := Mem.write outsideCode s.grid.contents a g.byte } }

/-- One cell of the rectangle read and made the worse of its grade and the flaw grade (R69). -/
def applyCell (slot cols : Nat) (g : Grade) (a : Applied) (c : Nat × Nat) : Applied :=
  let r := a.s.readCell slot c.1 c.2
  match r.2 with
  | .noFrame => { a with s := r.1 }
  | .outside => { a with s := r.1 }
  | .poisoned fresh =>
    { a with s := r.1, fresh := if fresh then insertNat (c.2 / 32 * cols + c.1 / 32) a.fresh else a.fresh }
  | .grade e =>
    if e.val < g.val then { a with s := writeGrade slot c.1 c.2 g r.1, changed := c :: a.changed }
    else { a with s := r.1 }

/-- A flaw applied to the hide of a slot, with the settings in force (R79). -/
def applyFlaw (slot : Nat) (f : Flaw) (s : State) : Applied :=
  match s.hide slot with
  | none => ⟨s, [], []⟩
  | some h => (flawRect s.settings h f).cells.foldl (applyCell slot h.cols (flawGrade s.settings f)) ⟨s, [], []⟩

/-- The sweep that follows the application of a late or deferred flaw: it covers the clipped rectangle and the tiles
the application poisoned, and marks by the changed cells and those tiles (R73, R83, R102). -/
def sweepFlaw (slot : Nat) (rect : Rect) (a : Applied) : Sweep :=
  a.s.sweep slot
    (fun x y => rect.has x y || inTiles (a.s.colsOf slot) a.fresh x y)
    (fun x y => a.changed.contains (x, y) || inTiles (a.s.colsOf slot) a.fresh x y)

end Sys2Proof.Machine
end

