-- ==== Sys2Proof/Machine/Arbiter.lean ====
section
/-! DEFINITION. The Dispatch Arbiter (chapter 8), the settling of a hide and its channel (R49, R154), and HOLD and
RUN. -/

namespace Sys2Proof.Machine

namespace State

/-! ### What is grantable (R136) -/

/-- The release of a waiting hide. -/
def releaseOf (s : State) (slot : Nat) : Option Release := (s.hide slot).bind Hide.release

/-- The release number of a hide; 0 where it was never released. -/
def numberOf (s : State) (slot : Nat) : Nat := ((s.releaseOf slot).map Release.number).getD 0

/-- The channel may be granted a hide with this mask. -/
def eligible (s : State) (mask : Byte) (c : Fin 4) : Bool := mask.getLsbD c.1 && decide ((s.chan c).state = .idle)

/-- The mask of a waiting hide names an IDLE channel. -/
def grantable (s : State) (slot : Nat) : Bool := (s.releaseOf slot).any fun r => channels.any (s.eligible r.mask)

/-- The hide has the urgency. -/
def hasUrgency (s : State) (u : Urgency) (slot : Nat) : Bool := (s.releaseOf slot).any fun r => decide (r.urgency = u)

/-- The first hide of a class, by release number, that is grantable (R138). -/
def firstOf (s : State) (u : Urgency) : Option Nat :=
  s.arbiter.waiting.find? fun slot => s.grantable slot && s.hasUrgency u slot

/-- The order in which CUTTER_PICK looks at the channels (R138). -/
def pickOrder (s : State) : List (Fin 4) :=
  match s.settings.pick with
  | .lowest => channels
  | .rotate => channels.map fun k => s.arbiter.lastGranted + k + 1

/-- The channel granted to a hide (R138). -/
def pickChannel (s : State) (slot : Nat) : Option (Fin 4) :=
  (s.releaseOf slot).bind fun r => s.pickOrder.find? (s.eligible r.mask)

/-- The hide to grant and the ratio counter afterwards (R137). -/
def choice (s : State) : Option (Nat × Nat) :=
  match s.firstOf .rush, s.firstOf .normal with
  | none, none => none
  | some a, none => some (a, 0)
  | none, some b => some (b, 0)
  | some a, some b => if s.arbiter.ratio < s.settings.rushRatio then some (a, s.arbiter.ratio + 1) else some (b, 0)

/-! ### Grants (R138, R149) -/

/-- One grant, handed to the other blocks in the order of R138. -/
def grant (slot : Nat) (c : Fin 4) (ratio : Nat) (s : State) : State :=
  let t := { s with arbiter := { s.arbiter with waiting := s.arbiter.waiting.filter fun k => decide (k ≠ slot) } }
  let u := t.modHide slot fun h => { h with state := .cutting, channel := some c }
  let v := u.modChan c fun ch => { ch with state := .running, hide := some slot, queryCount := 0, deadlines := [] }
  { v with arbiter := { v.arbiter with ratio := ratio, lastGranted := c } }

/-- The grant that one pass of an evaluation makes, if any. -/
def nextGrant (s : State) : Option State :=
  match s.arbiter.state with
  | .hold => none
  | .run =>
    match s.choice with
    | none => none
    | some (slot, ratio) => (s.pickChannel slot).map fun c => s.grant slot c ratio

/-- Up to `fuel` grants, and how many were made. -/
def grants : Nat → State → State × Nat
  | 0, s => (s, 0)
  | fuel + 1, s =>
    match s.nextGrant with
    | none => (s, 0)
    | some t => ((grants fuel t).1, (grants fuel t).2 + 1)

/-- An evaluation (R136): each grant takes one of the four channels, so it makes at most four. -/
def evaluate (s : State) : State := (grants 4 s).1

/-- The number of grants an evaluation makes (R142). -/
def grantCount (s : State) : Nat := (grants 4 s).2

/-! ### The waiting list (R133 to R135) -/

/-- A hide slot put on a list in ascending release number. -/
def insertWaiting (s : State) (slot : Nat) : List Nat → List Nat
  | [] => [slot]
  | k :: t => if s.numberOf slot < s.numberOf k then slot :: k :: t else k :: insertWaiting s slot t

/-- A hide joins the waiting list at the place of its number (R134). -/
def joinWaiting (slot : Nat) (s : State) : State :=
  { s with arbiter := { s.arbiter with waiting := s.insertWaiting slot s.arbiter.waiting } }

/-- A hide leaves the waiting list without a grant (R135). -/
def leaveWaiting (slot : Nat) (s : State) : State :=
  { s with arbiter := { s.arbiter with waiting := s.arbiter.waiting.filter fun k => decide (k ≠ slot) } }

/-! ### DONE, and the settling of hide and channel (R49, R84, R154) -/

/-- A hide becomes DONE, its assigned channel absent, and HIDE_DONE is raised (R49). -/
def makeDone (slot : Nat) (s : State) : State :=
  (s.modHide slot fun h => { h with state := .done, channel := none }).raise (.hide slot .hideDone)

/-- The state of a channel at work, by whether its hide holds a PLACED placement (R154). -/
def workState (placed : Bool) : ChannelState → ChannelState
  | .running => if placed then .running else .draining
  | .draining => if placed then .running else .draining
  | st => st

/-- The hide and its channel settled after an event that changed placements of the hide (R49, R84, R109, R154). -/
def settle (slot : Nat) (s : State) : State :=
  match s.hide slot with
  | none => s
  | some h =>
    match h.state with
    | .dispatchWait => if h.anyPlaced then s else (s.leaveWaiting slot).makeDone slot
    | .cutting =>
      match h.channel with
      | none => s
      | some c =>
        if h.anyPlaced || h.anyTicketed then
          s.modChan c fun ch => { ch with state := workState h.anyPlaced ch.state }
        else ((s.modChan c fun ch => { ch with state := .idle, hide := none }).makeDone slot).evaluate
    | _ => s

/-- A poisoning handed to its hide (R72). -/
def handPoison (slot tile : Nat) (s : State) : State :=
  match s.hide slot with
  | none => s
  | some h =>
    match h.state with
    | .mapping => s
    | .committing => s
    | .discarding => s
    | .nesting => s.putHide slot { h with deferredPoison := insertNat tile h.deferredPoison }
    | .mapped => (s.sweepTile slot tile).s.settle slot
    | .nestWait => (s.sweepTile slot tile).s.settle slot
    | .nested => (s.sweepTile slot tile).s.settle slot
    | .dispatchWait => (s.sweepTile slot tile).s.settle slot
    | .cutting => (s.sweepTile slot tile).s.settle slot
    | .done => (s.sweepTile slot tile).s.settle slot

/-- The poisoning that a fit test found, if any, handed to its hide (R72, R99). -/
def handFresh (slot : Nat) (fresh : Option Nat) (s : State) : State :=
  match fresh with
  | none => s
  | some tile => s.handPoison slot tile

/-- What HOLD and RUN give (R141). -/
def dispatchView (s : State) : DispatchView where
  state := s.arbiter.state
  ratio := s.arbiter.ratio
  lastGranted := s.arbiter.lastGranted
  waiting := s.arbiter.waiting.map fun slot =>
    (slot, s.numberOf slot, ((s.releaseOf slot).map Release.urgency).getD .normal)

end State

/-! ### HOLD (R141) -/

/-- A channel as HOLD leaves it (R156). -/
def Channel.held (ch : Channel) : Channel :=
  match ch.state with
  | .running => { ch with state := .held }
  | .draining => { ch with state := .held }
  | _ => ch

/-- HOLD as the arbiter takes it. -/
def holdBody (s : State) : State × Reply :=
  let t := { s with arbiter := { s.arbiter with state := .hold }, chans := s.chans.map Channel.held }
  (t, .accept (.holding t.dispatchView))

/-- HOLD. -/
def execHold (h : Head) (s : State) : Out := .next (request .control 0x49 h 0 holdBody s)

/-! ### RUN (R142) -/

/-- A channel as RUN leaves it (R156). -/
def resumed (s : State) (ch : Channel) : Channel :=
  match ch.state with
  | .held =>
    { ch with state := if (ch.hide.bind s.hide).any Hide.anyPlaced then .running else .draining }
  | _ => ch

/-- RUN as the arbiter takes it. -/
def runBody (s : State) : State × Reply :=
  let t := { s with arbiter := { s.arbiter with state := .run }, chans := s.chans.map (resumed s) }
  (t.evaluate, .accept (.running t.evaluate.dispatchView t.grantCount))

/-- RUN. -/
def execRun (h : Head) (s : State) : Out := .next (request .control 0x4A h 0 runBody s)

end Sys2Proof.Machine
end

