-- ==== Sys2Proof/Machine/Hides.lean ====
section
/-! DEFINITION. Hide contexts (chapter 3): opening, release, closing, discarding and reading a hide. -/

namespace Sys2Proof.Machine

/-! ### HIDE_OPEN (R41, R42) -/

/-- The slot whose hide holds a tag. -/
def holderOf (s : State) (tag : Nat) : Option Nat := (s.hides.slots.find? fun e => decide (e.2.tag = tag)).map (·.1)

/-- The lowest-numbered FREE slot. -/
def freeHideSlot (s : State) : Option Nat := (List.range Config.hideSlots).find? fun k => (s.hide k).isNone

/-- The record a slot gets when it is taken (R42). -/
def newHide (tag width height backbone : Nat) : Hide where
  state := .mapping
  tag := tag
  width := width
  height := height
  backbone := backbone
  frames := []
  thick := []
  poisoned := []
  staged := []
  deferred := []
  deferredPoison := []
  placements := []
  commit := none
  report := none
  release := none
  channel := none
  route := none

/-- HIDE_OPEN as the table takes it. -/
def hideOpenBody (tag width height backbone : Nat) (s : State) : State × Reply :=
  checked s
    [(decide (16 ≤ width) && decide (width ≤ 1536), .range, 1),
     (decide (16 ≤ height) && decide (height ≤ 1152), .range, 2),
     (decide (backbone < 8), .range, 3),
     (decide (s.grid.throttle = .normal), .throttled, s.free),
     ((holderOf s tag).isNone, .inUse, (holderOf s tag).getD 0),
     ((freeHideSlot s).isSome, .noRoom, 0)]
    (match freeHideSlot s with
     | none => refuse s .noRoom 0
     | some slot => ((s.clearHide slot).putHide slot (newHide tag width height backbone), .accept (.opened slot tag)))

/-- HIDE_OPEN. -/
def execHideOpen (h : Head) (tag width height backbone : Nat) (s : State) : Out :=
  .next (request .scanner 0x30 h 9 (hideOpenBody tag width height backbone) s)

/-! ### RELEASE (R46, R47) -/

/-- The urgency of a code: RUSH 0, NORMAL 1 (R176). -/
def urgencyOf : Nat → Option Urgency
  | 0 => some .rush
  | 1 => some .normal
  | _ => none

/-- A mask names at least one of channels 0..3 and nothing else. -/
def maskOk (mask : Byte) : Bool := decide (1 ≤ mask.toNat) && decide (mask.toNat < 16)

/-- RELEASE as the table takes it; the arbiter evaluates before the reply is sent. -/
def releaseBody (slot urgency : Nat) (mask : Byte) (s : State) : State × Reply :=
  onHide s slot [.nested] [.nesting] fun h =>
    checked s
      [((urgencyOf urgency).isSome, .range, 1),
       (maskOk mask, .range, 2),
       (h.anyPlaced, .wrongState, 256),
       (decide (s.hides.released < Config.lastRelease), .noRoom, 0)]
      (let n := s.hides.released + 1
       let t := { s with hides := { s.hides with released := n } }
       let u := t.putHide slot
         { h with state := .dispatchWait, release := some ⟨n, (urgencyOf urgency).getD .normal, mask⟩ }
       ((u.joinWaiting slot).evaluate, .accept (.released slot n)))

/-- RELEASE. -/
def execRelease (h : Head) (slot urgency : Nat) (mask : Byte) (s : State) : Out :=
  .next (request .control 0x48 h 3 (releaseBody slot urgency mask) s)

/-! ### CLOSE (R50) -/

/-- CLOSE as the table takes it. -/
def closeBody (slot : Nat) (s : State) : State × Reply :=
  onHide s slot [.done] [] fun h => ((s.freeSlot slot).clearHide slot, .accept (.closed slot h.tag))

/-- CLOSE. -/
def execClose (h : Head) (slot : Nat) (s : State) : Out := .next (request .control 0x39 h 1 (closeBody slot) s)

/-! ### The completion of a discard (R54) -/

namespace State

/-- A PLACED or TICKETED placement made WITHDRAWN: its cover is unmarked and its line takes one return. -/
def withdraw (slot : Nat) (s : State) (i : Nat) : State :=
  match s.placement slot i with
  | none => s
  | some p =>
    if p.state = .placed ∨ p.state = .ticketed then
      ((s.modPlacement slot i fun q => { q with state := .withdrawn }).unmarkCover slot p.slot p.variant p.x
        p.y).claimReturn p.line
    else s

/-- Step 1: every placement of the hide in ascending index. -/
def withdrawAll (slot : Nat) (s : State) : State :=
  match s.hide slot with
  | none => s
  | some h => (List.range h.placements.length).foldl (withdraw slot) s

/-- The engine's stack set. -/
def setStack (stack : List Entry) (s : State) : State :=
  { s with engine := { s.engine with pass := s.engine.pass.map fun p => { p with stack := stack } } }

/-- One entry unmarked and returned (R122). -/
def popEntry (slot : Nat) (s : State) (e : Entry) : State :=
  (s.unmarkCover slot e.slot e.variant e.x e.y).claimReturn e.line

/-- The entries of the stack that a hide's pass holds, newest first. -/
def stackOf (s : State) (slot : Nat) : List Entry :=
  match s.engine.pass with
  | none => []
  | some p => if p.slot = slot then p.stack else []

/-- Step 2: the stack popped, newest entry first. -/
def popAll (slot : Nat) (s : State) : State :=
  if (s.stackOf slot).isEmpty then s else ((s.stackOf slot).foldl (popEntry slot) s).setStack []

/-- The slot taken out of the nest queue. -/
def leaveQueue (slot : Nat) (s : State) : State :=
  { s with engine := { s.engine with queue := s.engine.queue.filter fun e => decide (e.slot ≠ slot) } }

/-- The completion of a discard (R54).
The channel of a CUTTING hide is let go by the event that completes its discard (R162). -/
def completeDiscard (slot : Nat) (s : State) : State :=
  (((((s.withdrawAll slot).popAll slot).leaveQueue slot).leaveWaiting slot).freeSlot slot |>.clearHide slot).raise
    (.hide slot .discardDone)

/-- A discard that waits on a block (R52, R53). -/
def beginDiscard (slot : Nat) (r : Route) (s : State) : State :=
  s.modHide slot fun h => { h with state := .discarding, route := some r }

/-- The channel of a hide being discarded: ABORTING, its deadlines lapsed (R53, R157, log entry 9). -/
def abortChannel (c : Option (Fin 4)) (s : State) : State :=
  match c with
  | none => s
  | some c => s.modChan c fun ch => { ch with state := .aborting, deadlines := [] }

end State

/-! ### DISCARD (R51 to R53) -/

/-- DISCARD as the table takes it. -/
def discardBody (slot : Nat) (s : State) : State × Reply :=
  onHide s slot [.mapping, .committing, .mapped, .nestWait, .nesting, .nested, .dispatchWait, .cutting, .done] []
    fun h =>
      match h.state with
      | .nesting => (s.beginDiscard slot .engine, .accept (.discarded slot h.tag HideState.discarding.code))
      | .cutting =>
        ((s.beginDiscard slot .channel).abortChannel h.channel,
          .accept (.discarded slot h.tag HideState.discarding.code))
      | _ => (s.completeDiscard slot, .accept (.discarded slot h.tag 0))

/-- DISCARD. -/
def execDiscard (l : UpLink) (h : Head) (slot : Nat) (s : State) : Out :=
  .next (request (upLink l) 0x38 h 1 (discardBody slot) s)

/-! ### HIDE_READ (R56) -/

/-- The hide's pass is running, or was until its discard. -/
def Hide.inPass (h : Hide) : Bool :=
  decide (h.state = .nesting) || (decide (h.state = .discarding) && decide (h.route = some .engine))

/-- The index of the step in progress: absent once the last step has ended (log entry 15). -/
def stepInProgress (s : State) (slot : Nat) : Option Nat :=
  match s.engine.pass with
  | none => none
  | some p => if p.slot = slot ∧ p.step < p.plan.length then some p.step else none

/-- The record of a live hide as HIDE_READ gives it. -/
def liveView (s : State) (slot : Nat) (h : Hide) : LiveView where
  tag := h.tag
  width := h.width
  height := h.height
  backbone := h.backbone
  cols := h.cols
  rows := h.tileRows
  framed := h.frames.length
  poisoned := h.poisoned.length
  thickValid := h.thickValid
  staged := h.staged.length
  deferred := h.deferred.length
  deferredPoison := h.deferredPoison.length
  listCount := h.placements.length
  counts := [.placed, .ticketed, .cut, .spoiled, .skipped, .struck, .withdrawn].map h.countIn
  stackDepth := if h.inPass then some (s.stackOf slot).length else none
  commit := h.commit
  report := h.report
  stepInProgress := stepInProgress s slot
  release := h.release
  channel := h.channel
  route := h.route

/-- The state code of a slot: 0 is FREE (R39). -/
def stateCode (s : State) (slot : Nat) : Nat := ((s.hide slot).map fun h => h.state.code).getD 0

/-- HIDE_READ as the table takes it. -/
def hideReadBody (slot : Nat) (s : State) : State × Reply :=
  checked s [(decide (slot < Config.hideSlots), .range, slot)]
    (s, .accept (.hide slot (stateCode s slot) ((s.hide slot).map (liveView s slot))))

/-- HIDE_READ. -/
def execHideRead (h : Head) (slot : Nat) (s : State) : Out := .next (request .control 0x36 h 1 (hideReadBody slot) s)

/-! ### PLACEMENTS_READ (R111) -/

/-- The page of up to 16 records from an index up, each with its index. -/
def pageFrom (list : List Placement) (first : Nat) : List (Nat × Placement) :=
  (((list.drop first).take 16).zipIdx first).map fun e => (e.2, e.1)

/-- PLACEMENTS_READ as the table takes it. -/
def placementsReadBody (slot first : Nat) (s : State) : State × Reply :=
  onHide s slot liveStates [] fun h =>
    checked s [(decide (first ≤ h.placements.length), .range, h.placements.length)]
      (s, .accept (.placements slot h.placements.length (pageFrom h.placements first)))

/-- PLACEMENTS_READ. -/
def execPlacementsRead (h : Head) (slot first : Nat) (s : State) : Out :=
  .next (request .control 0x37 h 2 (placementsReadBody slot first) s)

end Sys2Proof.Machine
end

