-- ==== Sys2Proof/Machine/Placing.lean ====
section
/-! DEFINITION. Placing by hand (chapter 6): PLACE, PLACE_PAIR and STRIKE. -/

namespace Sys2Proof.Machine

/-- The record that PLACE and PLACE_PAIR commit (R95, R107). -/
def manualPlacement (line slot o x y : Nat) (partner : Option Nat) : Placement where
  line := line
  slot := slot
  variant := o
  x := x
  y := y
  partner := partner
  source := .manual
  state := .placed
  ticket := none
  marker := false
  reason := none

/-- Checks 7 to 11 of R107 for the piece in a slot, their details from `base` up. -/
def spotChecks (s : State) (h : Hide) (slot base o x y : Nat) : List Check :=
  [(decide (o < 8), .range, base + 2),
   (decide (x < h.width), .range, base + 3),
   (decide (y < h.height), .range, base + 4),
   ((s.piece slot).any fun p => allowed p.offsets h.backbone o, .range, base + 5),
   ((s.variantOf slot o).isSome, .range, base + 6)]

/-- The first test of a piece's variant at a position, with all six conditions; an absent variant does not arise. -/
def tryFit (slot pieceSlot o x y : Nat) (s : State) : State × FitResult :=
  match s.variantOf pieceSlot o with
  | none => (s, .pass)
  | some (p, v) => fitTest false slot p.band v x y s

namespace State

/-- The cover of a piece's variant marked (R97). -/
def coverFor (slot pieceSlot o x y : Nat) (s : State) : State :=
  match s.variantOf pieceSlot o with
  | none => s
  | some (p, v) => s.markCover slot p.margin v x y

/-- Placements committed at the end of a hide's list; a MAPPED hide becomes NESTED (R45). -/
def commitManual (slot : Nat) (ps : List Placement) (s : State) : State :=
  s.modHide slot fun h => { h with placements := h.placements ++ ps, state := .nested }

/-- The new records with their indices, and the hide's state (R107). -/
def placedResult (s : State) (slot first : Nat) (ps : List Placement) : Reply :=
  .accept (.placed ((ps.zipIdx first).map fun e => (e.2, e.1)) (stateCode s slot))

end State

/-! ### PLACE (R107) -/

/-- The fit test of check 13 and what follows it. -/
def placeWork (slot line pieceSlot o x y n : Nat) (s : State) : State × Reply :=
  let r := tryFit slot pieceSlot o x y s
  match r.2 with
  | .fail code fx fy fresh => (r.1.handFresh slot fresh, .refuseNoFit code fx fy)
  | .pass =>
    match r.1.claimReserve line with
    | none => refuse r.1 .range 1
    | some t =>
      let ps := [manualPlacement line pieceSlot o x y none]
      let u := (t.coverFor slot pieceSlot o x y).commitManual slot ps
      (u, u.placedResult slot n ps)

/-- PLACE as the engine takes it. -/
def placeBody (slot line o x y : Nat) (s : State) : State × Reply :=
  onHide s slot [.mapped, .nested] [.nesting] fun h =>
    match s.line line with
    | none => refuse s .noSuch (256 + line)
    | some l =>
      checked s
        ([(decide (l.state = .active), .wrongState, 512 + line),
          (l.pair.isNone, .wrongState, 768 + line),
          (decide (1 ≤ l.openUnits), .range, 1)] ++
          spotChecks s h l.slot 0 o x y ++
          [(decide (h.placements.length + 1 ≤ Config.placements), .noRoom, Config.placements)])
        (placeWork slot line l.slot o x y h.placements.length s)

/-- PLACE, with the outcomes of its reads. -/
def execPlace (h : Head) (slot line o x y : Nat) (reads : List ReadOutcome) (s : State) : Out :=
  .next (s.withReads reads (request .control 0x41 h 7 (placeBody slot line o x y)))

/-! ### PLACE_PAIR (R108) -/

/-- The reserves of both lines, refused where either is. -/
def reserveBoth (line mirror : Nat) (s : State) : Option State := (s.claimReserve line).bind (State.claimReserve mirror)

/-- The fit tests of checks 12 and 13 and what follows them: the first piece is marked while the second is tested. -/
def placePairWork (slot line mirror slot1 slot2 : Nat) (a b : Spot) (n : Nat) (s : State) : State × Reply :=
  let r := tryFit slot slot1 a.orientation a.x a.y s
  match r.2 with
  | .fail code fx fy fresh => (r.1.handFresh slot fresh, .refuseNoFit code fx fy)
  | .pass =>
    let q := tryFit slot slot2 b.orientation b.x b.y (r.1.coverFor slot slot1 a.orientation a.x a.y)
    match q.2 with
    | .fail code fx fy fresh =>
      ((q.1.unmarkCover slot slot1 a.orientation a.x a.y).handFresh slot fresh, .refuseNoFit (16 + code) fx fy)
    | .pass =>
      match reserveBoth line mirror q.1 with
      | none => refuse (q.1.unmarkCover slot slot1 a.orientation a.x a.y) .range 1
      | some t =>
        let ps := [manualPlacement line slot1 a.orientation a.x a.y (some (n + 1)),
          manualPlacement mirror slot2 b.orientation b.x b.y (some n)]
        let u := (t.coverFor slot slot2 b.orientation b.x b.y).commitManual slot ps
        (u, u.placedResult slot n ps)

/-- PLACE_PAIR as the engine takes it. -/
def placePairBody (slot line : Nat) (a b : Spot) (s : State) : State × Reply :=
  onHide s slot [.mapped, .nested] [.nesting] fun h =>
    match s.line line with
    | none => refuse s .noSuch (256 + line)
    | some l =>
      let m := s.mirrorOf l
      let slot2 := ((m.bind (·.2)).map Line.slot).getD 0
      checked s
        ([(l.pair.isSome, .wrongState, 768 + line),
          (decide (l.state = .active), .wrongState, 512 + line),
          (onMirror m fun k => decide (k.state = .active), .wrongState, 512 + mirrorId m),
          (decide (1 ≤ l.openUnits), .range, 1),
          (onMirror m fun k => decide (1 ≤ k.openUnits), .range, 17)] ++
          spotChecks s h l.slot 0 a.orientation a.x a.y ++
          spotChecks s h slot2 16 b.orientation b.x b.y ++
          [(decide (h.placements.length + 2 ≤ Config.placements), .noRoom, Config.placements)])
        (placePairWork slot line (mirrorId m) l.slot slot2 a b h.placements.length s)

/-- PLACE_PAIR, with the outcomes of its reads. -/
def execPlacePair (h : Head) (slot line : Nat) (a b : Spot) (reads : List ReadOutcome) (s : State) : Out :=
  .next (s.withReads reads (request .control 0x42 h 12 (placePairBody slot line a b)))

/-! ### STRIKE (R109) -/

/-- The state code of a placement. -/
def placementCode (h : Hide) (i : Nat) : Nat := ((h.placements[i]?).map fun p => p.state.code).getD 0

/-- STRIKE as the table takes it. -/
def strikeBody (slot i : Nat) (s : State) : State × Reply :=
  onHide s slot [.nested, .dispatchWait, .cutting] [.nesting] fun h =>
    checked s
      [(decide (i < h.placements.length), .range, 1),
       (s.isPlaced slot i, .wrongState, 256 + placementCode h i)]
      (let t := (s.strike slot i).settle slot
       (t, .accept (.struck (s.strikeCount slot i) (stateCode t slot))))

/-- STRIKE. -/
def execStrike (h : Head) (slot i : Nat) (s : State) : Out := .next (request .control 0x43 h 2 (strikeBody slot i) s)

end Sys2Proof.Machine
end

