-- ==== Sys2Proof/Machine/Nest.lean ====
section
/-! DEFINITION. The Nest Engine (chapter 7): NEST and the events of a pass. -/

namespace Sys2Proof.Machine

/-! ### NEST (R115, R116) -/

/-- The mode of a code: FILL 0, EXACT 1 (R176). -/
def stepModeOf : Nat → Option StepMode
  | 0 => some .fill
  | 1 => some .exact
  | _ => none

/-- A line in use that passes a test. -/
def lineIs (s : State) (id : Nat) (ok : Line → Bool) : Bool := (s.line id).any ok

/-- A line is ACTIVE. -/
def Line.isActive (l : Line) : Bool := decide (l.state = .active)

/-- The mirror of the line a step names is ACTIVE, where the line is paired. -/
def mirrorReady (s : State) (id : Nat) : Bool :=
  lineIs s id fun l => l.pair.all fun p => lineIs s p.mirror Line.isActive

/-- The quota's range for the line a step names (R115 check 7). -/
def quotaOk (s : State) (q : StepReq) : Bool :=
  decide (1 ≤ q.quota) && lineIs s q.line fun l => decide (q.quota ≤ if l.pair.isSome then 32 else 64)

/-- One check of R115 made over all steps in step order. -/
def overSteps (steps : List StepReq) (ok : StepReq → Bool) (reason : Reason) (base : Nat) : List Check :=
  steps.zipIdx.map fun e => (ok e.1, reason, base + e.2)

/-- A step as the plan records it, with the line's pairing (R116). -/
def planStep (s : State) (q : StepReq) : PlanStep where
  line := q.line
  quota := q.quota
  mode := (stepModeOf q.mode).getD .fill
  pair := (s.line q.line).bind Line.pair

/-- NEST as the engine takes it. -/
def nestBody (slot : Nat) (steps : List StepReq) (s : State) : State × Reply :=
  onHide s slot [.mapped, .nested] [.nesting] fun h =>
    checked s
      ([(decide (1 ≤ steps.length) && decide (steps.length ≤ 16), .range, 0)] ++
        overSteps steps (fun q => (s.line q.line).isSome) .noSuch 256 ++
        overSteps steps (fun q => lineIs s q.line Line.isActive) .wrongState 512 ++
        overSteps steps (fun q => mirrorReady s q.line) .wrongState 768 ++
        overSteps steps (quotaOk s) .range 256 ++
        overSteps steps (fun q => (stepModeOf q.mode).isSome) .range 512)
      (let t := s.putHide slot { h with state := .nestWait }
       ({ t with engine := { t.engine with queue := t.engine.queue ++ [⟨slot, steps.map (planStep s)⟩] } },
        .accept (.queued slot HideState.nestWait.code s.engine.queue.length)))

/-- NEST. -/
def execNest (h : Head) (slot : Nat) (steps : List StepReq) (s : State) : Out :=
  .next (request .control 0x40 h (2 + 3 * steps.length) (nestBody slot steps) s)

/-! ### NEST_TAKE (R117) -/

namespace State

/-- The pass context set. -/
def putPass (p : Option Pass) (s : State) : State := { s with engine := { s.engine with pass := p } }

/-- The phase of the pass set. -/
def setPhase (ph : Phase) (s : State) : State :=
  { s with engine := { s.engine with pass := s.engine.pass.map fun p => { p with phase := ph } } }

end State

/-- The IDLE engine takes the head of its queue. -/
def takeHide (s : State) : State :=
  match s.engine.pass, s.engine.queue with
  | none, e :: rest =>
    { s with engine := { queue := rest, pass := some ⟨e.slot, e.plan, 0, 0, [], .attempt⟩ } }.modHide e.slot
      fun h => { h with state := .nesting, report := some ⟨[], 0, 0⟩ }
  | _, _ => s

/-- NEST_TAKE; it does not occur while the engine is in PASS or its queue is empty (log entry 4). -/
def execNestTake (s : State) : Out := .next (takeHide s)

/-! ### Searches (R100) -/

/-- The variants that a search tries at one position, in ascending orientation: usable, and inside the extent. -/
def candidatesAt (h : Hide) (p : Piece) (x y : Nat) : List (Nat × Nat × Nat) :=
  (p.variants.filter fun e => allowed p.offsets h.backbone e.1 && boxFits h e.2 x y).map fun e => (e.1, x, y)

/-- The variant and position of every test of a search, in the order of R100. -/
def candidates (h : Hide) (p : Piece) : List (Nat × Nat × Nat) :=
  (List.range h.height).flatMap fun y => (List.range h.width).flatMap fun x => candidatesAt h p x y

/-- A search of a role for a line, begun: it reads the line's piece, and ends at once where it has nothing to try.
The line is in use with a READY piece: a primary's by the stop checks, and a mirror's because its pair has a unit
reserved, and no line of it can be removed (R16); log entry 26 says what a line without a piece would give. -/
def beginSearch (slot : Nat) (role : Role) (line : Nat) (noFit : Phase) (s : State) : Phase :=
  match s.hide slot, s.line line with
  | some h, some l =>
    match s.piece l.slot with
    | none => noFit
    | some p => if (candidates h p).isEmpty then noFit else .search ⟨role, line, l.slot, l.pair, p, 0⟩
  | _, _ => noFit

/-- The line laid as the primary of a paired step: the line of the pair whose role is FIRST (R115). -/
def PlanStep.primary (k : PlanStep) : Nat :=
  match k.pair with
  | none => k.line
  | some p => match p.role with
    | .first => k.line
    | .second => p.mirror

/-- The line laid as the mirror. -/
def PlanStep.mirror (k : PlanStep) : Nat :=
  match k.pair with
  | none => k.line
  | some p => match p.role with
    | .first => p.mirror
    | .second => k.line

/-! ### STOP_CHECKS (R118) -/

/-- Check 2 of R118 fires; also for a line that a LINE_RESIZE between two attempts has made COMPLETE (log entry 31). -/
def lineStops (s : State) (k : PlanStep) : Bool :=
  !(lineIs s k.line fun l => l.isActive && decide (l.pair = k.pair)) ||
    !(k.pair.all fun p => lineIs s p.mirror Line.isActive)

/-- Check 3 of R118 fires. -/
def demandMet (s : State) (k : PlanStep) : Bool :=
  (lineIs s k.line fun l => decide (l.openUnits = 0)) ||
    k.pair.any fun p => lineIs s p.mirror fun l => decide (l.openUnits = 0)

/-- Check 4 of R118 fires. -/
def listFull (h : Hide) (p : Pass) (k : PlanStep) : Bool :=
  decide (Config.placements < h.placements.length + p.stack.length + if k.pair.isSome then 2 else 1)

/-- The search of an attempt begun (R119, R120). -/
def beginAttempt (p : Pass) (k : PlanStep) (s : State) : Phase :=
  beginSearch p.slot (if k.pair.isSome then .primary else .single) k.primary (.ending .noFit) s

/-- The stop checks of one attempt, as the phase they lead to. -/
def stopPhase (p : Pass) (h : Hide) (k : PlanStep) (s : State) : Phase :=
  if h.state = .discarding then .aborting
  else if lineStops s k then .ending .notActive
  else if demandMet s k then .ending .demandMet
  else if listFull h p k then .ending .listFull
  else if p.units = k.quota then .ending .quota
  else beginAttempt p k s

/-- The stop checks before a unit attempt. -/
def stopChecks (s : State) : State :=
  match s.engine.pass with
  | none => s
  | some p =>
    match p.phase, s.hide p.slot, p.plan[p.step]? with
    | .attempt, some h, some k => s.setPhase (stopPhase p h k s)
    | _, _, _ => s

/-- STOP_CHECKS; they are not made where the engine is not about to attempt a unit (log entry 4). -/
def execStopChecks (s : State) : Out := .next (stopChecks s)

/-! ### FIT_TEST (R98, R100, R121) -/

/-- The search after a test that failed: the next candidate, or the end of the search (R119, R120). -/
def searchOn (h : Hide) (q : Search) : Phase :=
  if q.tried + 1 < (candidates h q.piece).length then .search { q with tried := q.tried + 1 }
  else match q.role with
    | .mirror => .mirrorNoFit
    | _ => .ending .noFit

/-- One test of a search, at its next candidate. -/
def searchTest (p : Pass) (q : Search) (h : Hide) (s : State) : State :=
  match (candidates h q.piece)[q.tried]? with
  | none => s.setPhase (searchOn h q)
  | some (o, x, y) =>
    match Tab.get q.piece.variants o with
    | none => s.setPhase (searchOn h q)
    | some v =>
      let r := fitTest false p.slot q.piece.band v x y s
      match r.2 with
      | .pass => r.1.setPhase (.found q o x y)
      | .fail _ _ _ fresh => (r.1.handFresh p.slot fresh).setPhase (searchOn h q)

/-- The test of the search in progress, if there is one. -/
def fitTestEvent (s : State) : State :=
  match s.engine.pass with
  | none => s
  | some p =>
    match p.phase, s.hide p.slot with
    | .search q, some h => searchTest p q h s
    | _, _ => s

/-- FIT_TEST, with the outcomes of its reads; it does not occur where no search is in progress (log entry 4). -/
def execFitTest (reads : List ReadOutcome) (s : State) : Out := .next (s.withReads reads fitTestEvent)

/-! ### UNIT_PUSH (R119, R120, R122) -/

namespace State

/-- An entry pushed on the stack. -/
def pushEntry (e : Entry) (s : State) : State :=
  { s with engine := { s.engine with pass := s.engine.pass.map fun p => { p with stack := e :: p.stack } } }

/-- Units this step raised by one. -/
def countUnit (s : State) : State :=
  { s with engine := { s.engine with pass := s.engine.pass.map fun p => { p with units := p.units + 1 } } }

/-- The entry at the top of the stack popped (R122). -/
def popTop (slot : Nat) (s : State) : State :=
  match s.stackOf slot with
  | [] => s
  | e :: rest => (popEntry slot s e).setStack rest

end State

/-- A line that a refused reserve finds without open units (R121): ACTIVE, or COMPLETE since its open came to 0. -/
def Line.demandEnded (l : Line) : Bool := l.isActive || decide (l.state = .complete)

/-- How a step ends at a refused reserve (R121), by the state of the line whose reserve is refused: a COMPLETE line gives
DEMAND_MET, whatever befell its mirror (log entry 36). -/
def refusedEnd (s : State) (line : Nat) : EndReason :=
  if lineIs s line Line.demandEnded then .demandMet else .notActive

/-- The line of a search is still the one that the search read: it names the same slot, with the same piece and the same
pairing (log entry 29). -/
def stillNamed (s : State) (q : Search) : Bool :=
  lineIs s q.line (fun l => decide (l.slot = q.slot) && decide (l.pair = q.pair)) &&
    decide (s.piece q.slot = some q.piece)

/-- The reserve of a fit: refused also where the line was removed and added again as another line during the search (log
entry 29). -/
def reserveFound (q : Search) (s : State) : Option State := if stillNamed s q then s.claimReserve q.line else none

/-- How a step ends at a refused reserve of a fit. -/
def foundEnd (s : State) (q : Search) : EndReason := if stillNamed s q then refusedEnd s q.line else .notActive

/-- The cover of the fit marked, by the piece that was tested (R68). -/
def coverFound (slot : Nat) (q : Search) (o x y : Nat) (s : State) : State :=
  match Tab.get q.piece.variants o with
  | none => s
  | some v => s.markCover slot q.piece.margin v x y

/-- What follows a push: a single unit and a mirror end the attempt, and a primary is followed by the search for its
mirror (R119, R120). -/
def afterPush (p : Pass) (role : Role) (s : State) : State :=
  match role with
  | .single => s.countUnit.setPhase .attempt
  | .mirror => s.countUnit.setPhase .attempt
  | .primary =>
    match p.plan[p.step]? with
    | none => s
    | some k => s.setPhase (beginSearch p.slot .mirror k.mirror .mirrorNoFit s)

/-- The push of the fit found, or the end of the step where the reserve is refused: for a line that was removed and added
again, or whose slot was erased and loaded again, during the search, by the model's own choice (log entry 29). -/
def pushFound (p : Pass) (q : Search) (o x y : Nat) (s : State) : State :=
  match reserveFound q s with
  | none =>
    match q.role with
    | .mirror => (s.popTop p.slot).setPhase (.ending (foundEnd s q))
    | _ => s.setPhase (.ending (foundEnd s q))
  | some t => afterPush p q.role ((coverFound p.slot q o x y t).pushEntry ⟨q.line, q.slot, o, x, y, q.role⟩)

/-- The push after a search that found a fit, or the pop after a mirror search that found none. -/
def unitPush (s : State) : State :=
  match s.engine.pass with
  | none => s
  | some p =>
    match p.phase with
    | .found q o x y => pushFound p q o x y s
    | .mirrorNoFit => (s.popTop p.slot).setPhase (.ending .noFit)
    | _ => s

/-- UNIT_PUSH; it does not occur where no search has ended (log entry 4). -/
def execUnitPush (s : State) : Out := .next (unitPush s)

/-! ### STEP_END (R123, R124) -/

/-- The step is rolled back: EXACT, and ended by another reason than QUOTA. -/
def rolledBack (mode : StepMode) (r : EndReason) : Bool := decide (mode = .exact) && decide (r ≠ .quota)

/-- The partner's index of an entry committed at index `n` (R123). -/
def partnerAt (role : Role) (n : Nat) : Option Nat :=
  match role with
  | .single => none
  | .primary => some (n + 1)
  | .mirror => some (n - 1)

/-- The record of an entry committed at index `n`. -/
def enginePlacement (e : Entry) (n : Nat) : Placement where
  line := e.line
  slot := e.slot
  variant := e.variant
  x := e.x
  y := e.y
  partner := partnerAt e.role n
  source := .engine
  state := .placed
  ticket := none
  marker := false
  reason := none

/-- The body cells of an entry's variant. -/
def entryBody (s : State) (e : Entry) : Nat := ((s.variantOf e.slot e.variant).map fun v => v.2.bodyCount).getD 0

/-- A step's result added to the pass report, with what it committed (R124). -/
def addResult (r : StepResult) (count body : Nat) (o : Option PassReport) : Option PassReport :=
  o.map fun t => ⟨t.steps ++ [r], t.placementsAdded + count, t.bodyAdded + body⟩

/-- The entries of the stack committed in push order, at the end of the hide's list. -/
def commitStack (slot : Nat) (entries : List Entry) (s : State) : State :=
  s.modHide slot fun h =>
    { h with placements := h.placements ++ (entries.zipIdx h.placements.length).map fun e => enginePlacement e.1 e.2 }

/-- The pass at its next step, or at pass end. -/
def nextStep (p : Pass) : Pass :=
  { p with
    step := p.step + 1, units := 0, stack := []
    phase := if p.step + 1 < p.plan.length then .attempt else .passEnd }

/-- The end of a step with a reason. -/
def endStep (p : Pass) (k : PlanStep) (r : EndReason) (s : State) : State :=
  if rolledBack k.mode r then
    ((s.popAll p.slot).modHide p.slot fun h => { h with report := addResult ⟨k.line, 0, r, true⟩ 0 0 h.report }).putPass
      (some (nextStep p))
  else
    ((commitStack p.slot p.stack.reverse s).modHide p.slot fun h =>
      { h with report :=
        addResult ⟨k.line, p.units, r, false⟩ p.stack.length ((p.stack.map (entryBody s)).sum) h.report }).putPass
      (some (nextStep p))

/-- The end of the step in progress. -/
def stepEnd (s : State) : State :=
  match s.engine.pass with
  | none => s
  | some p =>
    match p.phase, p.plan[p.step]? with
    | .ending r, some k => endStep p k r s
    | _, _ => s

/-- STEP_END; it does not occur where no step is ending (log entry 4). -/
def execStepEnd (s : State) : Out := .next (stepEnd s)

/-! ### PASS_END (R129) -/

/-- One deferred flaw applied and swept. -/
def deferredFlaw (slot : Nat) (s : State) (f : Flaw) : State :=
  match s.hide slot with
  | none => s
  | some h => (sweepFlaw slot (flawRect s.settings h f) (applyFlaw slot f s)).s

/-- One deferred poisoning swept. -/
def deferredTile (slot : Nat) (s : State) (tile : Nat) : State := (s.sweepTile slot tile).s

/-- The work of pass end on a NESTING hide. -/
def endPass (slot : Nat) (h : Hide) (s : State) : State :=
  let t := h.deferredPoison.foldl (deferredTile slot) (h.deferred.foldl (deferredFlaw slot) s)
  ((t.modHide slot fun g => { g with deferred := [], deferredPoison := [], state := .nested }).raise
    (.hide slot .nestDone)).putPass none

/-- The pass end, or the finding that the hide is DISCARDING. -/
def passEndEvent (s : State) : State :=
  match s.engine.pass with
  | none => s
  | some p =>
    match p.phase, s.hide p.slot with
    | .passEnd, some h => if h.state = .discarding then s.setPhase .aborting else endPass p.slot h s
    | _, _ => s

/-- PASS_END, with the outcomes of its reads; it does not occur before the last step has ended (log entry 4). -/
def execPassEnd (reads : List ReadOutcome) (s : State) : Out := .next (s.withReads reads passEndEvent)

/-! ### PASS_ABORT (R128) -/

/-- The engine stands at one of its tests of the hide's state (R118 check 1, R129). -/
def atHideTest : Phase → Bool
  | .attempt => true
  | .passEnd => true
  | .aborting => true
  | _ => false

/-- The abort of a pass whose hide is DISCARDING. -/
def passAbort (s : State) : State :=
  match s.engine.pass with
  | none => s
  | some p =>
    match s.hide p.slot with
    | none => s
    | some h =>
      if h.state = .discarding ∧ atHideTest p.phase then (s.completeDiscard p.slot).putPass none else s

/-- PASS_ABORT; it does not occur where the engine has not found its hide DISCARDING (log entry 4). -/
def execPassAbort (s : State) : Out := .next (passAbort s)

end Sys2Proof.Machine
end

