-- ==== Sys2Proof/Machine/Channels.lean ====
section
/-! DEFINITION. The cutter channels (chapter 9): service, tickets, queries, faults, aborts and resets. -/

namespace Sys2Proof.Machine

/-! ### Tickets out (R145) -/

/-- The placement is out on a channel. -/
def outOn (c : Fin 4) (p : Placement) : Bool := decide (p.state = .ticketed) && p.ticket.any fun t => decide (t.2 = c)

/-- The placement is out on a channel under a ticket number. -/
def outAs (c : Fin 4) (n : Nat) (p : Placement) : Bool := decide (p.state = .ticketed) && decide (p.ticket = some (n, c))

namespace State

/-- Tickets out: the TICKETED placements that name the channel. -/
def ticketsOut (s : State) (c : Fin 4) : Nat := (s.hides.slots.map fun e => e.2.placements.countP (outOn c)).sum

/-- The hide assigned to a channel, with its slot. -/
def assigned (s : State) (c : Fin 4) : Option (Nat × Hide) :=
  (s.chan c).hide.bind fun slot => (s.hide slot).map fun h => (slot, h)

end State

/-- The channel cuts a hide: RUNNING, DRAINING or HELD. -/
def ChannelState.atWork : ChannelState → Bool
  | .running => true
  | .draining => true
  | .held => true
  | _ => false

/-- The channel holds a hide: at work, or ABORTING (R145). -/
def ChannelState.busy (st : ChannelState) : Bool := st.atWork || decide (st = .aborting)

namespace State

/-- The slot and index of the placement out on a channel under a ticket number; of two out under one number, the lower index
(log entry 38). -/
def findOut (s : State) (c : Fin 4) (n : Nat) : Option (Nat × Nat) :=
  (s.assigned c).bind fun e => (e.2.placements.findIdx? (outAs c n)).map fun i => (e.1, i)

/-- The same, while the channel is at work (R153). -/
def findAtWork (s : State) (c : Fin 4) (n : Nat) : Option (Nat × Nat) :=
  if (s.chan c).state.atWork then s.findOut c n else none

/-- The slot of the hide that holds a ticket, while the channel is at work and the placement that the ticket was sent for is
still out under its number (R152, R158). -/
def findTicket (s : State) (c : Fin 4) (t : TicketRef) : Option Nat :=
  if (s.chan c).state.atWork then
    (s.assigned c).bind fun e => if (e.2.placements[t.index]?).any (outAs c t.number) then some e.1 else none
  else none

/-- The deadline of a ticket dropped. -/
def dropDeadline (c : Fin 4) (t : TicketRef) (s : State) : State :=
  s.modChan c fun ch => { ch with deadlines := ch.deadlines.filter fun d => decide (d.ticket ≠ t) }

/-! ### Entering service (R149) -/

/-- A STOPPED channel with enabled and ready both set becomes IDLE, and the arbiter evaluates. -/
def enterService (c : Fin 4) (s : State) : State :=
  if (s.chan c).state = .stopped ∧ (s.chan c).enabled ∧ (s.chan c).ready then
    (s.modChan c fun ch => { ch with state := .idle }).evaluate
  else s

end State

/-- The reply of CUTTER_ENABLE, CUTTER_DISABLE and CUTTER_RESET (R147, R163): the state after the event's own evaluation,
RUNNING where that grants the channel a hide (log entry 32). -/
def channelReply (s : State) (c : Fin 4) : Reply :=
  .accept (.channel c (s.chan c).state (s.chan c).enabled (s.chan c).ready)

/-- CUTTER_ENABLE as the channel takes it (R147). -/
def cutterEnableBody (channel : Nat) (s : State) : State × Reply :=
  onChannel s channel fun c =>
    let t := (s.modChan c fun ch => { ch with enabled := true }).enterService c
    (t, channelReply t c)

/-- CUTTER_ENABLE. -/
def execCutterEnable (h : Head) (channel : Nat) (s : State) : Out :=
  .next (request .control 0x50 h 1 (cutterEnableBody channel) s)

/-- CUTTER_DISABLE as the channel takes it (R147). -/
def cutterDisableBody (channel : Nat) (s : State) : State × Reply :=
  onChannel s channel fun c =>
    if (s.chan c).state.busy then refuse s .wrongState (s.chan c).state.code
    else
      let t := s.modChan c fun ch =>
        { ch with enabled := false, state := if ch.state = .idle then .stopped else ch.state }
      (t, channelReply t c)

/-- CUTTER_DISABLE. -/
def execCutterDisable (h : Head) (channel : Nat) (s : State) : Out :=
  .next (request .control 0x51 h 1 (cutterDisableBody channel) s)

/-! ### Giving a hide back (R48, R106, R161) -/

namespace State

/-- The placement at an index made PLACED, its ticket dropped, where it is out on the channel (R106). -/
def returnPlacement (c : Fin 4) (slot i : Nat) (s : State) : State :=
  s.modPlacement slot i fun p => if outOn c p then { p with state := .placed, ticket := none } else p

/-- The indices of a hide's placements out on a channel, ascending. -/
def outIndices (s : State) (c : Fin 4) (slot : Nat) : List Nat :=
  match s.hide slot with
  | none => []
  | some h => (h.placements.zipIdx.filter fun e => outOn c e.1).map (·.2)

/-- The partner of a placement is STRUCK. -/
def partnerStruck (s : State) (slot : Nat) (p : Placement) : Bool :=
  p.partner.any fun j => (s.placement slot j).any fun q => decide (q.state = .struck)

end State

/-- One return check (R106); a placement struck meanwhile as a partner is passed over. -/
def returnCheck (slot : Nat) (w : Sweep) (i : Nat) : Sweep :=
  match w.s.placement slot i with
  | none => w
  | some p =>
    if p.state ≠ .placed then w
    else if w.s.partnerStruck slot p then { w with s := w.s.strike slot i, struck := w.struck + w.s.strikeCount slot i }
    else if p.marker then
      match w.s.variantOf p.slot p.variant with
      | none => w
      | some (pc, v) =>
        let r := fitTest true slot pc.band v p.x p.y w.s
        match r.2 with
        | .pass => { w with s := r.1.modPlacement slot i fun q => { q with marker := false } }
        | .fail _ _ _ fresh =>
          { w with s := r.1.strike slot i, struck := w.struck + r.1.strikeCount slot i, fresh := joinFresh fresh w.fresh }
    else w

namespace State

/-- The return checks of several placements in ascending index, and a further round over the tiles that they poisoned
(R106, R105, log entry 14). -/
def returnChecks (slot : Nat) (is : List Nat) (s : State) : State :=
  ((is.foldl (returnCheck slot) ⟨s, 0, [], []⟩).rounds slot (s.colsOf slot) (s.roundsOf slot)).s

/-- Step 1 of R161: the placements out on the channel go back to PLACED and are checked. -/
def returnAll (c : Fin 4) (slot : Nat) (s : State) : State :=
  ((s.outIndices c slot).foldl (fun t i => t.returnPlacement c slot i) s).returnChecks slot (s.outIndices c slot)

/-- Step 3 of R161: the hide is re-dispatched where it holds a PLACED placement (R48), and is DONE otherwise. -/
def giveBack (slot : Nat) (s : State) : State :=
  if (s.hide slot).any Hide.anyPlaced then
    ((s.modHide slot fun h => { h with state := .dispatchWait, channel := none }).joinWaiting slot).raise
      (.hide slot .redispatch)
  else s.makeDone slot

/-- The channel's record as a fault or a reset leaves it: its request abandoned, its deadlines dropped, its query count
0 (R160, R163). -/
def clearWork (c : Fin 4) (st : ChannelState) (s : State) : State :=
  s.modChan c fun ch =>
    { ch with state := st, hide := none, deadlines := [], queryCount := 0, outstanding := none }

/-! ### Channel faults (R160, R161) -/

/-- The cause recorded and the ready flag set by it (R160). -/
def recordFault (c : Fin 4) (cause : FaultCause) (code : Nat) (s : State) : State :=
  s.modChan c fun ch =>
    { ch with lastFault := some (cause, code), ready := decide (cause = .cutterRestarted) }

/-- The hide let go by a channel that faults or is reset: given back by a channel at work, and its discard completed by
one that is ABORTING (R160, R161, R163). -/
def letGo (c : Fin 4) (s : State) : State :=
  match s.assigned c with
  | none => s
  | some (slot, _) =>
    if (s.chan c).state.atWork then (s.returnAll c slot).giveBack slot
    else if (s.chan c).state = .aborting then s.completeDiscard slot
    else s

/-- The hide was let go to the waiting list. -/
def redispatched (s : State) (c : Fin 4) : Bool :=
  (s.chan c).state.atWork &&
    (s.assigned c).any fun e => ((s.letGo c).hide e.1).any fun h => decide (h.state = .dispatchWait)

/-- A channel fault (R160, R161): the hide let go, the channel FAULTED with its cause, FAULT raised, and an evaluation
where the hide was given back.
In ABORTING the discard completes, with DISCARD_DONE, before FAULT is raised (log entry 30). -/
def channelFault (c : Fin 4) (cause : FaultCause) (code : Nat) (s : State) : State :=
  let t := (((s.letGo c).clearWork c .faulted).recordFault c cause code).raise (.channel c .fault)
  if (s.chan c).state.atWork then t.evaluate else t

/-! ### CUTTER_RESET (R163) -/

/-- The ready flag after a reset: one set while FAULTED is kept (R163 step 4). -/
def readyKept (s : State) (c : Fin 4) : Bool := (s.chan c).ready && decide ((s.chan c).state = .faulted)

/-- The channel's state after a reset (R163 step 5). -/
def resetState (s : State) (c : Fin 4) : ChannelState :=
  if (s.chan c).enabled && s.readyKept c then .idle else .stopped

/-- CUTTER_RESET of a channel (R163). -/
def cutterReset (c : Fin 4) (s : State) : State :=
  let t := ((s.letGo c).clearWork c (s.resetState c)).modChan c fun ch =>
    { ch with ready := s.readyKept c, ticketCounter := 1 }
  if s.redispatched c || decide (s.resetState c = .idle) then t.evaluate else t

end State

/-- CUTTER_RESET as the channel takes it. -/
def cutterResetBody (channel : Nat) (s : State) : State × Reply :=
  onChannel s channel fun c =>
    let t := s.cutterReset c
    (t, channelReply t c)

/-- CUTTER_RESET, with the outcomes of its reads. -/
def execCutterReset (h : Head) (channel : Nat) (reads : List ReadOutcome) (s : State) : Out :=
  .next (s.withReads reads (request .control 0x52 h 1 (cutterResetBody channel)))

/-! ### CUTTER_READ (R164) -/

/-- The record of a channel as CUTTER_READ gives it. -/
def channelView (s : State) (c : Fin 4) : ChannelView where
  channel := c
  state := (s.chan c).state
  enabled := (s.chan c).enabled
  ready := (s.chan c).ready
  window := s.settings.window c
  ticketsOut := s.ticketsOut c
  queryCount := (s.chan c).queryCount
  nextTicket := (s.chan c).ticketCounter
  expired := (s.chan c).deadlines.countP Deadline.expired
  lastFault := (s.chan c).lastFault
  hide := (s.assigned c).map fun e => (e.1, e.2.tag)
  outstanding := (s.chan c).outstanding.map fun o => o.request.kind

/-- CUTTER_READ as the channel takes it. -/
def cutterReadBody (channel : Nat) (s : State) : State × Reply :=
  onChannel s channel fun c => (s, .accept (.channelRecord (channelView s c)))

/-- CUTTER_READ. -/
def execCutterRead (h : Head) (channel : Nat) (s : State) : Out :=
  .next (request .control 0x53 h 1 (cutterReadBody channel) s)

/-! ### READY (R148) -/

/-- READY as the channel takes it. -/
def readyBody (c : Fin 4) (s : State) : State × Reply :=
  (match (s.chan c).state with
   | .stopped => ((s.modChan c fun ch => { ch with ready := true }).raise (.channel c .readySeen)).enterService c
   | .idle => s
   | .faulted => (s.modChan c fun ch => { ch with ready := true }).raise (.channel c .readySeen)
   | .running => s.channelFault c .cutterRestarted 0
   | .draining => s.channelFault c .cutterRestarted 0
   | .held => s.channelFault c .cutterRestarted 0
   | .aborting => s.channelFault c .cutterRestarted 0,
   .accept .nothing)

/-- READY, with the outcomes of its reads. -/
def execReady (c : Fin 4) (h : Head) (reads : List ReadOutcome) (s : State) : Out :=
  .next (s.withReads reads (request (.cutter c) 0x68 h 0 (readyBody c)))

/-! ### CUTTER_FAULT (R160) -/

/-- CUTTER_FAULT as the channel takes it. -/
def cutterFaultBody (c : Fin 4) (code : Nat) (s : State) : State × Reply :=
  (s.channelFault c .cutterFault code, .accept .nothing)

/-- CUTTER_FAULT, with the outcomes of its reads. -/
def execCutterFault (c : Fin 4) (h : Head) (code : Nat) (reads : List ReadOutcome) (s : State) : Out :=
  .next (s.withReads reads (request (.cutter c) 0x6A h 2 (cutterFaultBody c code)))

/-! ### CUT_REPORT and resolution (R153) -/

namespace State

/-- A placement out on a channel made CUT: its line takes one resolve. -/
def resolveCut (slot i : Nat) (p : Placement) (s : State) : State :=
  (s.modPlacement slot i fun q => { q with state := .cut }).claimResolve p.line

/-- A placement out on a channel made SPOILED: its line takes one return, and its cover is kept. -/
def resolveSpoiled (slot i : Nat) (p : Placement) (s : State) : State :=
  (s.modPlacement slot i fun q => { q with state := .spoiled }).claimReturn p.line

/-- A placement out on a channel made SKIPPED with a reason and detail: its cover is unmarked and its line takes one
return. -/
def resolveSkipped (slot i : Nat) (p : Placement) (reason : Nat × Nat) (s : State) : State :=
  ((s.modPlacement slot i fun q => { q with state := .skipped, reason := some reason }).unmarkCover slot p.slot
    p.variant p.x p.y).claimReturn p.line

/-- The placement resolved with an outcome (R153). -/
def resolve (slot i : Nat) (o : CutOutcome) (reason : Nat × Nat) (s : State) : State :=
  match s.placement slot i with
  | none => s
  | some p =>
    match o with
    | .cut => s.resolveCut slot i p
    | .spoiled => s.resolveSpoiled slot i p
    | .skipped => s.resolveSkipped slot i p reason

/-- The query count of a channel set. -/
def setCount (c : Fin 4) (n : Nat) (s : State) : State := s.modChan c fun ch => { ch with queryCount := n }

/-- A resolving report: the placement resolved, its deadline dropped, the query count 0, hide and channel settled. -/
def resolveReport (c : Fin 4) (t : TicketRef) (slot : Nat) (o : CutOutcome) (reason : Nat × Nat) (s : State) : State :=
  (((s.resolve slot t.index o reason).dropDeadline c t).setCount c 0).settle slot

end State

/-- The outcome of a code: CUT 0, SPOILED 1, SKIPPED 2 (R153, R176). -/
def cutOutcomeOf : Nat → Option CutOutcome
  | 0 => some .cut
  | 1 => some .spoiled
  | 2 => some .skipped
  | _ => none

/-- CUT_REPORT as the channel takes it. -/
def cutReportBody (c : Fin 4) (n outcome reason detail : Nat) (s : State) : State × Reply :=
  match cutOutcomeOf outcome with
  | none => refuse s .range 1
  | some o =>
    match s.findAtWork c n with
    | some (slot, i) => (s.resolveReport c ⟨n, i⟩ slot o (reason, detail), .accept .nothing)
    | none => (s.raise (.channel c .staleReport), .refuse .stale n)

/-- CUT_REPORT. -/
def execCutReport (c : Fin 4) (h : Head) (ticket outcome reason detail : Nat) (s : State) : Out :=
  .next (request (.cutter c) 0x69 h 6 (cutReportBody c ticket outcome reason detail) s)

/-! ### The channel's own requests (R150, R173) -/

namespace State

/-- The channel may send a request of its own: none is outstanding (R150), and no reply's frame is being sent on its link
(R167). -/
def mayAsk (s : State) (c : Fin 4) : Bool := (s.chan c).outstanding.isNone && s.linkFree (.cutter c)

/-- A request of the channel's own sent on its link: it becomes the outstanding request, and the tag counts up. -/
def sendOwn (c : Fin 4) (r : OwnRequest) (f : OutFrame) (s : State) : State :=
  (s.modChan c fun ch =>
    { ch with outstanding := some ⟨r, ch.nextTag⟩, nextTag := (ch.nextTag + 1) % 256 }).send (.cutter c)
      (s.chan c).nextTag f

/-- The outstanding request ended. -/
def endOwn (c : Fin 4) (s : State) : State := s.modChan c fun ch => { ch with outstanding := none }

/-- The request that a reply frame with this tag answers. -/
def answered (s : State) (c : Fin 4) (tag : Nat) : Option OwnRequest :=
  match (s.chan c).outstanding with
  | none => none
  | some o => if o.tag = tag then some o.request else none

/-- The outstanding request, whatever its tag. -/
def waitingFor (s : State) (c : Fin 4) : Option OwnRequest := (s.chan c).outstanding.map Outstanding.request

end State

/-! ### TICKET_SEND (R151) -/

/-- The first PLACED placement of a list, with its index. -/
def firstPlaced (ps : List Placement) : Option (Nat × Placement) :=
  (ps.zipIdx.find? fun e => decide (e.1.state = .placed)).map fun e => (e.2, e.1)

/-- The conditions of R151 that concern the channel. -/
def maySend (s : State) (c : Fin 4) : Bool :=
  decide ((s.chan c).state = .running) && decide (s.ticketsOut c < s.settings.window c) &&
    s.mayAsk c && !(s.chan c).deadlines.any Deadline.expired

/-- The next ticket number (R151). -/
def nextNumber (n : Nat) : Nat := if n = 65535 then 1 else n + 1

/-- The piece code of a slot. -/
def codeOf (s : State) (slot : Nat) : Nat := ((s.piece slot).map Piece.code).getD 0

/-- A ticket sent for one placement (R151 steps 1 to 4); the channel's state is settled at once, so that the ticket of the
last PLACED placement leaves it DRAINING (R146, log entry 35). -/
def sendTicket (c : Fin 4) (slot : Nat) (h : Hide) (i : Nat) (p : Placement) (s : State) : State :=
  let n := (s.chan c).ticketCounter
  let t := s.modPlacement slot i fun q => { q with state := .ticketed, ticket := some (n, c) }
  let u := t.sendOwn c (.ticket ⟨n, i⟩) (.ticket n h.tag i (codeOf s p.slot) p.variant p.x p.y)
  (u.modChan c fun ch =>
    { ch with
      deadlines := ch.deadlines ++ [⟨⟨n, i⟩, s.settings.cutDeadline, false⟩]
      ticketCounter := nextNumber n }).settle slot

/-- The next ticket of a channel, where it may send one. -/
def ticketSend (c : Fin 4) (s : State) : State :=
  if maySend s c then
    match s.assigned c with
    | none => s
    | some (slot, h) =>
      match firstPlaced h.placements with
      | none => s
      | some (i, p) => sendTicket c slot h i p s
  else s

/-- TICKET_SEND; it does not occur where the conditions of R151 do not hold, or a reply's frame is being sent on the link
(log entry 4). -/
def execTicketSend (c : Fin 4) (s : State) : Out := .next (ticketSend c s)

/-! ### TICKET_ANSWER and TICKET_TIMEOUT (R152) -/

/-- A TICKET refused by the cutter: the placement that it was sent for, where it is still out under the number, becomes
SKIPPED. -/
def ticketRefused (c : Fin 4) (t : TicketRef) (reason : Nat × Nat) (s : State) : State :=
  match s.findTicket c t with
  | none => s
  | some slot => ((s.resolve slot t.index .skipped reason).dropDeadline c t).settle slot

/-- The answer to a TICKET. -/
def ticketAnswer (c : Fin 4) (tag : Nat) (a : PlainAnswer) (s : State) : State :=
  match s.answered c tag with
  | some (.ticket t) =>
    match a with
    | .accept => s.endOwn c
    | .refuse reason detail => ticketRefused c t (reason, detail) (s.endOwn c)
  | _ => s

/-- TICKET_ANSWER: a reply frame, after whose last byte the receiver is HUNTING. -/
def execTicketAnswer (c : Fin 4) (tag : Nat) (a : PlainAnswer) (s : State) : Out :=
  .next (ticketAnswer c tag a (s.hunt (.cutter c)))

/-- The end of an unanswered TICKET: the placement stays TICKETED. -/
def ticketTimeout (c : Fin 4) (s : State) : State :=
  match s.waitingFor c with
  | some (.ticket _) => s.endOwn c
  | _ => s

/-- TICKET_TIMEOUT; it does not occur where no TICKET is outstanding (log entry 4). -/
def execTicketTimeout (c : Fin 4) (s : State) : Out := .next (ticketTimeout c s)

/-! ### Deadlines and queries (R157) -/

/-- The deadline of a ticket run out. -/
def Deadline.expire (t : TicketRef) (d : Deadline) : Deadline := if d.ticket = t then { d with expired := true } else d

/-- The deadline of a ticket restarted with the CUT_DEADLINE in force. -/
def Deadline.restart (t : TicketRef) (seconds : Nat) (d : Deadline) : Deadline :=
  if d.ticket = t then { d with seconds := seconds, expired := false } else d

/-- DEADLINE_EXPIRY; where the ticket has no deadline running it changes nothing (log entry 4). -/
def execDeadlineExpiry (c : Fin 4) (ticket : TicketRef) (s : State) : Out :=
  .next (s.modChan c fun ch => { ch with deadlines := ch.deadlines.map (Deadline.expire ticket) })

/-- The first expired ticket in sending order. -/
def firstExpired (s : State) (c : Fin 4) : Option TicketRef :=
  match (s.chan c).deadlines.find? Deadline.expired with
  | none => none
  | some d => (s.findTicket c d.ticket).map fun _ => d.ticket

/-- The query for the first expired ticket sent, where the channel may send it. -/
def ticketQuerySend (c : Fin 4) (s : State) : State :=
  if s.mayAsk c then
    match firstExpired s c, s.assigned c with
    | some t, some (_, h) => s.sendOwn c (.query t) (.ticketQuery t.number h.tag t.index)
    | _, _ => s
  else s

/-- TICKET_QUERY_SEND; it does not occur where no query is due, a request is outstanding, or a reply's frame is being sent
on the link (log entry 4). -/
def execTicketQuerySend (c : Fin 4) (s : State) : Out := .next (ticketQuerySend c s)

/-! ### QUERY_ANSWER and QUERY_TIMEOUT (R158, R159) -/

/-- The query count after a rise, compared with QUERY_LIMIT (R159). -/
def compareLimit (c : Fin 4) (n : Nat) (s : State) : State :=
  if s.settings.queryLimit ≤ (s.chan c).queryCount then
    match s.settings.overdue with
    | .wait => (s.raise (.channel c .overdue)).setCount c 0
    | .fail => s.channelFault c .queryLimit n
  else s

/-- A ticket still uncertain: its deadline restarts and the query count rises. -/
def stillOut (c : Fin 4) (t : TicketRef) (s : State) : State :=
  match s.findTicket c t with
  | none => s
  | some _ =>
    compareLimit c t.number (s.modChan c fun ch =>
      { ch with
        deadlines := ch.deadlines.map (Deadline.restart t s.settings.cutDeadline)
        queryCount := ch.queryCount + 1 })

/-- A ticket of which the cutter has no record: its placement goes back to PLACED and is checked. -/
def unknownTicket (c : Fin 4) (t : TicketRef) (s : State) : State :=
  match s.findTicket c t with
  | none => s
  | some slot =>
    (((s.returnPlacement c slot t.index).dropDeadline c t).returnChecks slot [t.index]).settle slot

/-- A ticket that the cutter has finished. -/
def finishedTicket (c : Fin 4) (t : TicketRef) (o : CutOutcome) (reason : Nat × Nat) (s : State) : State :=
  match s.findTicket c t with
  | none => s
  | some slot => s.resolveReport c t slot o reason

/-- The answer to a TICKET_QUERY. -/
def queryAnswer (c : Fin 4) (tag : Nat) (a : QueryReply) (s : State) : State :=
  match s.answered c tag with
  | some (.query t) =>
    match a with
    | .finished o reason detail => finishedTicket c t o (reason, detail) (s.endOwn c)
    | .inProgress => stillOut c t (s.endOwn c)
    | .unknown => unknownTicket c t (s.endOwn c)
    | .refuse _ _ => stillOut c t (s.endOwn c)
  | _ => s

/-- QUERY_ANSWER, with the outcomes of its reads. -/
def execQueryAnswer (c : Fin 4) (tag : Nat) (a : QueryReply) (reads : List ReadOutcome) (s : State) : Out :=
  .next (s.withReads reads fun t => queryAnswer c tag a (t.hunt (.cutter c)))

/-- The end of an unanswered TICKET_QUERY. -/
def queryTimeout (c : Fin 4) (s : State) : State :=
  match s.waitingFor c with
  | some (.query t) => stillOut c t (s.endOwn c)
  | _ => s

/-- QUERY_TIMEOUT, with the outcomes of its reads; it does not occur where no query is outstanding (log entry 4). -/
def execQueryTimeout (c : Fin 4) (reads : List ReadOutcome) (s : State) : Out :=
  .next (s.withReads reads (queryTimeout c))

/-! ### Aborts (R162) -/

/-- ABORT_HIDE sent by an ABORTING channel, where no request is outstanding. -/
def abortSend (c : Fin 4) (s : State) : State :=
  if (s.chan c).state = .aborting ∧ s.mayAsk c = true then
    match s.assigned c with
    | none => s
    | some (_, h) => s.sendOwn c .abort (.abortHide h.tag)
  else s

/-- ABORT_HIDE_SEND; it does not occur where the channel is not ABORTING or waits for an answer, or a reply's frame is being
sent on the link (log entry 4). -/
def execAbortHideSend (c : Fin 4) (s : State) : Out := .next (abortSend c s)

/-- The discard of an ABORTING channel's hide completed, and the channel IDLE. -/
def endAbort (c : Fin 4) (s : State) : State :=
  match (s.chan c).hide with
  | none => s
  | some slot =>
    (s.completeDiscard slot).modChan c fun ch => { ch with state := .idle, hide := none, outstanding := none }

/-- The channel has an ABORT_HIDE outstanding. -/
def abortOut (s : State) (c : Fin 4) : Bool :=
  decide ((s.chan c).state = .aborting) && decide (s.waitingFor c = some .abort)

/-- The answer to ABORT_HIDE, ACCEPT or REFUSE alike. -/
def abortAnswer (c : Fin 4) (tag : Nat) (s : State) : State :=
  if abortOut s c && decide (s.answered c tag = some .abort) then (endAbort c s).evaluate else s

/-- ABORT_ANSWER: any answer completes the discard. -/
def execAbortAnswer (c : Fin 4) (tag : Nat) (_answer : PlainAnswer) (s : State) : Out :=
  .next (abortAnswer c tag (s.hunt (.cutter c)))

/-- The end of an unanswered ABORT_HIDE; ABORT_UNANSWERED is raised after the discard (log entry 8). -/
def abortTimeout (c : Fin 4) (s : State) : State :=
  if abortOut s c then ((endAbort c s).raise (.channel c .abortUnanswered)).evaluate else s

/-- ABORT_TIMEOUT; it does not occur where no ABORT_HIDE is outstanding (log entry 4). -/
def execAbortTimeout (c : Fin 4) (s : State) : Out := .next (abortTimeout c s)

/-- UNEXPECTED_REPLY: the frame is dropped, and the receiver is HUNTING after it (R150, R169). -/
def execUnexpectedReply (c : Fin 4) (_tag : Nat) (s : State) : Out := .next (s.hunt (.cutter c))

end Sys2Proof.Machine
end

