-- ==== Sys2Proof/Machine/Flaws.lean ====
section
/-! DEFINITION. Flaw marks and the map commit (chapter 5). -/

namespace Sys2Proof.Machine

/-! ### FLAW (R80 to R84) -/

/-- The checks of a flaw record's fields (R80, checks 3 to 7). -/
def flawChecks (h : Hide) (f : Flaw) : List Check :=
  [(decide (f.kind < 6), .range, 1),
   (decide (f.x0 ≤ f.x1), .range, 2),
   (decide (f.x1 < h.width), .range, 3),
   (decide (f.y0 ≤ f.y1), .range, 4),
   (decide (f.y1 < h.height), .range, 5)]

/-- A flaw appended to the staged list of a MAPPING hide (R81). -/
def stageFlaw (slot : Nat) (h : Hide) (f : Flaw) (s : State) : State × Reply :=
  (s.putHide slot { h with staged := h.staged ++ [f] },
    .accept (.flaw slot (.staged h.staged.length (h.staged.length + 1))))

/-- A flaw appended to the deferred list of a NESTING hide (R82). -/
def deferFlaw (slot : Nat) (h : Hide) (f : Flaw) (s : State) : State × Reply :=
  (s.putHide slot { h with deferred := h.deferred ++ [f] },
    .accept (.flaw slot (.deferred (h.deferred.length + 1))))

/-- A late flaw: applied, swept, the hide settled, and reported (R83, R84). -/
def lateFlaw (slot : Nat) (h : Hide) (f : Flaw) (s : State) : State × Reply :=
  let rect := flawRect s.settings h f
  let a := applyFlaw slot f s
  let w := sweepFlaw slot rect a
  let t := w.s.settle slot
  (t, .accept (.flaw slot (.applied (flawGrade s.settings f).val rect.x0 rect.y0 rect.x1 rect.y1 a.changed.length
    w.struck w.marked.length (stateCode t slot))))

/-- FLAW as the table takes it. -/
def flawBody (slot : Nat) (f : Flaw) (s : State) : State × Reply :=
  onHide s slot [.mapping, .mapped, .nestWait, .nesting, .nested, .dispatchWait, .cutting, .done] [.committing]
    fun h =>
      checked s
        (flawChecks h f ++
          [(decide (h.state ≠ .mapping) || decide (h.staged.length < Config.stagedFlaws), .noRoom, Config.stagedFlaws),
           (decide (h.state ≠ .nesting) || decide (h.deferred.length < Config.deferredFlaws), .noRoom,
             Config.deferredFlaws)])
        (match h.state with
         | .mapping => stageFlaw slot h f s
         | .nesting => deferFlaw slot h f s
         | _ => lateFlaw slot h f s)

/-- FLAW, with the outcomes of its reads. -/
def execFlaw (l : UpLink) (h : Head) (slot : Nat) (f : Flaw) (reads : List ReadOutcome) (s : State) : Out :=
  .next (s.withReads reads (request (upLink l) 0x33 h 13 (flawBody slot f)))

/-! ### FLAWS_CLEAR (R86) -/

/-- FLAWS_CLEAR as the table takes it. -/
def flawsClearBody (slot : Nat) (s : State) : State × Reply :=
  onHide s slot [.mapping] [.committing] fun h =>
    (s.putHide slot { h with staged := [] }, .accept (.flawsCleared slot h.staged.length))

/-- FLAWS_CLEAR. -/
def execFlawsClear (h : Head) (slot : Nat) (s : State) : Out :=
  .next (request .scanner 0x34 h 1 (flawsClearBody slot) s)

/-! ### MAP_COMMIT (R87) -/

/-- MAP_COMMIT as the table takes it. -/
def mapCommitBody (slot : Nat) (s : State) : State × Reply :=
  onHide s slot [.mapping] [.committing] fun h =>
    (s.putHide slot { h with state := .committing },
      .accept (.committing slot HideState.committing.code h.staged.length))

/-- MAP_COMMIT. -/
def execMapCommit (h : Head) (slot : Nat) (s : State) : Out :=
  .next (request .scanner 0x35 h 1 (mapCommitBody slot) s)

/-! ### COMMIT_COMPLETION (R88 to R92) -/

/-- The cells of one tile that lie in the extent, in raster order. -/
def tileCells (h : Hide) (tile : Nat) : List (Nat × Nat) :=
  (List.range 32).flatMap fun b => (List.range 32).filterMap fun a =>
    if h.inExtent (tile % h.cols * 32 + a) (tile / h.cols * 32 + b) then
      some (tile % h.cols * 32 + a, tile / h.cols * 32 + b)
    else none

/-- The cells of the framed tiles in tile raster order (R88). -/
def framedCells (h : Hide) : List (Nat × Nat) := h.frames.flatMap fun e => tileCells h e.1

/-- A search for an inside cell: the cells are read in order, up to the first that is inside (R88). -/
def findInside (slot : Nat) : List (Nat × Nat) → State → State × Bool
  | [], s => (s, false)
  | c :: t, s =>
    let r := s.readCell slot c.1 c.2
    match r.2 with
    | .noFrame => findInside slot t r.1
    | .outside => findInside slot t r.1
    | .grade _ => (r.1, true)
    | .poisoned _ => (r.1, true)

/-- FLAW_OFF_HIDE: every staged record's rectangle searched in list order, and the lowest index whose rectangle holds
no inside cell (R90). -/
def findOffHide (slot : Nat) : Nat → List Flaw → State → State × Option Nat
  | _, [], s => (s, none)
  | k, f :: t, s =>
    let r := findInside slot (markedRect f).cells s
    let q := findOffHide slot (k + 1) t r.1
    (q.1, if r.2 then q.2 else some k)

/-- THICKNESS_MISSING: the first framed tile without a VALID entry, as its column and row (R91). -/
def missingThickness (g : Settings) (h : Hide) : Option (Nat × Nat) :=
  if g.thickRequired then
    (h.frames.find? fun e => ((Tab.get h.thick e.1).bind Thickness.average).isNone).map
      fun e => (e.1 % h.cols, e.1 / h.cols)
  else none

/-- The staged records applied in list order (R92). -/
def applyStaged (slot : Nat) (flaws : List Flaw) (s : State) : State :=
  flaws.foldl (fun t f => (applyFlaw slot f t).s) s

/-- The completion on a COMMITTING hide: the three checks, and then their outcome (R92). -/
def completeCommit (slot : Nat) (h : Hide) (s : State) : State :=
  let e := findInside slot (framedCells h) s
  let o := findOffHide slot 0 h.staged e.1
  let m := missingThickness s.settings h
  if e.2 && o.2.isNone && m.isNone then
    ((applyStaged slot h.staged o.1).modHide slot fun g =>
      { g with state := .mapped, staged := [], commit := some .ok }).raise (.hide slot .mapOk)
  else
    (o.1.modHide slot fun g => { g with state := .mapping, commit := some (.failed (!e.2) o.2 m) }).raise
      (.hide slot .mapFailed)

/-- COMMIT_COMPLETION, with the outcomes of its reads; it does not occur where no commit is in progress (R93, log
entry 4). -/
def execCommitCompletion (slot : Nat) (reads : List ReadOutcome) (s : State) : Out :=
  .next (match s.hide slot with
    | none => s
    | some h => if h.state = .committing then s.withReads reads (completeCommit slot h) else s)

end Sys2Proof.Machine
end

