-- ==== Sys2Proof/Decode.lean ====
section
/-! DEFINITION. The catalogue of message kinds (R176), and what a word of the opcode table spells. -/

namespace Sys2Proof

/-- The kinds the host sends as requests on the control link (R176). -/
def hostKinds : List Nat :=
  [0x01, 0x02, 0x03, 0x04, 0x05, 0x06, 0x07,
   0x10, 0x11, 0x12, 0x13, 0x14, 0x15,
   0x20, 0x21, 0x22, 0x23, 0x24, 0x25, 0x26,
   0x33, 0x36, 0x37, 0x38, 0x39,
   0x40, 0x41, 0x42, 0x43, 0x48, 0x49, 0x4A,
   0x50, 0x51, 0x52, 0x53, 0x54, 0x58, 0x59, 0x5B]

/-- The kinds the scanner sends as requests on the scanner link (R176). -/
def scannerKinds : List Nat := [0x30, 0x31, 0x32, 0x33, 0x34, 0x35, 0x38]

/-- The kinds a cutter sends as requests on its link (R176). -/
def cutterKinds : List Nat := [0x68, 0x69, 0x6A]

/-- The kinds the part sends as requests on the cutter links (R176). -/
def partKinds : List Nat := [0x60, 0x61, 0x62]

/-- ACCEPT and REFUSE, the reply kinds (R170). -/
def replyKinds : List Nat := [0x80, 0x81]

/-- ATTENTION (R176). -/
def attentionKind : Nat := 0x8F

/-- The known codes of the catalogue; every other KIND is unknown (R176). -/
def knownKinds : List Nat :=
  hostKinds ++ scannerKinds ++ cutterKinds ++ partKinds ++ replyKinds ++ [attentionKind]

/-- The kinds that the partner on a link sends as requests (R170 check 2, R176). -/
def partnerKinds : Link → List Nat
  | .control => hostKinds
  | .scanner => scannerKinds
  | .cutter _ => cutterKinds

/-- R170: a good frame of this kind on this link is refused BAD_KIND. -/
def isBadKind (kind : Nat) : Bool := !knownKinds.contains kind

/-- R170: a good frame of this kind on this link is refused NOT_ON_LINK: a known kind, no reply kind, and not one that
the link's partner sends as a request. -/
def isNotOnLink (l : Link) (kind : Nat) : Bool :=
  knownKinds.contains kind && !replyKinds.contains kind && !(partnerKinds l).contains kind

/-- The command a word of the opcode table spells.
The table gives none of its rows any bits, so no word spells a command (log entry 16). -/
def decodeTableWord (_nbits _w : Nat) : Option Instr := none

end Sys2Proof
end

