-- ==== Sys2Proof/Machine/Layout.lean ====
section
/-! DEFINITION. The bytes of frames (R168, R176, R177): the frame with its check, the placement record, and the payload of
every frame that the part sends. -/

namespace Sys2Proof.Machine

/-! ### Fields, most significant byte first -/

/-- A field of one byte. -/
def byte1 (n : Nat) : List Byte := [BitVec.ofNat 8 n]

/-- A field of two bytes. -/
def byte2 (n : Nat) : List Byte := [BitVec.ofNat 8 (n / 256), BitVec.ofNat 8 n]

/-- A field of four bytes. -/
def byte4 (n : Nat) : List Byte := byte2 (n / 65536) ++ byte2 n

/-! ### The check of a frame (R168) -/

/-- One bit shifted out of the check register: the generator is x^16 + x^12 + x^5 + 1. -/
def crcBit (r : BitVec 16) : BitVec 16 := if r.getMsbD 0 then (r <<< 1) ^^^ 0x1021 else r <<< 1

/-- One byte fed in, most significant bit first. -/
def crcByte (r : BitVec 16) (b : Byte) : BitVec 16 :=
  let x := r ^^^ (b.setWidth 16 <<< 8)
  crcBit (crcBit (crcBit (crcBit (crcBit (crcBit (crcBit (crcBit x)))))))

/-- The check over a list of bytes, from 0xFFFF and without inversion. -/
def crc (bytes : List Byte) : BitVec 16 := bytes.foldl crcByte 0xFFFF

/-- The bytes that the check covers: KIND, TAG, LEN and PAYLOAD. -/
def frameBody (kind tag : Nat) (payload : List Byte) : List Byte :=
  byte1 kind ++ byte1 tag ++ byte2 payload.length ++ payload

/-- A whole frame, from its START byte to its last CRC byte. -/
def frameBytes (kind tag : Nat) (payload : List Byte) : List Byte :=
  byte1 0x5A ++ frameBody kind tag payload ++ byte2 (crc (frameBody kind tag payload)).toNat

/-! ### The placement record (R177) -/

/-- The flags byte of a placement record. -/
def placementFlags (p : Placement) : Nat :=
  (if p.partner.isSome then 1 else 0) + (if p.source = .manual then 2 else 0) + (if p.ticket.isSome then 4 else 0) +
    (if p.marker then 8 else 0) + (if p.reason.isSome then 16 else 0)

/-- The 17 bytes of a placement record. -/
def placementBytes (i : Nat) (p : Placement) : List Byte :=
  byte1 i ++ byte1 p.line ++ byte1 p.slot ++ byte1 p.variant ++ byte2 p.x ++ byte2 p.y ++ byte1 p.state.code ++
    byte1 (placementFlags p) ++ byte1 (p.partner.getD 0) ++ byte2 ((p.ticket.map (·.1)).getD 0) ++
    byte1 ((p.ticket.map fun t => t.2.1).getD 0) ++ byte1 ((p.reason.map (·.1)).getD 0) ++
    byte2 ((p.reason.map (·.2)).getD 0)

/-! ### Coding of fields (R176)

A number takes 1, 2 or 4 bytes by the range that a rule gives it, and a count without one takes 4; each field that may be
absent follows a presence byte of its own (log entry 33). -/

/-- A flag. -/
def flagByte (b : Bool) : List Byte := byte1 (if b then 1 else 0)

/-- A field that may be absent, by its length: a presence byte, and zeros where it is absent. -/
def optBytes (length : Nat) : Option (List Byte) → List Byte
  | none => byte1 0 ++ List.replicate length 0
  | some bytes => byte1 1 ++ bytes

/-- A field of one byte that may be absent. -/
def opt1 (n : Option Nat) : List Byte := optBytes 1 (n.map byte1)

/-- A field of two bytes that may be absent. -/
def opt2 (n : Option Nat) : List Byte := optBytes 2 (n.map byte2)

/-- A field of four bytes that may be absent. -/
def opt4 (n : Option Nat) : List Byte := optBytes 4 (n.map byte4)

/-- A list whose count has a range within one byte: its count, and the items. -/
def counted {α : Type} (list : List α) (item : α → List Byte) : List Byte := byte1 list.length ++ list.flatMap item

/-- A list whose count no rule gives a range: its count, and the items. -/
def counted4 {α : Type} (list : List α) (item : α → List Byte) : List Byte := byte4 list.length ++ list.flatMap item

/-- Named values by their place in the order that R1 lists them. -/
def LineState.code : LineState → Nat
  | .active => 0
  | .cancelling => 1
  | .complete => 2
  | .closed => 3

/-- FIRST 0, SECOND 1. -/
def PairRole.code : PairRole → Nat
  | .first => 0
  | .second => 1

/-- OPEN 0, LOCKED 1. -/
def BankMode.code : BankMode → Nat
  | .unlocked => 0
  | .locked => 1

/-- NORMAL 0, THROTTLED 1. -/
def Throttle.code : Throttle → Nat
  | .normal => 0
  | .throttled => 1

/-- RUN 0, HOLD 1. -/
def DispatchState.code : DispatchState → Nat
  | .run => 0
  | .hold => 1

/-- RUSH 0, NORMAL 1. -/
def Urgency.code : Urgency → Nat
  | .rush => 0
  | .normal => 1

/-- ENGINE 0, CHANNEL 1. -/
def Route.code : Route → Nat
  | .engine => 0
  | .channel => 1

/-! ### The records that replies carry -/

/-- A line's record, its fields as R1 lists them. -/
def lineBytes (id : Nat) (l : Line) : List Byte :=
  byte1 id ++ byte1 l.state.code ++ byte1 l.slot ++ byte2 l.style ++ byte2 l.size ++ byte2 l.ordered ++
    byte2 l.openUnits ++ byte2 l.reserved ++ byte2 l.cut ++ opt1 (l.pair.map Pairing.mirror) ++
    opt1 (l.pair.map fun p => p.role.code) ++ flagByte l.notice

/-- A variant as the replies give it (R21, R29). -/
def variantBytes (v : VariantView) : List Byte :=
  byte1 v.orientation ++ byte1 v.width ++ byte1 v.height ++ byte2 v.body ++ byte4 v.zone1 ++ byte4 v.zone2 ++
    byte4 v.zone3

/-- A piece as PIECE_READ gives it (R35): the code, margin and offsets, the band, and the variants. -/
def pieceBytes (p : Option PieceView) : List Byte :=
  opt2 (p.map PieceView.code) ++ opt1 (p.map PieceView.margin) ++ optBytes 1 (p.map fun v => [v.offsets]) ++
    optBytes 4 ((p.bind PieceView.band).map fun b => byte2 b.1 ++ byte2 b.2) ++
    optBytes 1 (p.map fun v => counted v.variants variantBytes)

/-- A run of PIECE_READ (R35). -/
def runBytes (r : Run) : List Byte := byte1 r.code ++ byte1 r.length

/-- The offenders of a commit result (R90, R91): a staged index, and a tile's column and row. -/
def CommitResult.offenders : CommitResult → Option Nat × Option (Nat × Nat)
  | .ok => (none, none)
  | .failed _ off missing => (off, missing)

/-- The flags of a commit result (R92): EMPTY, FLAW_OFF_HIDE and THICKNESS_MISSING. -/
def CommitResult.flags : CommitResult → List Bool
  | .ok => [false, false, false]
  | .failed empty off missing => [empty, off.isSome, missing.isSome]

/-- OK 0, FAILED 1. -/
def CommitResult.code : CommitResult → Nat
  | .ok => 0
  | .failed _ _ _ => 1

/-- A commit result (R56, R92): its code, a flag for each check, and the offenders. -/
def commitBytes (r : Option CommitResult) : List Byte :=
  opt1 (r.map CommitResult.code) ++
    ([0, 1, 2].flatMap fun k => optBytes 1 (r.map fun c => flagByte (c.flags.getD k false))) ++
    opt1 (r.bind fun c => c.offenders.1) ++ optBytes 2 ((r.bind fun c => c.offenders.2).map fun t => byte1 t.1 ++ byte1 t.2)

/-- A step's result in the pass report (R124); no rule gives units committed a range. -/
def stepBytes (r : StepResult) : List Byte :=
  byte1 r.line ++ byte4 r.units ++ byte1 r.reason.code ++ flagByte r.rolledBack

/-- The pass report (R56): the steps ended, the step in progress, and the totals. -/
def reportBytes (step : Option Nat) (r : Option PassReport) : List Byte :=
  optBytes 1 (r.map fun p => counted p.steps stepBytes) ++ opt1 step ++ opt1 (r.map PassReport.placementsAdded) ++
    opt4 (r.map PassReport.bodyAdded)

/-- The items of HIDE_READ after the slot and its state (R56), each absent in a FREE slot. -/
def hideBytes (v : Option LiveView) : List Byte :=
  opt4 (v.map LiveView.tag) ++ opt2 (v.map LiveView.width) ++ opt2 (v.map LiveView.height) ++
    opt1 (v.map LiveView.backbone) ++ opt1 (v.map LiveView.cols) ++ opt1 (v.map LiveView.rows) ++
    opt4 (v.map LiveView.framed) ++ opt4 (v.map LiveView.poisoned) ++ opt4 (v.map LiveView.thickValid) ++
    opt2 (v.map LiveView.staged) ++ opt1 (v.map LiveView.deferred) ++ opt4 (v.map LiveView.deferredPoison) ++
    opt1 (v.map LiveView.listCount) ++
    ([0, 1, 2, 3, 4, 5, 6].flatMap fun k => opt4 (v.map fun w => w.counts.getD k 0)) ++
    opt1 (v.bind LiveView.stackDepth) ++ commitBytes (v.bind LiveView.commit) ++
    reportBytes (v.bind LiveView.stepInProgress) (v.bind LiveView.report) ++
    opt4 ((v.bind LiveView.release).map Release.number) ++
    opt1 ((v.bind LiveView.release).map fun r => r.urgency.code) ++
    optBytes 1 ((v.bind LiveView.release).map fun r => [r.mask]) ++
    opt1 ((v.bind LiveView.channel).map fun c => c.1) ++ opt1 ((v.bind LiveView.route).map Route.code)

/-- What FLAW gives (R80 to R83): STAGED 0, DEFERRED 1, APPLIED 2, with its items. -/
def handlingBytes : FlawHandling → List Byte
  | .staged index count => byte1 0 ++ byte1 index ++ byte2 count
  | .deferred count => byte1 1 ++ byte1 count
  | .applied grade x0 y0 x1 y1 changed struck marked state =>
    byte1 2 ++ byte1 grade ++ byte2 x0 ++ byte2 y0 ++ byte2 x1 ++ byte2 y1 ++ byte4 changed ++ byte4 struck ++
      byte4 marked ++ byte1 state

/-- What HOLD gives (R141). -/
def dispatchBytes (v : DispatchView) : List Byte :=
  byte1 v.state.code ++ byte1 v.ratio ++ byte1 v.lastGranted.1 ++
    counted v.waiting fun e => byte1 e.1 ++ byte4 e.2.1 ++ byte1 e.2.2.code

/-- A last fault cause with its code (R164): NONE is 0 with code 0. -/
def faultBytes : Option (FaultCause × Nat) → List Byte
  | none => byte1 0 ++ byte2 0
  | some (cause, code) => byte1 cause.code ++ byte2 code

/-- What CUTTER_READ gives (R164). -/
def channelBytes (v : ChannelView) : List Byte :=
  byte1 v.channel.1 ++ byte1 v.state.code ++ flagByte v.enabled ++ flagByte v.ready ++ byte1 v.window ++
    byte1 v.ticketsOut ++ byte1 v.queryCount ++ byte2 v.nextTicket ++ byte4 v.expired ++ faultBytes v.lastFault ++
    opt1 (v.hide.map fun e => e.1) ++ opt4 (v.hide.map fun e => e.2) ++ opt1 v.outstanding

/-! ### Payloads of the frames that the part sends -/

/-- The payload of an ACCEPT: the result fields in the order in which the request's rule lists them. -/
def acceptPayload : Result → List Byte
  | .nothing => []
  | .identity vendor part revision capacities =>
    byte2 vendor ++ byte2 part ++ byte1 revision ++
      capacities.flatMap fun n => if n < 256 then byte1 n else if n < 65536 then byte2 n else byte4 n
  | .setting code value => byte1 code ++ byte4 value
  | .line id l => lineBytes id l
  | .lines id1 l1 id2 l2 => lineBytes id1 l1 ++ lineBytes id2 l2
  | .removed ids => counted4 ids byte1
  | .piece slot state free => byte1 slot ++ byte1 state ++ byte4 free
  | .variant slot state v free => byte1 slot ++ byte1 state ++ variantBytes v ++ byte4 free
  | .pieceRecord slot bank mode state lines free p row =>
    byte1 slot ++ byte1 bank ++ byte1 mode.code ++ byte1 state ++ byte2 lines ++ byte4 free ++ pieceBytes p ++
      optBytes 4 (row.map fun runs => counted4 runs runBytes)
  | .bank bank mode => byte1 bank ++ byte1 mode.code
  | .opened slot tag => byte1 slot ++ byte4 tag
  | .rows slot y taken free throttle => byte1 slot ++ byte2 y ++ byte4 taken ++ byte2 free ++ byte1 throttle.code
  | .thickness slot taken invalid valid => byte1 slot ++ byte1 taken ++ byte4 invalid ++ byte4 valid
  | .flaw slot f => byte1 slot ++ handlingBytes f
  | .flawsCleared slot dropped => byte1 slot ++ byte2 dropped
  | .committing slot state staged => byte1 slot ++ byte1 state ++ byte2 staged
  | .hide slot state v => byte1 slot ++ byte1 state ++ hideBytes v
  | .placements slot count page => byte1 slot ++ byte1 count ++ counted page fun e => placementBytes e.1 e.2
  | .discarded slot tag state => byte1 slot ++ byte4 tag ++ byte1 state
  | .closed slot tag => byte1 slot ++ byte4 tag
  | .queued slot state ahead => byte1 slot ++ byte1 state ++ byte1 ahead
  | .placed records state => records.flatMap (fun e => placementBytes e.1 e.2) ++ byte1 state
  | .struck count state => byte1 count ++ byte1 state
  | .released slot number => byte1 slot ++ byte4 number
  | .holding v => dispatchBytes v
  | .running v grants => dispatchBytes v ++ byte1 grants
  | .channel c state enabled ready => byte1 c.1 ++ byte1 state.code ++ flagByte enabled ++ flagByte ready
  | .channelRecord v => channelBytes v
  | .store free owned retired throttle corrected poisoned low resume =>
    byte2 free ++ byte2 owned ++ byte2 retired ++ byte1 throttle.code ++ byte2 corrected ++ byte4 poisoned ++
      byte2 low ++ byte2 resume
  | .summary bytes => bytes
  | .pendingCodes source codes => byte1 source ++ counted4 codes byte1
  | .notices source count ids => byte1 source ++ byte2 count ++ counted ids byte1
  | .cleared source codes bytes => byte1 source ++ counted4 codes byte1 ++ bytes
  | .clearedBook source count bytes => byte1 source ++ byte2 count ++ bytes

/-- The payload of a frame. -/
def OutFrame.payload : OutFrame → List Byte
  | .reply (.accept r) => acceptPayload r
  | .reply (.refuse reason detail) => byte1 reason.code ++ byte2 detail
  | .reply (.refuseNoFit detail x y) => byte1 Reason.noFit.code ++ byte2 detail ++ byte2 x ++ byte2 y
  | .ticket number hideTag index code orientation x y =>
    byte2 number ++ byte4 hideTag ++ byte1 index ++ byte2 code ++ byte1 orientation ++ byte2 x ++ byte2 y
  | .ticketQuery number hideTag index => byte2 number ++ byte4 hideTag ++ byte1 index
  | .abortHide hideTag => byte4 hideTag
  | .attention bytes => bytes

/-- The KIND of a frame (R170, R176). -/
def OutFrame.kind : OutFrame → Nat
  | .reply (.accept _) => 0x80
  | .reply (.refuse _ _) => 0x81
  | .reply (.refuseNoFit _ _ _) => 0x81
  | .ticket .. => 0x60
  | .ticketQuery .. => 0x61
  | .abortHide _ => 0x62
  | .attention _ => 0x8F

/-- The bytes of a frame that the part has sent. -/
def Sent.bytes (f : Sent) : List Byte := frameBytes f.frame.kind f.tag f.frame.payload

end Sys2Proof.Machine
end

