-- ==== Sys2Proof/Machine/Links.lean ====
section
/-! DEFINITION. The receivers of the links and the framing events (R168 to R170). -/

namespace Sys2Proof.Machine

/-! ### Bytes arriving (R169) -/

/-- The byte that starts a frame. -/
def startByte : Byte := 0x5A

/-- The LEN of its two bytes. -/
def lenOf (first second : Byte) : Nat := first.toNat * 256 + second.toNat

/-- The end of a frame at its last CRC byte: the CRC is computed over the bytes from KIND through the payload. -/
def checkFrame (kind tag a b : Byte) (rest : List Byte) : FrameEnd :=
  if byte2 (crc (kind :: tag :: a :: b :: rest.take (lenOf a b))).toNat = rest.drop (lenOf a b) then
    .good kind.toNat tag.toNat (rest.take (lenOf a b))
  else .badCrc tag.toNat

/-- The bytes gathered after START, the last of them just stored: LEN is tested at its second byte, and the frame ends at
its last CRC byte. -/
def gathered : List Byte → Arrival
  | kind :: tag :: a :: b :: rest =>
    if Config.payloadBytes < lenOf a b then .ended (.tooLong tag.toNat (lenOf a b))
    else if rest.length = lenOf a b + 2 then .ended (checkFrame kind tag a b rest)
    else .going (.inFrame (kind :: tag :: a :: b :: rest))
  | bytes => .going (.inFrame bytes)

/-- One byte taken by a receiver. -/
def takeByte (r : Receiver) (b : Byte) : Arrival :=
  match r with
  | .hunting => .going (if b = startByte then .inFrame [] else .hunting)
  | .inFrame bytes => gathered (bytes ++ [b])

/-- Bytes taken one after another, none but the last of which ends a frame. -/
def arrive : Receiver → List Byte → Option Arrival
  | r, [] => some (.going r)
  | r, b :: t =>
    match takeByte r b with
    | .going q => arrive q t
    | .ended e => if t.isEmpty then some (.ended e) else none

/-- The end that bytes bring to the frame of a link, if the last of them ends it. -/
def State.frameEnd (s : State) (l : Link) (bytes : List Byte) : Option FrameEnd :=
  match arrive (s.link l).receiver bytes with
  | some (.ended e) => some e
  | _ => none

/-- FRAME_BEGIN: a 0x5A byte arrives, and the bytes after it.
A HUNTING receiver begins a frame with it; one that is IN_FRAME stores it (log entry 18).
Where the bytes would end the frame, another event stands for them (log entry 19). -/
def takeBytes (l : Link) (bytes : List Byte) (s : State) : State :=
  match arrive (s.link l).receiver (startByte :: bytes) with
  | some (.going r) => s.putLink l { s.link l with receiver := r }
  | _ => s

/-- FRAME_BEGIN. -/
def execFrameBegin (p : Link × List Byte) (s : State) : Out := .next (takeBytes p.1 p.2 s)

/-- INTER_BYTE_GAP: a partial frame is dropped with no reply. -/
def execInterByteGap (l : Link) (s : State) : Out := .next (s.hunt l)

/-! ### Refusals of the Link Unit (R169, R170)

Each event takes the bytes up to the end of a frame; where they do not end the frame as the event says, it does not
occur (log entry 4). -/

/-- A frame refused by the Link Unit, which changes no other block; the receiver is HUNTING after it. -/
def refuseFrame (l : Link) (tag : Nat) (reason : Reason) (detail : Nat) (s : State) : State :=
  (s.hunt l).answer l tag (.refuse reason detail)

/-- LEN_TOO_LONG: the second byte of a LEN above 1024 has arrived. -/
def lenTooLong (l : Link) (bytes : List Byte) (s : State) : State :=
  match s.frameEnd l bytes with
  | some (.tooLong tag len) => refuseFrame l tag .badLength len s
  | _ => s

/-- LEN_TOO_LONG. -/
def execLenTooLong (l : Link) (bytes : List Byte) (last : Byte) (s : State) : Out :=
  .next (lenTooLong l (bytes ++ [last]) s)

/-- FRAME_CRC_MISMATCH: the last byte of a frame whose CRC does not match has arrived. -/
def crcMismatch (l : Link) (bytes : List Byte) (s : State) : State :=
  match s.frameEnd l bytes with
  | some (.badCrc tag) => refuseFrame l tag .badCrc 0 s
  | _ => s

/-- FRAME_CRC_MISMATCH. -/
def execFrameCrcMismatch (l : Link) (bytes : List Byte) (s : State) : Out := .next (crcMismatch l bytes s)

/-- BAD_KIND_FRAME: a good frame of an unknown kind (R170 check 1). -/
def badKindFrame (l : Link) (bytes : List Byte) (s : State) : State :=
  match s.frameEnd l bytes with
  | some (.good kind tag _) => if isBadKind kind then refuseFrame l tag .badKind kind s else s
  | _ => s

/-- BAD_KIND_FRAME. -/
def execBadKindFrame (l : Link) (bytes : List Byte) (last : Byte) (s : State) : Out :=
  .next (badKindFrame l (bytes ++ [last]) s)

/-- NOT_ON_LINK_FRAME: a good frame of a kind that the link's partner does not send as a request (R170 check 2). -/
def notOnLinkFrame (l : Link) (bytes : List Byte) (s : State) : State :=
  match s.frameEnd l bytes with
  | some (.good kind tag _) => if isNotOnLink l kind then refuseFrame l tag .notOnLink kind s else s
  | _ => s

/-- NOT_ON_LINK_FRAME. -/
def execNotOnLinkFrame (l : Link) (bytes : List Byte) (last : Byte) (s : State) : Out :=
  .next (notOnLinkFrame l (bytes ++ [last]) s)

/-- REPLY_ON_CONTROL_OR_SCANNER_LINK: a good reply frame, dropped with no reply (R170). -/
def dropReply (l : Link) (bytes : List Byte) (s : State) : State :=
  match s.frameEnd l bytes with
  | some (.good kind _ _) => if replyKinds.contains kind then s.hunt l else s
  | _ => s

/-- REPLY_ON_CONTROL_OR_SCANNER_LINK. -/
def execReplyOnControlOrScannerLink (p : UpLink × List Byte) (s : State) : Out :=
  .next (dropReply (upLink p.1) p.2 s)

end Sys2Proof.Machine
end

