-- ==== Sys2Proof/Machine/Notices.lean ====
section
/-! DEFINITION. The attention requests and the attention frame (chapter 11, R178). -/

namespace Sys2Proof.Machine

/-! ### ATTN_SUMMARY and ATTN_READ (R181) -/

/-- ATTN_SUMMARY as the Attention Unit takes it. -/
def attnSummaryBody (s : State) : State × Reply := (s, .accept (.summary s.summary))

/-- ATTN_SUMMARY. -/
def execAttnSummary (h : Head) (s : State) : Out := .next (request .control 0x58 h 0 attnSummaryBody s)

/-- What ATTN_READ gives of a source (R19, R181); for BOOK the count and the ids stand in place of the codes, after the source
(log entry 37). -/
def readSource (s : State) (source : Nat) : Result :=
  if source = bookSource then .notices source s.noticeIds.length (s.noticeIds.take 32)
  else .pendingCodes source (s.pendingCodes source)

/-- ATTN_READ as the Attention Unit takes it. -/
def attnReadBody (source : Nat) (s : State) : State × Reply :=
  checked s [(decide (source ≤ 18), .range, 0)] (s, .accept (readSource s source))

/-- ATTN_READ. -/
def execAttnRead (h : Head) (source : Nat) (s : State) : Out := .next (request .control 0x59 h 1 (attnReadBody source) s)

/-! ### ATTN_CLEAR (R181) -/

/-- The most entries of an ATTN_CLEAR list. -/
def clearLimit (source : Nat) : Nat := if source = bookSource then 32 else 8

/-- The checks of the codes of a list that is not BOOK's. -/
def codeChecks (source : Nat) (list : List Nat) : List Check :=
  if source = bookSource then []
  else list.zipIdx.map fun e => (decide (e.1 < eventCount source), .range, 256 + e.2)

/-- The listed events or notices cleared. -/
def clearListed (source : Nat) (list : List Nat) (s : State) : State :=
  if source = bookSource then s.clearNotices list else s.clearCodes source list

/-- What ATTN_CLEAR gives of a source, with the summary. -/
def clearedResult (s : State) (source : Nat) : Result :=
  if source = bookSource then .clearedBook source s.noticeIds.length s.summary
  else .cleared source (s.pendingCodes source) s.summary

/-- ATTN_CLEAR as the Attention Unit takes it. -/
def attnClearBody (source : Nat) (list : List Nat) (s : State) : State × Reply :=
  checked s
    ([(decide (source ≤ 18), .range, 0),
      (decide (1 ≤ list.length) && decide (list.length ≤ clearLimit source), .range, 1)] ++ codeChecks source list)
    (let t := clearListed source list s
     (t, .accept (clearedResult t source)))

/-- ATTN_CLEAR. -/
def execAttnClear (h : Head) (source : Nat) (list : List Nat) (s : State) : Out :=
  .next (request .control 0x5B h (2 + list.length) (attnClearBody source list) s)

/-! ### ATTENTION_SEND (R178, R183) -/

/-- The waiting frame sent with the summary as it stands, at a moment when no frame is being sent on the control link; a
reply in hand whose frame has not begun goes after it (R167, log entry 2). -/
def attentionSend (s : State) : State := if s.attn.waiting && s.linkFree .control then s.sendAttention else s

/-- ATTENTION_SEND; it does not occur where no frame waits, or a reply's frame is being sent (log entry 4). -/
def execAttentionSend (s : State) : Out := .next (attentionSend s)

end Sys2Proof.Machine
end

