-- ==== Sys2Proof/Machine/Profile.lean ====
section
/-! DEFINITION. Settings, the Profile Store and the start of the part (chapter 12, R174, R175). -/

namespace Sys2Proof.Machine

/-! ### One setting (R185) -/

/-- The values of THICK_REQUIRED: OFF 0, ON 1. -/
def onOff : Nat → Option Bool
  | 0 => some false
  | 1 => some true
  | _ => none

/-- The values of ATTN_MODE: EDGE 0, EACH 1. -/
def attnModeOf : Nat → Option AttnMode
  | 0 => some .edge
  | 1 => some .each
  | _ => none

/-- The values of CUTTER_PICK: LOWEST 0, ROTATE 1. -/
def pickOf : Nat → Option Pick
  | 0 => some .lowest
  | 1 => some .rotate
  | _ => none

/-- The values of OVERDUE_ACTION: WAIT 0, FAIL 1. -/
def overdueOf : Nat → Option Overdue
  | 0 => some .wait
  | 1 => some .fail
  | _ => none

/-- A number in a range. -/
def inRange (lo hi v : Nat) : Option Nat := if lo ≤ v ∧ v ≤ hi then some v else none

/-- A rate of CONTROL_RATE. -/
def rateOf (v : Nat) : Option Nat := if [57600, 115200, 230400, 460800, 921600].contains v then some v else none

/-- The codes of R185. -/
def settingCode (code : Nat) : Bool := decide (1 ≤ code) && decide (code ≤ 23)

/-- The value of a setting, as GET carries it. -/
def Settings.value (g : Settings) : Nat → Nat
  | 1 => g.sevT1
  | 2 => g.sevT2
  | 3 => g.sevT3
  | 4 => g.haloScar
  | 5 => g.haloBrand
  | 6 => g.haloTick
  | 7 => g.haloHole
  | 8 => g.haloFold
  | 9 => g.haloChalk
  | 10 => g.frameLow
  | 11 => g.frameResume
  | 12 => if g.thickRequired then 1 else 0
  | 13 => match g.attnMode with
    | .edge => 0
    | .each => 1
  | 14 => g.rushRatio
  | 15 => match g.pick with
    | .lowest => 0
    | .rotate => 1
  | 16 => g.window0
  | 17 => g.window1
  | 18 => g.window2
  | 19 => g.window3
  | 20 => g.cutDeadline
  | 21 => g.queryLimit
  | 22 => match g.overdue with
    | .wait => 0
    | .fail => 1
  | _ => g.controlRate

/-- A setting given a value, where the value lies in the setting's own range. -/
def Settings.with (g : Settings) (v : Nat) : Nat → Option Settings
  | 1 => (inRange 0 255 v).map fun n => { g with sevT1 := n }
  | 2 => (inRange 0 255 v).map fun n => { g with sevT2 := n }
  | 3 => (inRange 0 255 v).map fun n => { g with sevT3 := n }
  | 4 => (inRange 0 7 v).map fun n => { g with haloScar := n }
  | 5 => (inRange 0 7 v).map fun n => { g with haloBrand := n }
  | 6 => (inRange 0 7 v).map fun n => { g with haloTick := n }
  | 7 => (inRange 0 7 v).map fun n => { g with haloHole := n }
  | 8 => (inRange 0 7 v).map fun n => { g with haloFold := n }
  | 9 => (inRange 0 7 v).map fun n => { g with haloChalk := n }
  | 10 => (inRange 0 8191 v).map fun n => { g with frameLow := n }
  | 11 => (inRange 1 8192 v).map fun n => { g with frameResume := n }
  | 12 => (onOff v).map fun b => { g with thickRequired := b }
  | 13 => (attnModeOf v).map fun m => { g with attnMode := m }
  | 14 => (inRange 1 8 v).map fun n => { g with rushRatio := n }
  | 15 => (pickOf v).map fun p => { g with pick := p }
  | 16 => (inRange 1 8 v).map fun n => { g with window0 := n }
  | 17 => (inRange 1 8 v).map fun n => { g with window1 := n }
  | 18 => (inRange 1 8 v).map fun n => { g with window2 := n }
  | 19 => (inRange 1 8 v).map fun n => { g with window3 := n }
  | 20 => (inRange 5 600 v).map fun n => { g with cutDeadline := n }
  | 21 => (inRange 1 15 v).map fun n => { g with queryLimit := n }
  | 22 => (overdueOf v).map fun a => { g with overdue := a }
  | 23 => (rateOf v).map fun n => { g with controlRate := n }
  | _ => none

/-- The two orders that the settings in force always meet (R185). -/
def Settings.ordered (g : Settings) : Bool :=
  decide (g.sevT1 ≤ g.sevT2) && decide (g.sevT2 ≤ g.sevT3) && decide (g.frameLow < g.frameResume)

/-! ### Settings put in force (R185, R189, R63, R139) -/

/-- A change of a throttle mark. -/
def marksChanged (a b : Settings) : Bool := decide (a.frameLow ≠ b.frameLow) || decide (a.frameResume ≠ b.frameResume)

/-- A change of RUSH_RATIO or CUTTER_PICK. -/
def arbiterChanged (a b : Settings) : Bool := decide (a.rushRatio ≠ b.rushRatio) || decide (a.pick ≠ b.pick)

/-- Settings put in force as one event: one mark-change evaluation where a mark changed, and one arbiter evaluation
where RUSH_RATIO or CUTTER_PICK changed. -/
def putInForce (g : Settings) (s : State) : State :=
  let old := s.settings
  let t := { s with profile := { s.profile with settings := g } }
  let u := if marksChanged old g then t.markEval else t
  if arbiterChanged old g then u.evaluate else u

/-- The reply waits for a change of the control link's rate that the request has caused (R174). -/
def rateEnd (s : State) : Option ReplyEnd :=
  if s.settings.controlRate = s.links.rate then none else some .rateChange

/-! ### SET and GET (R186) -/

/-- SET as the Profile Store takes it. -/
def setBody (code value : Nat) (s : State) : State × Reply :=
  if settingCode code then
    match s.settings.with value code with
    | none => refuse s .range 1
    | some g =>
      if g.ordered then (putInForce g s, .accept (.setting code (g.value code))) else refuse s .range 2
  else refuse s .range 0

/-- SET. -/
def execSet (h : Head) (code value : Nat) (s : State) : Out :=
  .next (requestUntil rateEnd .control 0x03 h 5 (setBody code value) s)

/-- GET as the Profile Store takes it. -/
def getBody (code : Nat) (s : State) : State × Reply :=
  if settingCode code then (s, .accept (.setting code (s.settings.value code))) else refuse s .range 0

/-- GET. -/
def execGet (h : Head) (code : Nat) (s : State) : Out := .next (request .control 0x04 h 1 (getBody code) s)

/-! ### SAVE (R188) -/

/-- The busy state set. -/
def setBusy (b : Busy) (s : State) : State := { s with profile := { s.profile with busy := b } }

/-- The detail of a BUSY refusal: SAVING 1, LOADING 2. -/
def busyChecks (b : Busy) : List Check :=
  match b with
  | .idle => []
  | .saving _ => [(false, .busy, 1)]
  | .loading => [(false, .busy, 2)]

/-- SAVE as the Profile Store takes it. -/
def saveBody (s : State) : State × Reply :=
  checked s (busyChecks s.profile.busy) (setBusy (.saving s.settings) s, .accept .nothing)

/-- SAVE. -/
def execSave (h : Head) (s : State) : Out := .next (request .control 0x05 h 0 saveBody s)

/-- The end of a profile write, by its check. -/
def saveCompletion (passes : Bool) (s : State) : State :=
  match s.profile.busy with
  | .saving g =>
    if passes then { s with profile := { s.profile with image := .good g, busy := .idle } }.raise (.profile .saved)
    else { s with profile := { s.profile with image := .bad, busy := .idle } }.raise (.profile .saveFailed)
  | _ => s

/-- SAVE_COMPLETION; it does not occur where no write is in progress (log entry 4). -/
def execSaveCompletion (passes : Bool) (s : State) : Out := .next (saveCompletion passes s)

/-! ### LOAD and DEFAULTS (R189) -/

/-- LOAD as the Profile Store takes it. -/
def loadBody (s : State) : State × Reply :=
  checked s (busyChecks s.profile.busy) (setBusy .loading s, .accept .nothing)

/-- LOAD. -/
def execLoad (h : Head) (s : State) : Out := .next (request .control 0x06 h 0 loadBody s)

/-- The control link at the rate of the settings in force: a frame being gathered is dropped (R174). -/
def switchRate (s : State) : State :=
  if s.settings.controlRate = s.links.rate then s
  else { s with links :=
    { s.links with rate := s.settings.controlRate, control := { s.links.control with receiver := .hunting } } }

/-- The reply to RESET. -/
def beforeRestart (q : InHand) : Bool := decide (q.ends = .restart)

/-- A RESET is in hand: its reply is sent at the rate in force when it arrived, and the restart follows (R175). -/
def resetInHand (s : State) : Bool := s.links.control.inHand.any beforeRestart

/-- A reply on the control link that a change of the rate waits for: one whose frame is being sent, or that of the SET or
DEFAULTS that has caused the change. -/
def beforeChange (q : InHand) : Bool := q.begun || decide (q.ends = .rateChange)

/-- The rate of a completed LOAD takes effect at once; where a frame is being sent on the control link, at the
CONTROL_RATE_CHANGE that follows its last byte; and with a RESET in hand not before the restart. A request in hand is
kept (R174, R175, log entry 20). -/
def loadRate (s : State) : State :=
  if s.links.control.inHand.any beforeChange || resetInHand s then s else switchRate s

/-- The end of a profile read: the image tested and, where it is good, put in force. -/
def loadCompletion (s : State) : State :=
  match s.profile.busy with
  | .loading =>
    match s.profile.image with
    | .good g => setBusy .idle ((loadRate (putInForce g s)).raise (.profile .loaded))
    | .bad => setBusy .idle (s.raise (.profile .loadFailed))
  | _ => s

/-- LOAD_COMPLETION; it does not occur where no read is in progress (log entry 4). -/
def execLoadCompletion (s : State) : Out := .next (loadCompletion s)

/-- DEFAULTS as the Profile Store takes it. -/
def defaultsBody (s : State) : State × Reply := (putInForce Settings.fixed s, .accept .nothing)

/-- DEFAULTS. -/
def execDefaults (h : Head) (s : State) : Out := .next (requestUntil rateEnd .control 0x07 h 0 defaultsBody s)

/-! ### The rate of the control link (R174) -/

/-- The replies that were due behind another sent, in their order (R167). -/
def sendBehind (l : Link) (due : List (Nat × Reply)) (s : State) : State :=
  due.foldl (fun t d => t.send l d.1 (.reply d.2)) s

/-- The reply in hand on a link sent, where it is to be sent now, and those due behind it; the link then has no request in
hand (R171). -/
def sendReply (l : Link) (now : InHand → Bool) (s : State) : State :=
  match (s.link l).inHand with
  | none => s
  | some q => if now q then sendBehind l q.behind ((s.setInHand l none).answer l q.tag q.reply) else s

/-- The change of the control link's rate, once the reply before it has been sent at the old rate; any other request in
hand is kept and answered at the new one (R174). The restart after a RESET in hand takes its place (R175). -/
def controlRateChange (s : State) : State :=
  if s.settings.controlRate = s.links.rate ∨ resetInHand s = true then s
  else switchRate (sendReply .control beforeChange s)

/-- CONTROL_RATE_CHANGE; where the rate in force is the link's, or a RESET is in hand, it does not occur (log
entry 4). -/
def execControlRateChange (s : State) : Out := .next (controlRateChange s)

/-! ### The idle step (log entry 2) -/

/-- A reply on a link that the part sends when it idles: any but one on the control link that a change of rate waits
for. -/
def atIdle (s : State) (l : Link) (q : InHand) : Bool :=
  match l with
  | .control => !beforeChange q || decide (s.settings.controlRate = s.links.rate)
  | .scanner => true
  | .cutter _ => true

/-- The six links. -/
def links : List Link := [.control, .scanner, .cutter 0, .cutter 1, .cutter 2, .cutter 3]

/-- The part idles: the replies in hand are sent. With a RESET in hand none is: the restart drops them unanswered (R75,
R175, log entry 2). -/
def idle (s : State) : State :=
  if resetInHand s then s else links.foldl (fun t l => sendReply l (atIdle s l) t) s

/-! ### Reset and start (R175, R184, R190) -/

/-- The image at a start: one that was being written is bad (R188, R190, log entry 12). -/
def startImage (p : Profile) : Image :=
  match p.busy with
  | .saving _ => .bad
  | _ => p.image

/-- The settings that a start puts in force. -/
def startSettings : Image → Settings
  | .good g => g
  | .bad => Settings.fixed

/-- The event that a start raises. -/
def startEvent : Image → ProfileEvent
  | .good _ => .loaded
  | .bad => .defaulted

/-- The start of the part: everything as after reset but the profile image, with the settings it gives in force and the
event it raises pending.
A request in hand is dropped unanswered (R175); the model's queue and the frames already sent stay (log entry 21). -/
def start (s : State) : State :=
  let image := startImage s.profile
  let g := startSettings image
  { State.reset with
    profile := { settings := g, image := image, busy := .idle }
    attn := { State.reset.attn with events := [.profile (startEvent image)] }
    links := { State.reset.links with rate := g.controlRate }
    sent := s.sent
    pending := s.pending }

/-- POWER_ON. -/
def execPowerOn (s : State) : Out := .next (start s)

/-- RESET_INPUT: the effect of power-on, with no reply (R175). -/
def execResetInput (s : State) : Out := .next (start s)

/-- RESET as the Profile Store takes it: it is always accepted, and the restart follows its reply (R190). -/
def resetBody (s : State) : State × Reply := (s, .accept .nothing)

/-- RESET. -/
def execReset (h : Head) (s : State) : Out :=
  .next (requestUntil (fun _ => some .restart) .control 0x02 h 0 resetBody s)

/-- The reply to RESET is sent, and the part then starts; a reply that was due behind it is dropped (R175). -/
def restartAfterReset (s : State) : State :=
  match s.links.control.inHand.filter beforeRestart with
  | none => s
  | some q => start ((s.setInHand .control none).answer .control q.tag q.reply)

/-- RESTART_AFTER_RESET; it does not occur where no RESET is in hand (log entry 4). -/
def execRestartAfterReset (s : State) : Out := .next (restartAfterReset s)

/-! ### IDENTIFY (R191) -/

/-- The codes and capacities of R191. -/
def identity : Result := .identity 0x0151 0x0440 1 [12, 8192, 128, 262144, 256, 160, 64, 4]

/-- IDENTIFY as the Profile Store takes it. -/
def identifyBody (s : State) : State × Reply := (s, .accept identity)

/-- IDENTIFY. -/
def execIdentify (h : Head) (s : State) : Out := .next (request .control 0x01 h 0 identifyBody s)

end Sys2Proof.Machine
end

