-- ==== Sys2Proof/Machine/Dispatch.lean ====
section
/-! DEFINITION. One arm per command: the call of its meaning. -/

namespace Sys2Proof.Machine

/-- The effect of a command on everything but the queue. -/
def exec (i : Instr) (s : State) : Host.Outcome State Fault Refusal :=
  match i with
  | .powerOn => Sys2Proof.Machine.execPowerOn s
  | .resetInput => Sys2Proof.Machine.execResetInput s
  | .restartAfterReset => Sys2Proof.Machine.execRestartAfterReset s
  | .identify h => Sys2Proof.Machine.execIdentify h s
  | .reset h => Sys2Proof.Machine.execReset h s
  | .set h code value => Sys2Proof.Machine.execSet h code value s
  | .get h code => Sys2Proof.Machine.execGet h code s
  | .save h => Sys2Proof.Machine.execSave h s
  | .saveCompletion passes => Sys2Proof.Machine.execSaveCompletion passes s
  | .load h => Sys2Proof.Machine.execLoad h s
  | .loadCompletion => Sys2Proof.Machine.execLoadCompletion s
  | .defaults h => Sys2Proof.Machine.execDefaults h s
  | .controlRateChange => Sys2Proof.Machine.execControlRateChange s
  | .lineAdd h id slot style size ordered => Sys2Proof.Machine.execLineAdd h id slot style size ordered s
  | .pairAdd h id1 id2 slot1 slot2 ordered style size => Sys2Proof.Machine.execPairAdd h id1 id2 slot1 slot2 ordered style size s
  | .lineResize h id ordered => Sys2Proof.Machine.execLineResize h id ordered s
  | .lineCancel h id => Sys2Proof.Machine.execLineCancel h id s
  | .lineRemove h id => Sys2Proof.Machine.execLineRemove h id s
  | .lineRead h id => Sys2Proof.Machine.execLineRead h id s
  | .pieceDefine h slot code margin offsets band => Sys2Proof.Machine.execPieceDefine h slot code margin offsets band s
  | .variantDefine h slot orientation width height => Sys2Proof.Machine.execVariantDefine h slot orientation width height s
  | .variantRows h slot orientation row start runs => Sys2Proof.Machine.execVariantRows h slot orientation row start runs s
  | .pieceReady h slot => Sys2Proof.Machine.execPieceReady h slot s
  | .pieceErase h slot => Sys2Proof.Machine.execPieceErase h slot s
  | .pieceRead h slot row => Sys2Proof.Machine.execPieceRead h slot row s
  | .bankMode h bank mode => Sys2Proof.Machine.execBankMode h bank mode s
  | .hideOpen h tag width height backbone => Sys2Proof.Machine.execHideOpen h tag width height backbone s
  | .rows h slot y x runs => Sys2Proof.Machine.execRows h slot y x runs s
  | .thickness h slot entries => Sys2Proof.Machine.execThickness h slot entries s
  | .flaw l h slot f reads => Sys2Proof.Machine.execFlaw l h slot f reads s
  | .flawsClear h slot => Sys2Proof.Machine.execFlawsClear h slot s
  | .mapCommit h slot => Sys2Proof.Machine.execMapCommit h slot s
  | .commitCompletion slot reads => Sys2Proof.Machine.execCommitCompletion slot reads s
  | .hideRead h slot => Sys2Proof.Machine.execHideRead h slot s
  | .placementsRead h slot first => Sys2Proof.Machine.execPlacementsRead h slot first s
  | .discard l h slot => Sys2Proof.Machine.execDiscard l h slot s
  | .close h slot => Sys2Proof.Machine.execClose h slot s
  | .nest h slot steps => Sys2Proof.Machine.execNest h slot steps s
  | .nestTake => Sys2Proof.Machine.execNestTake s
  | .stopChecks => Sys2Proof.Machine.execStopChecks s
  | .fitTest reads => Sys2Proof.Machine.execFitTest reads s
  | .unitPush => Sys2Proof.Machine.execUnitPush s
  | .stepEnd => Sys2Proof.Machine.execStepEnd s
  | .passEnd reads => Sys2Proof.Machine.execPassEnd reads s
  | .passAbort => Sys2Proof.Machine.execPassAbort s
  | .place h slot line orientation x y reads => Sys2Proof.Machine.execPlace h slot line orientation x y reads s
  | .placePair h slot line a b reads => Sys2Proof.Machine.execPlacePair h slot line a b reads s
  | .strike h slot index => Sys2Proof.Machine.execStrike h slot index s
  | .release h slot urgency mask => Sys2Proof.Machine.execRelease h slot urgency mask s
  | .hold h => Sys2Proof.Machine.execHold h s
  | .run h => Sys2Proof.Machine.execRun h s
  | .cutterEnable h channel => Sys2Proof.Machine.execCutterEnable h channel s
  | .cutterDisable h channel => Sys2Proof.Machine.execCutterDisable h channel s
  | .cutterReset h channel reads => Sys2Proof.Machine.execCutterReset h channel reads s
  | .cutterRead h channel => Sys2Proof.Machine.execCutterRead h channel s
  | .storeRead h => Sys2Proof.Machine.execStoreRead h s
  | .attnSummary h => Sys2Proof.Machine.execAttnSummary h s
  | .attnRead h source => Sys2Proof.Machine.execAttnRead h source s
  | .attnClear h source list => Sys2Proof.Machine.execAttnClear h source list s
  | .attentionSend => Sys2Proof.Machine.execAttentionSend s
  | .ready c h reads => Sys2Proof.Machine.execReady c h reads s
  | .cutReport c h ticket outcome reason detail => Sys2Proof.Machine.execCutReport c h ticket outcome reason detail s
  | .cutterFault c h code reads => Sys2Proof.Machine.execCutterFault c h code reads s
  | .ticketSend c => Sys2Proof.Machine.execTicketSend c s
  | .ticketAnswer c tag answer => Sys2Proof.Machine.execTicketAnswer c tag answer s
  | .ticketTimeout c => Sys2Proof.Machine.execTicketTimeout c s
  | .deadlineExpiry c ticket => Sys2Proof.Machine.execDeadlineExpiry c ticket s
  | .ticketQuerySend c => Sys2Proof.Machine.execTicketQuerySend c s
  | .queryAnswer c tag answer reads => Sys2Proof.Machine.execQueryAnswer c tag answer reads s
  | .queryTimeout c reads => Sys2Proof.Machine.execQueryTimeout c reads s
  | .abortHideSend c => Sys2Proof.Machine.execAbortHideSend c s
  | .abortAnswer c tag answer => Sys2Proof.Machine.execAbortAnswer c tag answer s
  | .abortTimeout c => Sys2Proof.Machine.execAbortTimeout c s
  | .unexpectedReply c tag => Sys2Proof.Machine.execUnexpectedReply c tag s
  | .lenTooLong l bytes last => Sys2Proof.Machine.execLenTooLong l bytes last s
  | .frameCrcMismatch l bytes => Sys2Proof.Machine.execFrameCrcMismatch l bytes s
  | .interByteGap l => Sys2Proof.Machine.execInterByteGap l s
  | .badKindFrame l bytes last => Sys2Proof.Machine.execBadKindFrame l bytes last s
  | .frameBegin p => Sys2Proof.Machine.execFrameBegin p s
  | .notOnLinkFrame l bytes last => Sys2Proof.Machine.execNotOnLinkFrame l bytes last s
  | .replyOnControlOrScannerLink p => Sys2Proof.Machine.execReplyOnControlOrScannerLink p s

end Sys2Proof.Machine
end

