-- ==== Sys2Proof/Machine/Requests.lean ====
section
/-! DEFINITION. The requests of the catalogue (R176): of each, the link it arrives on, its KIND, its frame's head, the
length that its fields take (R170 check 3), and the payload that carries them; and the frames of the cutters' replies. -/

namespace Sys2Proof.Machine

/-- The link, KIND, head and payload length of a command that is a request; none for the other events. -/
def asRequest : Instr → Option (Link × Nat × Head × Nat)
  | .identify h => some (.control, 0x01, h, 0)
  | .reset h => some (.control, 0x02, h, 0)
  | .set h _ _ => some (.control, 0x03, h, 5)
  | .get h _ => some (.control, 0x04, h, 1)
  | .save h => some (.control, 0x05, h, 0)
  | .load h => some (.control, 0x06, h, 0)
  | .defaults h => some (.control, 0x07, h, 0)
  | .lineAdd h _ _ _ _ _ => some (.control, 0x10, h, 8)
  | .pairAdd h _ _ _ _ _ _ _ => some (.control, 0x11, h, 10)
  | .lineResize h _ _ => some (.control, 0x12, h, 3)
  | .lineCancel h _ => some (.control, 0x13, h, 1)
  | .lineRemove h _ => some (.control, 0x14, h, 1)
  | .lineRead h _ => some (.control, 0x15, h, 1)
  | .pieceDefine h _ _ _ _ _ => some (.control, 0x20, h, 10)
  | .variantDefine h _ _ _ _ => some (.control, 0x21, h, 4)
  | .variantRows h _ _ _ _ runs => some (.control, 0x22, h, 5 + 2 * runs.length)
  | .pieceReady h _ => some (.control, 0x23, h, 1)
  | .pieceErase h _ => some (.control, 0x24, h, 1)
  | .pieceRead h _ _ => some (.control, 0x25, h, 4)
  | .bankMode h _ _ => some (.control, 0x26, h, 2)
  | .hideOpen h _ _ _ _ => some (.scanner, 0x30, h, 9)
  | .rows h _ _ _ runs => some (.scanner, 0x31, h, 6 + 2 * runs.length)
  | .thickness h _ entries => some (.scanner, 0x32, h, 2 + 4 * entries.length)
  | .flaw l h _ _ _ => some (upLink l, 0x33, h, 13)
  | .flawsClear h _ => some (.scanner, 0x34, h, 1)
  | .mapCommit h _ => some (.scanner, 0x35, h, 1)
  | .hideRead h _ => some (.control, 0x36, h, 1)
  | .placementsRead h _ _ => some (.control, 0x37, h, 2)
  | .discard l h _ => some (upLink l, 0x38, h, 1)
  | .close h _ => some (.control, 0x39, h, 1)
  | .nest h _ steps => some (.control, 0x40, h, 2 + 3 * steps.length)
  | .place h _ _ _ _ _ _ => some (.control, 0x41, h, 7)
  | .placePair h _ _ _ _ _ => some (.control, 0x42, h, 12)
  | .strike h _ _ => some (.control, 0x43, h, 2)
  | .release h _ _ _ => some (.control, 0x48, h, 3)
  | .hold h => some (.control, 0x49, h, 0)
  | .run h => some (.control, 0x4A, h, 0)
  | .cutterEnable h _ => some (.control, 0x50, h, 1)
  | .cutterDisable h _ => some (.control, 0x51, h, 1)
  | .cutterReset h _ _ => some (.control, 0x52, h, 1)
  | .cutterRead h _ => some (.control, 0x53, h, 1)
  | .storeRead h => some (.control, 0x54, h, 0)
  | .attnSummary h => some (.control, 0x58, h, 0)
  | .attnRead h _ => some (.control, 0x59, h, 1)
  | .attnClear h _ list => some (.control, 0x5B, h, 2 + list.length)
  | .ready c h _ => some (.cutter c, 0x68, h, 0)
  | .cutReport c h _ _ _ _ => some (.cutter c, 0x69, h, 6)
  | .cutterFault c h _ _ => some (.cutter c, 0x6A, h, 2)
  | _ => none

/-- One set of PLACE_PAIR (R108). -/
def spotBytes (p : Spot) : List Byte := byte1 p.orientation ++ byte2 p.x ++ byte2 p.y

/-- A flaw record's fields (R76). -/
def flawBytes (f : Flaw) : List Byte :=
  byte2 f.id ++ byte1 f.kind ++ byte1 f.severity ++ byte2 f.x0 ++ byte2 f.y0 ++ byte2 f.x1 ++ byte2 f.y1

/-- One entry of THICKNESS (R67). -/
def readingBytes (r : Reading) : List Byte := byte1 r.col ++ byte1 r.row ++ byte2 r.value

/-- One step of NEST (R115). -/
def stepReqBytes (q : StepReq) : List Byte := byte1 q.line ++ byte1 q.quota ++ byte1 q.mode

/-- The payload of a request: its fields in the order in which its rule lists them (R176); nothing for another event. -/
def requestPayload : Instr → List Byte
  | .set _ code value => byte1 code ++ byte4 value
  | .get _ code => byte1 code
  | .lineAdd _ id slot style size ordered => byte1 id ++ byte1 slot ++ byte2 style ++ byte2 size ++ byte2 ordered
  | .pairAdd _ id1 id2 slot1 slot2 ordered style size =>
    byte1 id1 ++ byte1 id2 ++ byte1 slot1 ++ byte1 slot2 ++ byte2 ordered ++ byte2 style ++ byte2 size
  | .lineResize _ id ordered => byte1 id ++ byte2 ordered
  | .lineCancel _ id => byte1 id
  | .lineRemove _ id => byte1 id
  | .lineRead _ id => byte1 id
  | .pieceDefine _ slot code margin offsets band =>
    byte1 slot ++ byte2 code ++ byte1 margin ++ [offsets] ++ optBytes 4 (band.map fun b => byte2 b.1 ++ byte2 b.2)
  | .variantDefine _ slot o width height => byte1 slot ++ byte1 o ++ byte1 width ++ byte1 height
  | .variantRows _ slot o row start runs =>
    byte1 slot ++ byte1 o ++ byte1 row ++ byte1 start ++ counted runs runBytes
  | .pieceReady _ slot => byte1 slot
  | .pieceErase _ slot => byte1 slot
  | .pieceRead _ slot row => byte1 slot ++ optBytes 2 (row.map fun r => byte1 r.1 ++ byte1 r.2)
  | .bankMode _ bank mode => byte1 bank ++ byte1 mode
  | .hideOpen _ tag width height backbone => byte4 tag ++ byte2 width ++ byte2 height ++ byte1 backbone
  | .rows _ slot y x runs => byte1 slot ++ byte2 y ++ byte2 x ++ counted runs runBytes
  | .thickness _ slot entries => byte1 slot ++ counted entries readingBytes
  | .flaw _ _ slot f _ => byte1 slot ++ flawBytes f
  | .flawsClear _ slot => byte1 slot
  | .mapCommit _ slot => byte1 slot
  | .hideRead _ slot => byte1 slot
  | .placementsRead _ slot first => byte1 slot ++ byte1 first
  | .discard _ _ slot => byte1 slot
  | .close _ slot => byte1 slot
  | .nest _ slot steps => byte1 slot ++ counted steps stepReqBytes
  | .place _ slot line o x y _ => byte1 slot ++ byte1 line ++ spotBytes ⟨o, x, y⟩
  | .placePair _ slot line a b _ => byte1 slot ++ byte1 line ++ spotBytes a ++ spotBytes b
  | .strike _ slot i => byte1 slot ++ byte1 i
  | .release _ slot urgency mask => byte1 slot ++ byte1 urgency ++ [mask]
  | .cutterEnable _ channel => byte1 channel
  | .cutterDisable _ channel => byte1 channel
  | .cutterReset _ channel _ => byte1 channel
  | .cutterRead _ channel => byte1 channel
  | .attnRead _ source => byte1 source
  | .attnClear _ source list => byte1 source ++ counted list byte1
  | .cutReport _ _ ticket outcome reason detail => byte2 ticket ++ byte1 outcome ++ byte1 reason ++ byte2 detail
  | .cutterFault _ _ code _ => byte2 code
  | _ => []

/-- The frame in which a request arrives, from its START byte to its last CRC byte (R168). -/
def requestFrame (c : Instr) : Option (List Byte) :=
  (asRequest c).map fun r => frameBytes r.2.1 r.2.2.1.tag (requestPayload c)

/-! ### The cutters' replies (R152, R158, R162, R171) -/

/-- The KIND and payload of an ACCEPT without result fields, or of a REFUSE. -/
def plainReply : PlainAnswer → Nat × List Byte
  | .accept => (0x80, [])
  | .refuse reason detail => (0x81, byte1 reason ++ byte2 detail)

/-- CUT 0, SPOILED 1, SKIPPED 2, the order of R153. -/
def CutOutcome.code : CutOutcome → Nat
  | .cut => 0
  | .spoiled => 1
  | .skipped => 2

/-- The KIND and payload of a reply to a TICKET_QUERY (R158): DONE 0, with its outcome, reason and detail, IN_PROGRESS 1 or
UNKNOWN 2 (log entry 33). -/
def queryReply : QueryReply → Nat × List Byte
  | .finished o reason detail => (0x80, byte1 0 ++ byte1 (CutOutcome.code o) ++ byte1 reason ++ byte2 detail)
  | .inProgress => (0x80, byte1 1)
  | .unknown => (0x80, byte1 2)
  | .refuse reason detail => (0x81, byte1 reason ++ byte2 detail)

/-- The frame in which a cutter's reply to a request of the part arrives; nothing for another command. -/
def replyFrame : Instr → Option (List Byte)
  | .ticketAnswer _ tag a => some (frameBytes (plainReply a).1 tag (plainReply a).2)
  | .queryAnswer _ tag a _ => some (frameBytes (queryReply a).1 tag (queryReply a).2)
  | .abortAnswer _ tag a => some (frameBytes (plainReply a).1 tag (plainReply a).2)
  | _ => none

end Sys2Proof.Machine
end

