-- ==== Sys2Proof/WellFormed.lean ====
section
/-! DEFINITION. When a command can occur: each request field fits the width that R176 gives it, and an event names a
link, channel or slot that exists. -/

namespace Sys2Proof

/-- A value carried in one byte. -/
abbrev fits1 (n : Nat) : Bool := decide (n < 256)

/-- A value carried in two bytes. -/
abbrev fits2 (n : Nat) : Bool := decide (n < 65536)

/-- A value carried in four bytes. -/
abbrev fits4 (n : Nat) : Bool := decide (n < 4294967296)

/-- The TAG is a byte, and a frame that reaches the check of its length has a LEN of at most 1024 (R168, R169). -/
def Head.wellFormed (h : Head) : Bool :=
  fits1 h.tag && match h.len with
    | none => true
    | some n => decide (n ≤ Config.payloadBytes)

/-- Both bytes of a run (R32, R64). -/
def Run.wellFormed (r : Run) : Bool := fits1 r.code && fits1 r.length

/-- Tile column and row in a byte, the reading in 16 bits (R67). -/
def Reading.wellFormed (r : Reading) : Bool := fits1 r.col && fits1 r.row && fits2 r.value

/-- The widths of a flaw record (R76). -/
def Flaw.wellFormed (f : Flaw) : Bool :=
  fits2 f.id && fits1 f.kind && fits1 f.severity && fits2 f.x0 && fits2 f.y0 && fits2 f.x1 && fits2 f.y1

/-- The widths of a plan step (R115). -/
def StepReq.wellFormed (q : StepReq) : Bool := fits1 q.line && fits1 q.quota && fits1 q.mode

/-- The widths of one set of PLACE_PAIR (R108). -/
def Spot.wellFormed (p : Spot) : Bool := fits1 p.orientation && fits2 p.x && fits2 p.y

/-- The range of a ticket number and of a placement index (R151). -/
def TicketRef.wellFormed (t : TicketRef) : Bool :=
  decide (1 ≤ t.number) && fits2 t.number && decide (t.index < Config.placements)

/-- A cutter's reason byte and 16-bit detail (R172). -/
def PlainAnswer.wellFormed : PlainAnswer → Bool
  | .accept => true
  | .refuse reason detail => fits1 reason && fits2 detail

/-- The widths of a query's answer (R158). -/
def QueryReply.wellFormed : QueryReply → Bool
  | .finished _ reason detail => fits1 reason && fits2 detail
  | .inProgress => true
  | .unknown => true
  | .refuse reason detail => fits1 reason && fits2 detail

/-- The bytes up to the end of a frame: its last byte at least, and no more than a whole frame (R168). -/
def endsFrame (bytes : List Byte) : Bool := decide (1 ≤ bytes.length) && decide (bytes.length ≤ Config.payloadBytes + 7)

/-- The command can occur. -/
def Instr.wellFormed : Instr → Bool
  | .powerOn => true
  | .resetInput => true
  | .restartAfterReset => true
  | .identify h => h.wellFormed
  | .reset h => h.wellFormed
  | .set h code value => h.wellFormed && fits1 code && fits4 value
  | .get h code => h.wellFormed && fits1 code
  | .save h => h.wellFormed
  | .saveCompletion _ => true
  | .load h => h.wellFormed
  | .loadCompletion => true
  | .defaults h => h.wellFormed
  | .controlRateChange => true
  | .lineAdd h id slot style size ordered =>
    h.wellFormed && fits1 id && fits1 slot && fits2 style && fits2 size && fits2 ordered
  | .pairAdd h id1 id2 slot1 slot2 ordered style size =>
    h.wellFormed && fits1 id1 && fits1 id2 && fits1 slot1 && fits1 slot2 && fits2 ordered && fits2 style && fits2 size
  | .lineResize h id ordered => h.wellFormed && fits1 id && fits2 ordered
  | .lineCancel h id => h.wellFormed && fits1 id
  | .lineRemove h id => h.wellFormed && fits1 id
  | .lineRead h id => h.wellFormed && fits1 id
  | .pieceDefine h slot code margin _ band =>
    h.wellFormed && fits1 slot && fits2 code && fits1 margin && match band with
      | none => true
      | some (lo, hi) => fits2 lo && fits2 hi
  | .variantDefine h slot orientation width height =>
    h.wellFormed && fits1 slot && fits1 orientation && fits1 width && fits1 height
  | .variantRows h slot orientation row start runs =>
    h.wellFormed && fits1 slot && fits1 orientation && fits1 row && fits1 start && fits1 runs.length &&
      runs.all Run.wellFormed
  | .pieceReady h slot => h.wellFormed && fits1 slot
  | .pieceErase h slot => h.wellFormed && fits1 slot
  | .pieceRead h slot row => h.wellFormed && fits1 slot && match row with
      | none => true
      | some (o, j) => fits1 o && fits1 j
  | .bankMode h bank mode => h.wellFormed && fits1 bank && fits1 mode
  | .hideOpen h tag width height backbone =>
    h.wellFormed && fits4 tag && fits2 width && fits2 height && fits1 backbone
  | .rows h slot y x runs =>
    h.wellFormed && fits1 slot && fits2 y && fits2 x && fits1 runs.length && runs.all Run.wellFormed
  | .thickness h slot entries =>
    h.wellFormed && fits1 slot && fits1 entries.length && entries.all Reading.wellFormed
  | .flaw _ h slot f _ => h.wellFormed && fits1 slot && f.wellFormed
  | .flawsClear h slot => h.wellFormed && fits1 slot
  | .mapCommit h slot => h.wellFormed && fits1 slot
  | .commitCompletion slot _ => decide (slot < Config.hideSlots)
  | .hideRead h slot => h.wellFormed && fits1 slot
  | .placementsRead h slot first => h.wellFormed && fits1 slot && fits1 first
  | .discard _ h slot => h.wellFormed && fits1 slot
  | .close h slot => h.wellFormed && fits1 slot
  | .nest h slot steps => h.wellFormed && fits1 slot && fits1 steps.length && steps.all StepReq.wellFormed
  | .nestTake => true
  | .stopChecks => true
  | .fitTest _ => true
  | .unitPush => true
  | .stepEnd => true
  | .passEnd _ => true
  | .passAbort => true
  | .place h slot line orientation x y _ =>
    h.wellFormed && fits1 slot && fits1 line && fits1 orientation && fits2 x && fits2 y
  | .placePair h slot line a b _ => h.wellFormed && fits1 slot && fits1 line && a.wellFormed && b.wellFormed
  | .strike h slot index => h.wellFormed && fits1 slot && fits1 index
  | .release h slot urgency _ => h.wellFormed && fits1 slot && fits1 urgency
  | .hold h => h.wellFormed
  | .run h => h.wellFormed
  | .cutterEnable h channel => h.wellFormed && fits1 channel
  | .cutterDisable h channel => h.wellFormed && fits1 channel
  | .cutterReset h channel _ => h.wellFormed && fits1 channel
  | .cutterRead h channel => h.wellFormed && fits1 channel
  | .storeRead h => h.wellFormed
  | .attnSummary h => h.wellFormed
  | .attnRead h source => h.wellFormed && fits1 source
  | .attnClear h source list => h.wellFormed && fits1 source && fits1 list.length && list.all fits1
  | .attentionSend => true
  | .ready _ h _ => h.wellFormed
  | .cutReport _ h ticket outcome reason detail =>
    h.wellFormed && fits2 ticket && fits1 outcome && fits1 reason && fits2 detail
  | .cutterFault _ h code _ => h.wellFormed && fits2 code
  | .ticketSend _ => true
  | .ticketAnswer _ tag answer => fits1 tag && answer.wellFormed
  | .ticketTimeout _ => true
  | .deadlineExpiry _ ticket => ticket.wellFormed
  | .ticketQuerySend _ => true
  | .queryAnswer _ tag answer _ => fits1 tag && answer.wellFormed
  | .queryTimeout _ _ => true
  | .abortHideSend _ => true
  | .abortAnswer _ tag answer => fits1 tag && answer.wellFormed
  | .abortTimeout _ => true
  | .unexpectedReply _ tag => fits1 tag
  | .lenTooLong _ bytes last => endsFrame (bytes ++ [last])
  | .frameCrcMismatch _ bytes => endsFrame bytes
  | .interByteGap _ => true
  | .badKindFrame _ bytes last => endsFrame (bytes ++ [last])
  | .frameBegin p => decide (p.2.length ≤ Config.payloadBytes + 5)
  | .notOnLinkFrame _ bytes last => endsFrame (bytes ++ [last])
  | .replyOnControlOrScannerLink p => endsFrame p.2

end Sys2Proof
end

