-- ==== Sys2Proof/Safety.lean ====
section
/-! DEFINITION. What the statements about the part are said in: a request that is taken, its reply, and the conditions
that hold at reset and that every step keeps. -/

namespace Sys2Proof.Machine

/-! ### A request and its reply -/

/-- A request is taken on its link: its LEN is the length its fields take, and no request is in hand there (R170). -/
def State.takes (s : State) (l : Link) (h : Head) (len : Nat) : Prop :=
  (h.len = none ∨ h.len = some len) ∧ (s.link l).inHand = none

/-- The reply to a request: sent, or, for a `slow` one, in hand to be sent at the next idle step, its frame begun or not
(R171, log entry 2). -/
def State.replied (s : State) (l : Link) (kind : Nat) (h : Head) (r : Reply) : State :=
  if h.slow then s.hold l kind h.tag h.sending .idle r else s.answer l h.tag r

/-- An ACCEPT with its result fields. -/
def State.accepts (s : State) (l : Link) (kind : Nat) (h : Head) (r : Result) : State :=
  s.replied l kind h (.accept r)

/-- A reply in hand whose sending waits for a later event (R174, R175). -/
def State.repliedUntil (s : State) (l : Link) (kind : Nat) (h : Head) (e : ReplyEnd) (r : Reply) : State :=
  s.hold l kind h.tag (!h.slow || h.sending) e r

/-- A request whose refusal may come with an effect of its own: STALE_REPORT (R153), and the poisoning that a fit test
finds (R71). -/
def mayActRefused : Instr → Bool
  | .cutReport .. => true
  | .place .. => true
  | .placePair .. => true
  | _ => false

/-- The part as a start leaves it, with an image, the settings that it gives and the event that the start raises (R175,
R184, R190). -/
def State.started (s : State) (image : Image) (g : Settings) (e : ProfileEvent) : State :=
  { State.reset with
    profile := { settings := g, image := image, busy := .idle }
    attn := { events := [.profile e], waiting := true, first := true, nextTag := 0 }
    links :=
      { control := LinkState.fresh, scanner := LinkState.fresh, cutters := Vector.replicate 4 LinkState.fresh,
        rate := g.controlRate }
    sent := s.sent
    pending := s.pending }

/-- A line after LINE_RESIZE to an ordered value that it can take (R14). -/
def Line.resized (l : Line) (n : Nat) : Line :=
  if l.reserved = 0 ∧ n = l.cut then { l with ordered := n, openUnits := 0, state := .complete, notice := true }
  else { l with ordered := n, openUnits := n - l.reserved - l.cut }

/-- A line after LINE_CANCEL (R15): one that is not ACTIVE stays as it is. -/
def Line.cancelled (l : Line) : Line :=
  if l.state ≠ .active then l
  else if l.reserved = 0 then { l with state := .closed, ordered := l.cut, openUnits := 0, notice := true }
  else { l with state := .cancelling, ordered := l.reserved + l.cut, openUnits := 0 }

/-- A line's record written, with a raise on BOOK where its notice is new (R18). -/
def State.noticed (s : State) (id : Nat) (old new : Line) : State :=
  if old.notice = false ∧ new.notice = true then s.raiseNotice id new else s.putLine id new

/-! ### The order book (R2, R3, R4) -/

/-- The conditions of R3 on the counts of a line, with the first sentence of R4. -/
def Line.sound (l : Line) : Bool :=
  decide (l.ordered = l.openUnits + l.reserved + l.cut) && decide (l.ordered ≤ 4095) &&
    match l.state with
    | .active => decide (1 ≤ l.ordered) && decide (1 ≤ l.openUnits + l.reserved)
    | .cancelling => decide (l.openUnits = 0) && decide (1 ≤ l.reserved)
    | .complete => decide (l.openUnits = 0) && decide (l.reserved = 0) && decide (1 ≤ l.cut)
    | .closed => decide (l.openUnits = 0) && decide (l.reserved = 0)

/-- A notice is set only on a finished line (R18). -/
def Line.noticeSound (l : Line) : Bool := !l.notice || l.finished

/-- The other role of a pair. -/
def PairRole.other : PairRole → PairRole
  | .first => .second
  | .second => .first

/-- A paired line and its mirror are two lines that name each other, one FIRST and one SECOND (R2). -/
def State.pairSound (s : State) (id : Nat) (l : Line) : Bool :=
  l.pair.all fun p =>
    decide (p.mirror ≠ id) && (s.line p.mirror).any fun m => decide (m.pair = some ⟨id, p.role.other⟩)

/-- Every line in use is sound, and the pairs are symmetric. -/
def State.linesSound (s : State) : Bool :=
  Tab.sorted s.book && s.book.all fun e => e.2.sound && e.2.noticeSound && s.pairSound e.1 e.2

/-- Every line in use names a slot whose piece is READY (R12). -/
def State.slotsReady (s : State) : Bool := s.book.all fun e => s.slotReady e.2.slot

/-- The order book is sound. -/
def State.bookSound (s : State) : Bool := s.linesSound && s.slotsReady

/-! ### The settings (R185) -/

/-- A number lies in a range. -/
def between (lo hi n : Nat) : Bool := decide (lo ≤ n) && decide (n ≤ hi)

/-- Every setting lies in its own range, and the two orders hold. -/
def Settings.sound (g : Settings) : Bool :=
  between 0 255 g.sevT1 && between 0 255 g.sevT2 && between 0 255 g.sevT3 &&
    between 0 7 g.haloScar && between 0 7 g.haloBrand && between 0 7 g.haloTick &&
    between 0 7 g.haloHole && between 0 7 g.haloFold && between 0 7 g.haloChalk &&
    between 0 8191 g.frameLow && between 1 8192 g.frameResume && between 1 8 g.rushRatio &&
    between 1 8 g.window0 && between 1 8 g.window1 && between 1 8 g.window2 && between 1 8 g.window3 &&
    between 5 600 g.cutDeadline && between 1 15 g.queryLimit &&
    [57600, 115200, 230400, 460800, 921600].contains g.controlRate && g.ordered

/-- The settings in force, the image's where it is good, and those being written. -/
def State.settingsSound (s : State) : Bool :=
  s.settings.sound &&
    (match s.profile.image with
     | .good g => g.sound
     | .bad => true) &&
    (match s.profile.busy with
     | .saving g => g.sound
     | _ => true)

/-! ### Memories and tables -/

/-- A piece's variants stand by rising orientation, and every raster is in canonical form. -/
def Piece.canonical (p : Piece) : Bool := Tab.sorted p.variants && p.variants.all fun e => Mem.wf noZone e.2.raster

/-- A hide's tile table and thickness entries stand by rising tile. -/
def Hide.canonical (h : Hide) : Bool := Tab.sorted h.frames && Tab.sorted h.thick

/-- The frames of the pool: each is named by one tile of one hide, or retired, or free (R60). -/
def State.framesSound (s : State) : Bool :=
  decide (s.ownedFrames ++ s.grid.retired).Nodup && decide (s.grid.retired.Pairwise (· < ·)) &&
    (s.ownedFrames ++ s.grid.retired).all fun f => decide (f < Config.tileFrames)

/-- Every byte memory is in its canonical form, and every table by rising key. -/
def State.tablesCanonical (s : State) : Bool :=
  Mem.wf outsideCode s.grid.contents && Mem.wf noCover s.grid.covers &&
    Tab.sorted s.library.pieces && (s.library.pieces.all fun e => e.2.canonical) &&
    Tab.sorted s.hides.slots && s.hides.slots.all fun e => e.2.canonical

/-- Memories and tables are canonical, and no frame is named twice. -/
def State.canonical (s : State) : Bool := s.tablesCanonical && s.framesSound

/-! ### The arbiter (R137, R139) -/

/-- In RUN no waiting hide is grantable, and the ratio counter has not passed 8. -/
def State.arbiterSound (s : State) : Bool :=
  decide (s.arbiter.ratio ≤ 8) &&
    (decide (s.arbiter.state = .hold) || s.arbiter.waiting.all fun slot => !s.grantable slot)

/-! ### The records that name one another (R4, R46, R133, R145, R153) -/

/-- The waiting list holds exactly the DISPATCH_WAIT hides, in ascending release number (R133). -/
def State.waitingJoined (s : State) : Prop :=
  (∀ slot, slot ∈ s.arbiter.waiting ↔ ∃ h, s.hide slot = some h ∧ h.state = .dispatchWait) ∧
    s.arbiter.waiting.Pairwise fun a b => s.numberOf a < s.numberOf b

/-- No release number is above the counter, no two hides share one, and a hide that waits or is being cut has one
(R46, R47). -/
def State.releasesJoined (s : State) : Prop :=
  (∀ slot h r, s.hide slot = some h → h.release = some r → r.number ≤ s.hides.released) ∧
    (∀ a b h g q r, s.hide a = some h → s.hide b = some g → h.release = some q → g.release = some r →
      q.number = r.number → a = b) ∧
    ∀ slot h, s.hide slot = some h → h.state = .dispatchWait ∨ h.state = .cutting → h.release ≠ none

/-- A channel holds a hide exactly when it is at work or ABORTING, and it and that hide name each other (R145). -/
def State.channelsJoined (s : State) : Prop :=
  (∀ c, (s.chan c).state.busy = true ↔ (s.chan c).hide ≠ none) ∧
    (∀ c slot, (s.chan c).hide = some slot ↔ ∃ h, s.hide slot = some h ∧ h.channel = some c) ∧
    ∀ slot h, s.hide slot = some h → (h.channel ≠ none ↔ h.state = .cutting ∨ h.route = some .channel) ∧
      (h.route ≠ none ↔ h.state = .discarding) ∧
      ∀ c, h.channel = some c → (h.state = .discarding ↔ (s.chan c).state = .aborting)

/-- The engine's queue holds exactly the NEST_WAIT hides, each once, and its pass is that of the hide that is NESTING, or
DISCARDING by the engine's route; at pass end the stack is empty (R113, R114, R123). -/
def State.engineJoined (s : State) : Prop :=
  (s.engine.queue.map QueueEntry.slot).Nodup ∧
    (∀ slot, slot ∈ s.engine.queue.map QueueEntry.slot ↔ ∃ h, s.hide slot = some h ∧ h.state = .nestWait) ∧
    (∀ slot, s.engine.pass.map Pass.slot = some slot ↔ ∃ h, s.hide slot = some h ∧ h.inPass = true) ∧
    ∀ p, s.engine.pass = some p → p.phase = .passEnd → p.stack = []

/-- A hide's TICKETED placements are out on its channel, and a DONE hide has no PLACED one (R49, R145). -/
def Hide.placementsJoined (h : Hide) : Prop :=
  (∀ p ∈ h.placements, p.state = .ticketed → ∃ n c, p.ticket = some (n, c) ∧ h.channel = some c) ∧
    (h.state = .done → h.anyPlaced = false)

/-- Hides, waiting list, channels, nest queue and pass name one another as they should. -/
def State.joined (s : State) : Prop :=
  s.waitingJoined ∧ s.releasesJoined ∧ s.channelsJoined ∧ s.engineJoined ∧
    ∀ slot h, s.hide slot = some h → h.placementsJoined

/-- A placement draws on its line while it is PLACED or TICKETED (R4). -/
def Placement.draws (id : Nat) (p : Placement) : Bool :=
  decide (p.line = id) && (decide (p.state = .placed) || decide (p.state = .ticketed))

/-- The units that draw on a line: the placements of all hides, and the entries of the engine's stack (R4). -/
def State.draws (s : State) (id : Nat) : Nat :=
  (s.hides.slots.map fun e => e.2.placements.countP (Placement.draws id)).sum +
    ((s.engine.pass.map Pass.stack).getD []).countP fun e => decide (e.line = id)

/-- Every line's reserved count is the number of units that draw on it; an id that is free has none (R4). -/
def State.drawn (s : State) : Prop := ∀ id, ((s.line id).map Line.reserved).getD 0 = s.draws id

end Sys2Proof.Machine
end

