-- ==== Sys2Proof/Certificates/Slice0/Obligations.lean ====
section
/-! DEFINITION. The statements for the provers.
A request's statement gives the whole next state: what it does not name stays as it was.
The reply that stands in it is sent in the same step, or, for a slow request, stays in hand (log entry 2). -/

open Sys2Proof Sys2Proof.Machine

/-! ### The queue, the links and the replies -/

/-- A step takes the command at the front of the queue (log entry 1). -/
def Obligations.StepTakesTheFrontCommand : Prop :=
  ∀ (c : Instr) (rest : List Instr) (s : State), s.pending = c :: rest → step s = exec c { s with pending := rest }

/-- On an empty queue a step sends the replies in hand that wait for no later event, each on its link and with its tag, and
behind each the replies that were due behind it, in their order; it changes nothing else. A reply on the control link that a
change of rate waits for is kept until the two rates are equal, and with a RESET in hand nothing is sent. Where a reply
would be the first frame of the control link, the ATTENTION frame goes before it (log entries 1, 2, 20 and 28). -/
def Obligations.AnEmptyQueueSendsTheReplies : Prop :=
  ∀ s : State, s.pending = [] →
    let due (l : Link) (q : InHand) : Prop := (∀ p, s.links.control.inHand = some p → p.ends ≠ .restart) ∧
      (l = .control → q.begun = true ∨ q.ends = .rateChange → s.settings.controlRate = s.links.rate)
    let leads : Prop := s.attn.first = true ∧ ∃ q, s.links.control.inHand = some q ∧ due .control q
    let lead : Sent := ⟨.control, s.attn.nextTag, .attention s.summary⟩
    let on (t : State) (l : Link) : List Sent := t.sent.filter fun f => decide (f.link = l)
    ∃ t, step s = .next t ∧ (∃ frames, t.sent = frames ++ s.sent) ∧
      t = { s with links := t.links, attn := t.attn, sent := t.sent } ∧ t.links.rate = s.links.rate ∧
      (leads → t.attn = { s.attn with waiting := false, first := false, nextTag := (s.attn.nextTag + 1) % 256 }) ∧
      (¬ leads → t.attn = s.attn) ∧
      ∀ l, (t.link l).receiver = (s.link l).receiver ∧
        ((s.link l).inHand = none → (t.link l).inHand = none ∧ on t l = on s l) ∧
        ∀ q, (s.link l).inHand = some q →
          let sent : List Sent :=
            (q.behind.map fun d => ⟨l, d.1, .reply d.2⟩).reverse ++ [⟨l, q.tag, .reply q.reply⟩]
          (¬ due l q → (t.link l).inHand = some q ∧ on t l = on s l) ∧
          (due l q → (t.link l).inHand = none ∧
            (l = .control → leads → on t l = sent ++ lead :: on s l) ∧
            (l ≠ .control ∨ ¬ leads → on t l = sent ++ on s l))

/-- Every command has a next state; it leaves the queue as it was, leaves no read outcome behind, and takes back no
frame that was sent. -/
def Obligations.EveryCommandHasANextState : Prop :=
  ∀ (c : Instr) (s : State), s.tape = [] →
    ∃ t, exec c s = .next t ∧ t.pending = s.pending ∧ t.tape = [] ∧ ∃ frames, t.sent = frames ++ s.sent

/-- Every request frame gets one reply, on its link and with its TAG: it is sent, or stays in hand to be sent later, or,
while another reply's frame is being sent there, is due behind it (log entry 2). The reply that would be the first frame of
the control link has the ATTENTION frame before it (log entry 28). -/
def Obligations.EveryRequestGetsOneReply : Prop :=
  ∀ (c : Instr) (l : Link) (kind : Nat) (h : Head) (len : Nat) (s : State),
    asRequest c = some (l, kind, h, len) →
      let begun : Bool := !h.slow || h.sending
      let leads : Prop := l = .control ∧ s.attn.first = true
      ∃ t r, exec c s = .next t ∧
        (∀ q, (s.link l).inHand = some q → q.begun = true → t.sent = s.sent ∧
          (t.link l).inHand = some { q with behind := q.behind ++ [(h.tag, r)] }) ∧
        ((∀ q, (s.link l).inHand = some q → q.begun = false) → ∃ summary,
          let led : List Sent := ⟨.control, s.attn.nextTag, .attention summary⟩ :: s.sent
          ((t.link l).inHand = (s.link l).inHand ∧ (¬ leads → t.sent = ⟨l, h.tag, .reply r⟩ :: s.sent) ∧
              (leads → t.sent = ⟨l, h.tag, .reply r⟩ :: led)) ∨
            ((s.link l).inHand = none ∧ (∃ e, (t.link l).inHand = some ⟨kind, h.tag, r, e, begun, []⟩) ∧
              (¬ leads ∨ begun = false → t.sent = s.sent) ∧ (leads → begun = true → t.sent = led)))

/-- A refused request changes the state of its link and, as its reply is sent, the frames of the Attention Unit, and no
other part of the state, CUT_REPORT, PLACE and PLACE_PAIR apart; the refusal is sent, stays in hand, or is due behind a
reply whose frame is being sent (log entry 2). -/
def Obligations.ARefusalChangesNoBlock : Prop :=
  ∀ (c : Instr) (l : Link) (kind : Nat) (h : Head) (len : Nat) (s t : State) (reason : Reason) (detail : Nat),
    asRequest c = some (l, kind, h, len) → mayActRefused c = false → exec c s = .next t →
      (∀ before, t.sent = ⟨l, h.tag, .reply (.refuse reason detail)⟩ :: before → t.sent ≠ s.sent →
        ∃ v, t = (s.putLink l v).answer l h.tag (.refuse reason detail)) ∧
      (∀ q, (s.link l).inHand = none → (t.link l).inHand = some q → q.reply = .refuse reason detail →
        ∃ v, t = (if q.begun then s.lead l else s).putLink l v) ∧
      ∀ q, (s.link l).inHand = some q → q.begun = true → ∃ v, t = s.putLink l v

/-- A frame that the Link Unit refuses changes no other block: LEN too long, a CRC mismatch, an unknown kind, a known kind
that the partner does not send, a LEN that is not the length of the request's fields, and a request behind a request in
hand on its link, whose reply goes after the refusal unless its frame has begun (log entry 2). Bytes that do not end a
frame so are no such event, and change nothing (log entry 4). -/
def Obligations.FramesAreRefusedByTheLinkUnit : Prop :=
  (∀ (l : Link) (before : List Byte) (last : Byte) (s : State),
    let refused (tag : Nat) (reason : Reason) (detail : Nat) : Host.Outcome State Fault Refusal :=
      .next ((s.hunt l).answer l tag (.refuse reason detail))
    let bytes := before ++ [last]
    (∀ tag n, s.frameEnd l bytes = some (.tooLong tag n) →
      exec (.lenTooLong l before last) s = refused tag .badLength n) ∧
    (∀ tag, s.frameEnd l bytes = some (.badCrc tag) → exec (.frameCrcMismatch l bytes) s = refused tag .badCrc 0) ∧
    (∀ kind tag payload, s.frameEnd l bytes = some (.good kind tag payload) →
      (kind ∉ knownKinds → exec (.badKindFrame l before last) s = refused tag .badKind kind) ∧
      (kind ∈ knownKinds → kind ∉ replyKinds → kind ∉ partnerKinds l →
        exec (.notOnLinkFrame l before last) s = refused tag .notOnLink kind)) ∧
    ((∀ tag n, s.frameEnd l bytes ≠ some (.tooLong tag n)) → exec (.lenTooLong l before last) s = .next s) ∧
    ((∀ tag, s.frameEnd l bytes ≠ some (.badCrc tag)) → exec (.frameCrcMismatch l bytes) s = .next s) ∧
    ((∀ kind tag payload, s.frameEnd l bytes = some (.good kind tag payload) → kind ∈ knownKinds) →
      exec (.badKindFrame l before last) s = .next s) ∧
    ((∀ kind tag payload, s.frameEnd l bytes = some (.good kind tag payload) →
        kind ∉ knownKinds ∨ kind ∈ replyKinds ∨ kind ∈ partnerKinds l) →
      exec (.notOnLinkFrame l before last) s = .next s)) ∧
  (∀ (c : Instr) (l : Link) (kind : Nat) (h : Head) (len n : Nat) (s : State),
    asRequest c = some (l, kind, h, len) → h.len = some n → n ≠ len →
      exec c s = .next ((s.hunt l).answer l h.tag (.refuse .badLength n))) ∧
  (∀ (c : Instr) (l : Link) (kind : Nat) (h : Head) (len : Nat) (q : InHand) (s : State),
    asRequest c = some (l, kind, h, len) → (h.len = none ∨ h.len = some len) → (s.link l).inHand = some q →
      exec c s = .next ((s.hunt l).answer l h.tag (.refuse .busy q.kind)))

/-- A HUNTING receiver drops bytes up to a 0x5A, which begins a frame; it then gathers KIND, TAG, LEN, payload and CRC. A
LEN above 1024 ends the frame as it arrives, and the last CRC byte ends any other: the CRC, of the check value given for
it, is computed over KIND to payload. The bytes may come in several pieces, and FRAME_BEGIN stores those that end no
frame (log entries 18 and 19). A frame made by the part's own rules, that of a request among them, is a good frame.
A gap, a reply on the control or the scanner link, and an unexpected reply on a cutter link leave the receiver HUNTING
and change nothing else. -/
def Obligations.FramesAreGatheredAndDropped : Prop :=
  (∀ (dropped bytes : List Byte), (∀ b ∈ dropped, b ≠ 0x5A) →
    arrive .hunting dropped = some (.going .hunting) ∧ arrive .hunting (0x5A :: bytes) = arrive (.inFrame []) bytes) ∧
  (∀ (r q : Receiver) (bytes more : List Byte), arrive r bytes = some (.going q) →
    arrive r (bytes ++ more) = arrive q more) ∧
  (∀ (kind tag a b : Byte) (rest : List Byte),
    let n := a.toNat * 256 + b.toNat
    let check := (crc (kind :: tag :: a :: b :: rest.take n)).toNat
    arrive (.inFrame []) [kind, tag, a] = some (.going (.inFrame [kind, tag, a])) ∧
    (1024 < n → arrive (.inFrame []) [kind, tag, a, b] = some (.ended (.tooLong tag.toNat n))) ∧
    (n ≤ 1024 → rest.length < n + 2 →
      arrive (.inFrame []) (kind :: tag :: a :: b :: rest) = some (.going (.inFrame (kind :: tag :: a :: b :: rest)))) ∧
    (n ≤ 1024 → rest.length = n + 2 → arrive (.inFrame []) (kind :: tag :: a :: b :: rest) = some (.ended
      (if rest.drop n = [BitVec.ofNat 8 (check / 256), BitVec.ofNat 8 check] then
        .good kind.toNat tag.toNat (rest.take n)
      else .badCrc tag.toNat)))) ∧
  crc [0x31, 0x32, 0x33, 0x34, 0x35, 0x36, 0x37, 0x38, 0x39] = 0x29B1 ∧
  (∀ (l : Link) (bytes : List Byte) (s : State),
    (∀ e, arrive (s.link l).receiver bytes = some (.ended e) → s.frameEnd l bytes = some e) ∧
    (∀ r, arrive (s.link l).receiver (0x5A :: bytes) = some (.going r) →
      exec (.frameBegin (l, bytes)) s = .next (s.putLink l { s.link l with receiver := r })) ∧
    ((∀ r, arrive (s.link l).receiver (0x5A :: bytes) ≠ some (.going r)) → exec (.frameBegin (l, bytes)) s = .next s)) ∧
  (∀ (l : Link) (kind tag : Nat) (payload : List Byte) (s : State), (s.link l).receiver = .hunting →
    kind < 256 → tag < 256 → payload.length ≤ 1024 →
      s.frameEnd l (frameBytes kind tag payload) = some (.good kind tag payload)) ∧
  (∀ (c : Instr) (l : Link) (kind : Nat) (h : Head) (len : Nat) (bytes : List Byte) (s : State),
    c.wellFormed = true → asRequest c = some (l, kind, h, len) → requestFrame c = some bytes →
      (s.link l).receiver = .hunting →
        ∃ payload, payload.length = len ∧ s.frameEnd l bytes = some (.good kind h.tag payload)) ∧
  (∀ (l : Link) (u : UpLink) (c : Fin 4) (tag : Nat) (bytes : List Byte) (s : State),
    exec (.interByteGap l) s = .next (s.hunt l) ∧
    (∀ kind t payload, s.frameEnd (upLink u) bytes = some (.good kind t payload) → kind ∈ replyKinds →
      exec (.replyOnControlOrScannerLink (u, bytes)) s = .next (s.hunt (upLink u))) ∧
    ((∀ kind t payload, s.frameEnd (upLink u) bytes = some (.good kind t payload) → kind ∉ replyKinds) →
      exec (.replyOnControlOrScannerLink (u, bytes)) s = .next s) ∧
    exec (.unexpectedReply c tag) s = .next (s.hunt (.cutter c)))

/-! ### Start, settings and the profile store -/

/-- The values of the fixed defaults, by setting code; each setting takes the values of its own range and no others, and no
other code is a setting. -/
def Obligations.SettingRangesAndDefaultsAreAsTheTableGives : Prop :=
  ((List.range 23).map (fun k => Settings.fixed.value (k + 1)) =
    [40, 110, 200, 2, 3, 1, 4, 2, 1, 1024, 2048, 0, 0, 3, 0, 2, 2, 2, 2, 90, 3, 1, 230400]) ∧
  (∀ (g : Settings) (v : Nat),
    g.with v 1 = (if v ≤ 255 then some { g with sevT1 := v } else none) ∧
    g.with v 2 = (if v ≤ 255 then some { g with sevT2 := v } else none) ∧
    g.with v 3 = (if v ≤ 255 then some { g with sevT3 := v } else none) ∧
    g.with v 4 = (if v ≤ 7 then some { g with haloScar := v } else none) ∧
    g.with v 5 = (if v ≤ 7 then some { g with haloBrand := v } else none) ∧
    g.with v 6 = (if v ≤ 7 then some { g with haloTick := v } else none) ∧
    g.with v 7 = (if v ≤ 7 then some { g with haloHole := v } else none) ∧
    g.with v 8 = (if v ≤ 7 then some { g with haloFold := v } else none) ∧
    g.with v 9 = (if v ≤ 7 then some { g with haloChalk := v } else none) ∧
    g.with v 10 = (if v ≤ 8191 then some { g with frameLow := v } else none) ∧
    g.with v 11 = (if 1 ≤ v ∧ v ≤ 8192 then some { g with frameResume := v } else none) ∧
    g.with v 12 = (if v ≤ 1 then some { g with thickRequired := v == 1 } else none) ∧
    g.with v 13 = (if v = 0 then some { g with attnMode := .edge } else
      if v = 1 then some { g with attnMode := .each } else none) ∧
    g.with v 14 = (if 1 ≤ v ∧ v ≤ 8 then some { g with rushRatio := v } else none) ∧
    g.with v 15 = (if v = 0 then some { g with pick := .lowest } else
      if v = 1 then some { g with pick := .rotate } else none) ∧
    g.with v 16 = (if 1 ≤ v ∧ v ≤ 8 then some { g with window0 := v } else none) ∧
    g.with v 17 = (if 1 ≤ v ∧ v ≤ 8 then some { g with window1 := v } else none) ∧
    g.with v 18 = (if 1 ≤ v ∧ v ≤ 8 then some { g with window2 := v } else none) ∧
    g.with v 19 = (if 1 ≤ v ∧ v ≤ 8 then some { g with window3 := v } else none) ∧
    g.with v 20 = (if 5 ≤ v ∧ v ≤ 600 then some { g with cutDeadline := v } else none) ∧
    g.with v 21 = (if 1 ≤ v ∧ v ≤ 15 then some { g with queryLimit := v } else none) ∧
    g.with v 22 = (if v = 0 then some { g with overdue := .wait } else
      if v = 1 then some { g with overdue := .fail } else none) ∧
    g.with v 23 = (if v = 57600 ∨ v = 115200 ∨ v = 230400 ∨ v = 460800 ∨ v = 921600 then
      some { g with controlRate := v } else none) ∧
    ∀ code, code = 0 ∨ 23 < code → g.with v code = none)

/-- The state after reset, on a part whose image no SAVE has written. -/
def Obligations.ResetLeavesThePartEmpty : Prop :=
  State.reset.book = [] ∧ State.reset.library.pieces = [] ∧
    (∀ slot, State.reset.bankOf slot = .unlocked) ∧ State.reset.arenaFree = 262144 ∧
    State.reset.hides = { slots := [], released := 0 } ∧
    State.reset.grid.retired = [] ∧ State.reset.grid.throttle = .normal ∧ State.reset.grid.corrected = 0 ∧
    State.reset.free = 8192 ∧
    State.reset.engine = { queue := [], pass := none } ∧
    State.reset.arbiter = { state := .hold, waiting := [], ratio := 0, lastGranted := 3 } ∧
    (∀ c, State.reset.chan c = Channel.fresh) ∧
    State.reset.bookPending = false ∧ State.reset.attn =
      { events := [.profile .defaulted], waiting := true, first := true, nextTag := 0 } ∧
    State.reset.settings = Settings.fixed ∧ State.reset.profile.busy = .idle ∧
    (∀ l, State.reset.link l = { receiver := .hunting, inHand := none }) ∧
    State.reset.links.rate = State.reset.settings.controlRate

/-- A start, by power-on, by the reset input or once the reply to RESET has been sent, puts a good image's settings or the
fixed defaults in force, raises LOADED or DEFAULTED, and leaves everything else as after reset, a request in hand
unanswered, and a reply that was due behind RESET's unsent. RESET is always accepted; the part runs on until its reply has
been sent.
The model's own choices: RESTART_AFTER_RESET with no RESET in hand does not occur (log entry 4, DESIGN CHOICE), an image
that was being written is bad (log entry 12), and the model's queue and the frames already sent stay (log entry 21). -/
def Obligations.AStartPutsTheProfileInForce : Prop :=
  (∀ (c : Instr) (s u : State),
    ((c = .powerOn ∨ c = .resetInput) ∧ u = s ∨
      c = .restartAfterReset ∧ ∃ q, s.links.control.inHand = some q ∧ q.ends = .restart ∧
        u = (s.setInHand .control none).answer .control q.tag q.reply) →
    (∀ g, s.profile.image = .good g → (∀ w, s.profile.busy ≠ .saving w) →
      exec c s = .next (u.started (.good g) g .loaded)) ∧
    (s.profile.image = .bad → exec c s = .next (u.started .bad Settings.fixed .defaulted)) ∧
    (∀ w, s.profile.busy = .saving w → exec c s = .next (u.started .bad Settings.fixed .defaulted))) ∧
  (∀ s : State, (∀ q, s.links.control.inHand = some q → q.ends ≠ .restart) →
    exec .restartAfterReset s = .next s) ∧
  (∀ (h : Head) (s : State), s.takes .control h 0 →
    exec (.reset h) s = .next ((s.hunt .control).repliedUntil .control 0x02 h .restart (.accept .nothing)))

/-- SET puts one setting in force and answers its code and value; an unknown code is refused RANGE with detail 0, a value
outside the setting's range with detail 1, and one that would break an order with detail 2. Its reply waits for the
change of rate that it causes. GET gives the value in force and changes nothing.
Settings put in force leave the image and the store's busy state as they were. Where a throttle mark changed, the throttle
goes to THROTTLED below FRAME_LOW and to NORMAL at FRAME_RESUME, and a change of it raises THROTTLE_ON or THROTTLE_OFF;
where RUSH_RATIO or CUTTER_PICK changed, the arbiter evaluates; nothing else changes. -/
def Obligations.SettingsArePutInForceAndRead : Prop :=
  (∀ (h : Head) (code v : Nat) (s : State), s.takes .control h 5 →
    let ordered (g : Settings) : Prop := g.sevT1 ≤ g.sevT2 ∧ g.sevT2 ≤ g.sevT3 ∧ g.frameLow < g.frameResume
    (∀ g, s.settings.with v code = some g → ordered g →
      exec (.set h code v) s =
        .next (if g.controlRate = s.links.rate then
          (putInForce g (s.hunt .control)).accepts .control 0x03 h (.setting code v)
        else (putInForce g (s.hunt .control)).repliedUntil .control 0x03 h .rateChange (.accept (.setting code v)))) ∧
    (∀ g, s.settings.with v code = some g → ¬ ordered g →
      s.settings.controlRate = s.links.rate →
      exec (.set h code v) s = .next ((s.hunt .control).replied .control 0x03 h (.refuse .range 2))) ∧
    (code = 0 ∨ 23 < code → s.settings.controlRate = s.links.rate →
      exec (.set h code v) s = .next ((s.hunt .control).replied .control 0x03 h (.refuse .range 0))) ∧
    (1 ≤ code → code ≤ 23 → s.settings.with v code = none →
      s.settings.controlRate = s.links.rate →
      exec (.set h code v) s = .next ((s.hunt .control).replied .control 0x03 h (.refuse .range 1)))) ∧
  (∀ (g : Settings) (s : State),
    let held : State := { s with profile := { s.profile with settings := g } }
    let moved (v : Throttle) (e : StoreEvent) : State :=
      State.raise (.store e) { held with grid := { s.grid with throttle := v } }
    let marked : State :=
      if s.free < g.frameLow then if s.grid.throttle = .normal then moved .throttled .throttleOn else held
      else if g.frameResume ≤ s.free ∧ s.grid.throttle = .throttled then moved .normal .throttleOff else held
    let sameMarks : Prop := g.frameLow = s.settings.frameLow ∧ g.frameResume = s.settings.frameResume
    let sameArbiter : Prop := g.rushRatio = s.settings.rushRatio ∧ g.pick = s.settings.pick
    (putInForce g s).profile = { s.profile with settings := g } ∧
    (sameMarks → sameArbiter → putInForce g s = held) ∧
    (¬ sameMarks → sameArbiter → putInForce g s = marked) ∧
    (sameMarks → ¬ sameArbiter → putInForce g s = held.evaluate) ∧
    (¬ sameMarks → ¬ sameArbiter → putInForce g s = marked.evaluate)) ∧
  ∀ (h : Head) (code : Nat) (s : State), s.takes .control h 1 →
    (1 ≤ code → code ≤ 23 →
      exec (.get h code) s =
        .next ((s.hunt .control).accepts .control 0x04 h (.setting code (s.settings.value code)))) ∧
    (code = 0 ∨ 23 < code →
      exec (.get h code) s = .next ((s.hunt .control).replied .control 0x04 h (.refuse .range 0)))

/-- SAVE and LOAD begin in an idle store and are refused BUSY with 1 in SAVING and 2 in LOADING; DEFAULTS puts the fixed
defaults in force. A profile write ends with a good image of the contents taken at the SAVE, or with a bad one; a profile
read ends with a good image in force, or with no change; the store is then idle and the event is raised. The rate of a
read image takes effect at once, or, where a reply in hand is being sent on the control link, at the CONTROL_RATE_CHANGE
after it, and with a RESET in hand not before the restart; the command of a slow reply says whether it is being sent (log
entries 2 and 20).
CONTROL_RATE_CHANGE sends the reply that it waits for, and the replies that were due behind it; the control link then runs
at the rate in force, a partial frame on it is dropped, and any other request in hand is kept. With the rate in force
already the link's, or with a RESET in hand, nothing changes (log entry 4). -/
def Obligations.ProfileOperationsBeginAndComplete : Prop :=
  (∀ (h : Head) (s : State), s.takes .control h 0 →
    (s.profile.busy = .idle →
      exec (.save h) s = .next (State.accepts
        { s.hunt .control with profile := { s.profile with busy := .saving s.settings } } .control 0x05 h .nothing) ∧
      exec (.load h) s = .next (State.accepts
        { s.hunt .control with profile := { s.profile with busy := .loading } } .control 0x06 h .nothing)) ∧
    (∀ g, s.profile.busy = .saving g →
      exec (.save h) s = .next ((s.hunt .control).replied .control 0x05 h (.refuse .busy 1)) ∧
      exec (.load h) s = .next ((s.hunt .control).replied .control 0x06 h (.refuse .busy 1))) ∧
    (s.profile.busy = .loading →
      exec (.save h) s = .next ((s.hunt .control).replied .control 0x05 h (.refuse .busy 2)) ∧
      exec (.load h) s = .next ((s.hunt .control).replied .control 0x06 h (.refuse .busy 2))) ∧
    exec (.defaults h) s =
      .next (if s.links.rate = 230400 then
        (putInForce Settings.fixed (s.hunt .control)).accepts .control 0x07 h .nothing
      else (putInForce Settings.fixed (s.hunt .control)).repliedUntil .control 0x07 h .rateChange (.accept .nothing))) ∧
  (∀ (g : Settings) (s : State),
    (s.profile.busy = .saving g →
      exec (.saveCompletion true) s = .next (State.raise (.profile .saved)
        { s with profile := { s.profile with image := .good g, busy := .idle } }) ∧
      exec (.saveCompletion false) s = .next (State.raise (.profile .saveFailed)
        { s with profile := { s.profile with image := .bad, busy := .idle } })) ∧
    (s.profile.busy = .loading → s.profile.image = .bad →
      exec .loadCompletion s = .next (State.raise (.profile .loadFailed)
        { s with profile := { s.profile with busy := .idle } })) ∧
    (s.profile.busy = .loading → s.profile.image = .good g →
      let sending : Prop := ∃ q, s.links.control.inHand = some q ∧ (q.begun = true ∨ q.ends ≠ .idle)
      (g.controlRate = s.links.rate ∨ sending →
        exec .loadCompletion s = .next (setBusy .idle ((putInForce g s).raise (.profile .loaded)))) ∧
      (g.controlRate ≠ s.links.rate → ¬ sending →
        exec .loadCompletion s = .next (setBusy .idle (State.raise (.profile .loaded)
          { putInForce g s with links := { s.links with
            rate := g.controlRate, control := { s.links.control with receiver := .hunting } } }))))) ∧
  (∀ (kind : Nat) (h : Head) (r : Reply) (s : State), h.slow = true →
    s.replied .control kind h r = (if h.sending then s.lead .control else s).setInHand .control
      (some ⟨kind, h.tag, r, .idle, h.sending, []⟩)) ∧
  (∀ s : State,
    let switched (t : State) : State := { t with links := { t.links with
      rate := s.settings.controlRate, control := { t.links.control with receiver := .hunting } } }
    let before (q : InHand) : Prop := q.begun = true ∨ q.ends = .rateChange
    (s.settings.controlRate ≠ s.links.rate → (∀ q, s.links.control.inHand = some q → q.ends ≠ .restart) →
      (∀ q, s.links.control.inHand = some q → before q →
        let t := (s.setInHand .control none).answer .control q.tag q.reply
        let behind : List Sent := q.behind.map fun d => ⟨.control, d.1, .reply d.2⟩
        exec .controlRateChange s = .next (switched { t with sent := behind.reverse ++ t.sent })) ∧
      ((∀ q, s.links.control.inHand = some q → ¬ before q) → exec .controlRateChange s = .next (switched s))) ∧
    (s.settings.controlRate = s.links.rate ∨ (∃ q, s.links.control.inHand = some q ∧ q.ends = .restart) →
      exec .controlRateChange s = .next s))

/-! ### The cut order book -/

/-- LINE_ADD makes an ACTIVE line with everything open, and PAIR_ADD two that name each other; the checks of LINE_ADD are
made in order, and the first that fails gives the refusal. -/
def Obligations.LinesAreAdded : Prop :=
  (∀ (h : Head) (id slot style size ordered : Nat) (p : Piece) (s : State),
    slot < 128 → 1 ≤ ordered → ordered ≤ 4095 → s.line id = none → s.piece slot = some p → p.state = .ready →
    let line (slot : Nat) (pair : Option Pairing) : Line :=
      { state := .active, slot := slot, style := style, size := size, ordered := ordered, openUnits := ordered,
        reserved := 0, cut := 0, pair := pair, notice := false }
    (s.takes .control h 8 →
      exec (.lineAdd h id slot style size ordered) s =
        .next (((s.hunt .control).putLine id (line slot none)).accepts .control 0x10 h (.line id (line slot none)))) ∧
    ∀ (id2 slot2 : Nat) (p2 : Piece), s.takes .control h 10 →
      id ≠ id2 → slot2 < 128 → s.line id2 = none → s.piece slot2 = some p2 → p2.state = .ready →
        exec (.pairAdd h id id2 slot slot2 ordered style size) s =
          .next ((((s.hunt .control).putLine id (line slot (some ⟨id2, .first⟩))).putLine id2
              (line slot2 (some ⟨id, .second⟩))).accepts .control 0x11 h
            (.lines id (line slot (some ⟨id2, .first⟩)) id2 (line slot2 (some ⟨id, .second⟩))))) ∧
  (∀ (h : Head) (id slot style size ordered : Nat) (s : State), s.takes .control h 8 →
    let refused (r : Reason) (detail : Nat) : Prop :=
      exec (.lineAdd h id slot style size ordered) s =
        .next ((s.hunt .control).replied .control 0x10 h (.refuse r detail))
    (128 ≤ slot → refused .range 1) ∧
    (slot < 128 → (ordered = 0 ∨ 4095 < ordered) → refused .range 2) ∧
    (slot < 128 → 1 ≤ ordered → ordered ≤ 4095 → (s.line id).isSome → refused .inUse id) ∧
    (slot < 128 → 1 ≤ ordered → ordered ≤ 4095 → s.line id = none →
      (∀ p, s.piece slot = some p → p.state = .loading) → refused .wrongState slot))

/-- LINE_RESIZE gives an ACTIVE line, and its ACTIVE mirror with it, a new ordered value; the units not reserved or cut
are open, and a line with none left is COMPLETE, its notice set. LINE_CANCEL closes an ACTIVE line without reservations,
makes one with reservations CANCELLING, and does the same to its mirror, each closed line's notice raising on BOOK; a line
of the pair that is not ACTIVE stays as it is. LINE_REMOVE frees a finished line and its finished mirror with it; the order
of the two ids in its reply is the model's choice (log entry 39). -/
def Obligations.LinesAreResizedCancelledAndRemoved : Prop :=
  (∀ (h : Head) (id n : Nat) (l : Line) (s : State), s.takes .control h 3 →
    s.line id = some l → l.state = .active → l.notice = false → 1 ≤ n → n ≤ 4095 → l.reserved + l.cut ≤ n →
    (l.pair = none →
      exec (.lineResize h id n) s =
        .next (((s.hunt .control).noticed id l (l.resized n)).accepts .control 0x12 h (.line id (l.resized n)))) ∧
    ∀ (p : Pairing) (m : Line), l.pair = some p → p.mirror ≠ id → s.line p.mirror = some m → m.state = .active →
      m.notice = false → m.reserved + m.cut ≤ n →
        exec (.lineResize h id n) s =
          .next ((((s.hunt .control).noticed id l (l.resized n)).noticed p.mirror m (m.resized n)).accepts .control
            0x12 h (.lines id (l.resized n) p.mirror (m.resized n)))) ∧
  (∀ (h : Head) (id : Nat) (l : Line) (s : State), s.takes .control h 1 → s.line id = some l →
    (l.pair = none → l.state = .active → l.notice = false →
      exec (.lineCancel h id) s =
        .next (((s.hunt .control).noticed id l l.cancelled).accepts .control 0x13 h (.line id l.cancelled))) ∧
    ∀ (p : Pairing) (m : Line), l.pair = some p → p.mirror ≠ id → s.line p.mirror = some m →
      (l.state = .active ∨ m.state = .active) →
      (l.state = .active → l.notice = false) → (m.state = .active → m.notice = false) →
        ∃ t : State, exec (.lineCancel h id) s =
            .next (t.accepts .control 0x13 h (.lines id l.cancelled p.mirror m.cancelled)) ∧
          t.line id = some l.cancelled ∧ t.line p.mirror = some m.cancelled ∧
          (∀ k, k ≠ id → k ≠ p.mirror → t.line k = s.line k) ∧
          t.attn = (((s.hunt .control).noticed id l l.cancelled).noticed p.mirror m m.cancelled).attn ∧
          t = { s.hunt .control with book := t.book, attn := t.attn }) ∧
  (∀ (h : Head) (id : Nat) (l : Line) (s : State), s.takes .control h 1 → s.line id = some l → l.finished = true →
    (l.pair = none →
      exec (.lineRemove h id) s =
        .next (((s.hunt .control).dropLine id).accepts .control 0x14 h (.removed [id]))) ∧
    ∀ (p : Pairing) (m : Line), l.pair = some p → s.line p.mirror = some m → m.finished = true →
      exec (.lineRemove h id) s =
        .next ((((s.hunt .control).dropLine id).dropLine p.mirror).accepts .control 0x14 h (.removed [id, p.mirror])))

/-- The three claims on a line: what each moves between the counts, when it finishes the line and sets its notice, and
when a reserve is refused. -/
def Obligations.ClaimsMoveOneUnit : Prop :=
  ∀ (id : Nat) (l : Line) (s : State), s.line id = some l →
    (l.state = .active → 1 ≤ l.openUnits →
      s.claimReserve id = some (s.putLine id { l with openUnits := l.openUnits - 1, reserved := l.reserved + 1 })) ∧
    (l.state ≠ .active ∨ l.openUnits = 0 → s.claimReserve id = none) ∧
    (l.state = .active → 1 ≤ l.reserved →
      s.claimResolve id =
        (if l.openUnits = 0 ∧ l.reserved = 1 then
          s.raiseNotice id { l with reserved := 0, cut := l.cut + 1, state := .complete }
        else s.putLine id { l with reserved := l.reserved - 1, cut := l.cut + 1 }) ∧
      s.claimReturn id = s.putLine id { l with reserved := l.reserved - 1, openUnits := l.openUnits + 1 }) ∧
    (l.state = .cancelling → 1 ≤ l.reserved →
      s.claimResolve id =
        (if l.reserved = 1 then s.raiseNotice id { l with reserved := 0, cut := l.cut + 1, state := .closed }
        else s.putLine id { l with reserved := l.reserved - 1, cut := l.cut + 1 }) ∧
      s.claimReturn id =
        if l.reserved = 1 then s.raiseNotice id { l with reserved := 0, ordered := l.ordered - 1, state := .closed }
        else s.putLine id { l with reserved := l.reserved - 1, ordered := l.ordered - 1 })

/-! ### The pattern library -/

/-- PIECE_DEFINE opens an EMPTY slot of an OPEN bank, and VARIANT_DEFINE gives a LOADING piece a variant without body
cells, where the arena has room for its box beside the one it replaces. VARIANT_ROWS writes the zone classes of its runs
into one row of a variant, and no other cell. PIECE_READY makes a whole LOADING piece READY, and PIECE_ERASE empties a
slot that no line in use names. -/
def Obligations.PiecesAreLoadedAndErased : Prop :=
  (∀ (h : Head) (slot : Nat) (s : State), slot < 128 → s.bankOf slot = .unlocked →
    (∀ (code margin : Nat) (offsets : Byte) (band : Option (Nat × Nat)), s.takes .control h 10 →
      s.piece slot = none → margin ≤ 3 → (∀ b, band = some b → 30 ≤ b.1 ∧ b.1 ≤ b.2 ∧ b.2 ≤ 600) →
      let t := (s.hunt .control).putPiece slot ⟨.loading, code, margin, offsets, band, []⟩
      exec (.pieceDefine h slot code margin offsets band) s =
        .next (t.accepts .control 0x20 h (.piece slot 1 t.arenaFree))) ∧
    ∀ (o w g : Nat) (p : Piece), s.takes .control h 4 → s.piece slot = some p → p.state = .loading →
      o < 8 → 1 ≤ w → w ≤ 192 → 1 ≤ g → g ≤ 192 →
      w * g ≤ s.arenaFree + ((Tab.get p.variants o).map fun v => v.width * v.height).getD 0 →
      let t := (s.hunt .control).putPiece slot { p with variants := Tab.put p.variants o ⟨w, g, []⟩ }
      exec (.variantDefine h slot o w g) s =
        .next (t.accepts .control 0x21 h (.variant slot 1 ⟨o, w, g, 0, 0, 0, 0⟩ t.arenaFree))) ∧
  (∀ (h : Head) (slot o row start : Nat) (runs : List Run) (p : Piece) (v : Variant) (s : State),
    s.takes .control h (5 + 2 * runs.length) → slot < 128 → s.bankOf slot = .unlocked →
    s.piece slot = some p → p.state = .loading → Tab.get p.variants o = some v → row < v.height → start < v.width →
    (∀ r ∈ runs, r.code < 4 ∧ 1 ≤ r.length ∧ r.length ≤ 192) → start + (runs.map Run.length).sum ≤ v.width →
    ∃ w : Variant, w.width = v.width ∧ w.height = v.height ∧
      (let t := (s.hunt .control).putPiece slot { p with variants := Tab.put p.variants o w }
       exec (.variantRows h slot o row start runs) s =
         .next (t.accepts .control 0x22 h (.variant slot 1 (Variant.view o w) t.arenaFree))) ∧
      (∀ i z, (i, z) ∈ runCells start runs → (Mem.read noZone w.raster (row * v.width + i)).toNat = z) ∧
      ∀ a, (∀ i z, (i, z) ∈ runCells start runs → a ≠ row * v.width + i) →
        Mem.read noZone w.raster a = Mem.read noZone v.raster a) ∧
  ∀ (h : Head) (slot : Nat) (p : Piece) (s : State), s.takes .control h 1 → slot < 128 → s.bankOf slot = .unlocked →
    s.piece slot = some p →
    (p.state = .loading → p.variants ≠ [] → (∀ e ∈ p.variants, 1 ≤ e.2.bodyCount) → p.offsets ≠ 0 →
      let t := (s.hunt .control).putPiece slot { p with state := .ready }
      exec (.pieceReady h slot) s = .next (t.accepts .control 0x23 h (.piece slot 2 t.arenaFree))) ∧
    ((∀ e ∈ s.book, e.2.slot ≠ slot) →
      let t := (s.hunt .control).dropPiece slot
      exec (.pieceErase h slot) s = .next (t.accepts .control 0x24 h (.piece slot 0 t.arenaFree)))

/-- BANK_MODE: a bank outside 0..3 is refused RANGE with detail 0, and any other takes the mode given, whatever its slots
hold; the mode that a bank has already changes nothing. The reply carries the bank and its mode. -/
def Obligations.BankModeSetsTheMode : Prop :=
  ∀ (h : Head) (bank code : Nat) (s : State), s.takes .control h 2 →
    (4 ≤ bank →
      exec (.bankMode h bank code) s = .next ((s.hunt .control).replied .control 0x26 h (.refuse .range 0))) ∧
    ∀ (m : BankMode), bank < 4 → (code = 0 ∧ m = .unlocked ∨ code = 1 ∧ m = .locked) →
      ∃ banks, exec (.bankMode h bank code) s =
          .next (State.accepts { s.hunt .control with library := { s.library with banks := banks } } .control 0x26 h
            (.bank bank m)) ∧
        (∀ slot, slot / 32 = bank → State.bankOf { s with library := { s.library with banks := banks } } slot = m) ∧
        (∀ slot, slot / 32 ≠ bank →
          State.bankOf { s with library := { s.library with banks := banks } } slot = s.bankOf slot) ∧
        (s.library.banks[bank]? = some m → banks = s.library.banks)

/-- The five requests that change a slot are refused PROTECTED in a LOCKED bank, whatever the slot's state. -/
def Obligations.ALockedBankIsProtected : Prop :=
  ∀ (h : Head) (slot a b c : Nat) (offsets : Byte) (band : Option (Nat × Nat)) (runs : List Run) (s : State),
    slot < 128 → s.bankOf slot = .locked →
    let refused (kind : Nat) : Host.Outcome State Fault Refusal :=
      .next ((s.hunt .control).replied .control kind h (.refuse .isProtected (slot / 32)))
    (s.takes .control h 10 → exec (.pieceDefine h slot a b offsets band) s = refused 0x20) ∧
    (s.takes .control h 4 → exec (.variantDefine h slot a b c) s = refused 0x21) ∧
    (s.takes .control h (5 + 2 * runs.length) → exec (.variantRows h slot a b c runs) s = refused 0x22) ∧
    (s.takes .control h 1 → exec (.pieceReady h slot) s = refused 0x23 ∧ exec (.pieceErase h slot) s = refused 0x24)

/-! ### Attention -/

/-- A raise makes its event pending once; a frame becomes due at every raise in EACH, and in EDGE at a raise that finds
the summary empty, and is merged with one that waits. ATTENTION_SEND sends the waiting frame with the summary as it
stands; with none waiting, or while a reply's frame is being sent on the control link, it changes nothing (log entry 4). A
reply that would be the first frame of the control link after a start makes the waiting frame go before it (log entry 28),
and one that becomes due while another reply's frame is being sent on its link goes behind it. -/
def Obligations.RaisesMakeFramesDueAndFramesAreSent : Prop :=
  (∀ (e : Event) (id : Nat) (l : Line) (s : State),
    let due : Bool := s.attn.waiting || decide (s.settings.attnMode = .each) || !s.anyPending
    s.raise e =
      { s with attn := { s.attn with events := insertEvent e s.attn.events, waiting := due } } ∧
    (∀ d, d ∈ insertEvent e s.attn.events ↔ d = e ∨ d ∈ s.attn.events) ∧
    (s.attn.events.Pairwise (fun a b => a.key < b.key) → e ∈ s.attn.events →
      insertEvent e s.attn.events = s.attn.events) ∧
    s.raiseNotice id l = { s.putLine id { l with notice := true } with attn := { s.attn with waiting := due } }) ∧
  (∀ s : State,
    let led : State :=
      { s with attn := { s.attn with waiting := false, first := false, nextTag := (s.attn.nextTag + 1) % 256 }
               sent := ⟨.control, s.attn.nextTag, .attention s.summary⟩ :: s.sent }
    let free (l : Link) : Prop := ∀ q, (s.link l).inHand = some q → q.begun = false
    (s.attn.waiting = true → free .control → exec .attentionSend s = .next led) ∧
    (s.attn.waiting = false ∨ (∃ q, s.links.control.inHand = some q ∧ q.begun = true) →
      exec .attentionSend s = .next s) ∧
    ∀ (l : Link) (tag : Nat) (r : Reply),
      (l = .control → s.attn.first = true → free l →
        s.answer l tag r = { led with sent := ⟨l, tag, .reply r⟩ :: led.sent }) ∧
      (l ≠ .control ∨ s.attn.first = false → free l →
        s.answer l tag r = { s with sent := ⟨l, tag, .reply r⟩ :: s.sent }) ∧
      ∀ q, (s.link l).inHand = some q → q.begun = true →
        s.answer l tag r =
          s.putLink l { s.link l with inHand := some { q with behind := q.behind ++ [(tag, r)] } })

/-- ATTN_CLEAR clears the listed events of a source, or the notices of the listed lines, and nothing else. -/
def Obligations.ListedEventsAreCleared : Prop :=
  ∀ (h : Head) (source : Nat) (list : List Nat) (s : State), s.takes .control h (2 + list.length) →
    source ≤ 18 → 1 ≤ list.length →
    (source ≠ 16 → list.length ≤ 8 → (∀ k ∈ list, k < eventCount source) →
      let t : State := { s.hunt .control with attn := { s.attn with
        events := s.attn.events.filter fun e => decide (¬ (e.source = source ∧ e.code ∈ list)) } }
      exec (.attnClear h source list) s =
        .next (t.accepts .control 0x5B h (.cleared source (t.pendingCodes source) t.summary))) ∧
    (source = 16 → list.length ≤ 32 →
      ∃ t : State, exec (.attnClear h source list) s =
          .next (t.accepts .control 0x5B h (.clearedBook 16 t.noticeIds.length t.summary)) ∧
        t = { s.hunt .control with book := t.book } ∧
        ∀ id, t.line id = (s.line id).map fun l => if id ∈ list then { l with notice := false } else l)

/-! ### Reads -/

/-- The reads of the capacities, the store, the attention sources, a line, a piece, a hide, a placement page
and a channel give what stands and change nothing. The model's own choices: an optional row of PIECE_READ is one field (log
entry 13), and the reply of ATTN_READ for BOOK carries the source (log entry 37). -/
def Obligations.ReadsChangeNothing : Prop :=
  (∀ (h : Head) (n : Nat) (s : State),
    (s.takes .control h 0 →
      exec (.identify h) s = .next ((s.hunt .control).accepts .control 0x01 h
        (.identity 0x0151 0x0440 1 [12, 8192, 128, 262144, 256, 160, 64, 4])) ∧
      exec (.storeRead h) s = .next ((s.hunt .control).accepts .control 0x54 h
        (.store s.free s.owned s.grid.retired.length s.grid.throttle s.grid.corrected s.poisonedTiles
          s.settings.frameLow s.settings.frameResume)) ∧
      exec (.attnSummary h) s = .next ((s.hunt .control).accepts .control 0x58 h (.summary s.summary))) ∧
    (s.takes .control h 1 →
      (n ≤ 18 → n ≠ 16 →
        exec (.attnRead h n) s =
          .next ((s.hunt .control).accepts .control 0x59 h (.pendingCodes n (s.pendingCodes n)))) ∧
      exec (.attnRead h 16) s =
        .next ((s.hunt .control).accepts .control 0x59 h
          (.notices 16 s.noticeIds.length (s.noticeIds.take 32))))) ∧
  (∀ (h : Head) (n : Nat) (s : State),
    (∀ l, s.takes .control h 1 → s.line n = some l →
      exec (.lineRead h n) s = .next ((s.hunt .control).accepts .control 0x15 h (.line n l))) ∧
    (s.takes .control h 4 → n < 128 →
      exec (.pieceRead h n none) s = .next ((s.hunt .control).accepts .control 0x25 h
        (.pieceRecord n (n / 32) (s.bankOf n) (pieceCode (s.piece n)) (namingCount s n) s.arenaFree
          ((s.piece n).map Piece.view) none))) ∧
    (∀ p v o row, s.takes .control h 4 → n < 128 → s.piece n = some p → Tab.get p.variants o = some v →
      row < v.height →
      exec (.pieceRead h n (some (o, row))) s = .next ((s.hunt .control).accepts .control 0x25 h
        (.pieceRecord n (n / 32) (s.bankOf n) (pieceCode (some p)) (namingCount s n) s.arenaFree
          (some p.view) (some (shortestRuns (rowZones v row)))))) ∧
    (s.takes .control h 1 → n < 12 →
      exec (.hideRead h n) s = .next ((s.hunt .control).accepts .control 0x36 h
        (.hide n (stateCode s n) ((s.hide n).map (liveView s n))))) ∧
    (∀ g first, s.takes .control h 2 → n < 12 → s.hide n = some g → first ≤ g.placements.length →
      exec (.placementsRead h n first) s = .next ((s.hunt .control).accepts .control 0x37 h
        (.placements n g.placements.length (pageFrom g.placements first)))) ∧
    (∀ c : Fin 4, s.takes .control h 1 →
      exec (.cutterRead h c.1) s =
        .next ((s.hunt .control).accepts .control 0x53 h (.channelRecord (channelView s c)))))

/-! ### Hides, maps and flaws -/

/-- HIDE_OPEN takes the lowest FREE slot, whose events it clears, for a new MAPPING hide. While the throttle is THROTTLED
it is refused with the free count, and changes nothing. -/
def Obligations.HidesAreOpened : Prop :=
  ∀ (h : Head) (tag w g backbone : Nat) (s : State), s.takes .scanner h 9 →
    16 ≤ w → w ≤ 1536 → 16 ≤ g → g ≤ 1152 → backbone < 8 →
    (s.grid.throttle = .throttled →
      exec (.hideOpen h tag w g backbone) s =
        .next ((s.hunt .scanner).replied .scanner 0x30 h (.refuse .throttled s.free))) ∧
    ∀ slot, s.grid.throttle = .normal →
      (∀ e ∈ s.hides.slots, e.2.tag ≠ tag) → slot < 12 → s.hide slot = none → (∀ k < slot, s.hide k ≠ none) →
      exec (.hideOpen h tag w g backbone) s =
        .next (((State.putHide
          { s.hunt .scanner with
            attn := { s.attn with events := s.attn.events.filter fun e => decide (e.source ≠ slot) } } slot
          { state := .mapping, tag := tag, width := w, height := g, backbone := backbone, frames := [], thick := [],
            poisoned := [], staged := [], deferred := [], deferredPoison := [], placements := [], commit := none,
            report := none, release := none, channel := none, route := none })).accepts .scanner 0x30 h
              (.opened slot tag))

/-- ROWS takes a frame for each tile without one that a grade of its runs reaches, in the order in which the runs first
reach the tiles, and then writes the cells of its runs. Each frame is the lowest free one, OUTSIDE and without cover
throughout; the tiles get different frames, and no other tile or frame changes. After the writes the throttle is
evaluated, where a frame was taken. -/
def Obligations.RowsTakeFramesAndWriteCells : Prop :=
  (∀ (h : Head) (slot y x : Nat) (runs : List Run) (g : Hide) (s : State),
    s.takes .scanner h (6 + 2 * runs.length) → slot < 12 → s.hide slot = some g → g.state = .mapping →
    y < g.height → x < g.width → 1 ≤ runs.length → runs.length ≤ 255 →
    (∀ r ∈ runs, (r.code < 4 ∨ r.code = 7) ∧ 1 ≤ r.length ∧ r.length ≤ 255) →
    x + (runs.map Run.length).sum ≤ g.width →
    let cells := runCells x runs
    let tiles := State.newTiles g y cells
    tiles.length ≤ s.free →
    let u := cells.foldl (State.writeCell slot y) (tiles.foldl (State.takeFrame slot) (s.hunt .scanner))
    let t := if tiles = [] then u else u.allocationEval
    exec (.rows h slot y x runs) s =
      .next (t.accepts .scanner 0x31 h (.rows slot y tiles.length t.free t.grid.throttle))) ∧
  (∀ (x y : Nat) (runs : List Run) (g : Hide),
    let tiles := State.newTiles g y (runCells x runs)
    (∀ tile, tile ∈ tiles ↔
      ∃ i z, (i, z) ∈ runCells x runs ∧ z < 4 ∧ g.tileOf i y = tile ∧ Tab.get g.frames tile = none) ∧
    tiles.Pairwise (· < ·)) ∧
  (∀ (slot tile f : Nat) (g : Hide) (s : State), s.hide slot = some g →
    f < 8192 → f ∉ s.ownedFrames → f ∉ s.grid.retired → (∀ k < f, k ∈ s.ownedFrames ∨ k ∈ s.grid.retired) →
    let t := State.takeFrame slot s tile
    t = { s.putHide slot { g with frames := Tab.put g.frames tile f } with grid := t.grid } ∧
    (∀ a, f * 1024 ≤ a → a < f * 1024 + 1024 →
      Mem.read outsideCode t.grid.contents a = outsideCode ∧ Mem.read noCover t.grid.covers a = 0) ∧
    ∀ a, a < f * 1024 ∨ f * 1024 + 1024 ≤ a →
      Mem.read outsideCode t.grid.contents a = Mem.read outsideCode s.grid.contents a ∧
      Mem.read noCover t.grid.covers a = Mem.read noCover s.grid.covers a) ∧
  (∀ (slot : Nat) (tiles : List Nat) (g : Hide) (s : State), s.hide slot = some g → s.canonical = true →
    tiles.Nodup → (∀ tile ∈ tiles, Tab.get g.frames tile = none) → tiles.length ≤ s.free →
    let t := tiles.foldl (State.takeFrame slot) s
    ∃ frames, t = { s.putHide slot { g with frames := frames } with grid := t.grid } ∧
      t.free + tiles.length = s.free ∧ t.canonical = true ∧
      (∀ tile, tile ∉ tiles → Tab.get frames tile = Tab.get g.frames tile) ∧
      ∀ tile ∈ tiles, ∃ f, Tab.get frames tile = some f ∧ f < 8192 ∧ f ∉ s.ownedFrames ∧ f ∉ s.grid.retired ∧
        ∀ a, f * 1024 ≤ a → a < f * 1024 + 1024 →
          Mem.read outsideCode t.grid.contents a = outsideCode ∧ Mem.read noCover t.grid.covers a = 0) ∧
  (∀ (slot y x : Nat) (runs : List Run) (g : Hide) (s : State), s.hide slot = some g → (g.frames.map (·.2)).Nodup →
    (∀ r ∈ runs, r.code < 4 ∨ r.code = 7) →
    let t := (runCells x runs).foldl (State.writeCell slot y) s
    t = { s with grid := { s.grid with contents := t.grid.contents } } ∧
    (∀ i z a, (i, z) ∈ runCells x runs → g.cellAt i y = some a →
      (Mem.read outsideCode t.grid.contents a).toNat = z) ∧
    ∀ a, (∀ i z, (i, z) ∈ runCells x runs → g.cellAt i y ≠ some a) →
      Mem.read outsideCode t.grid.contents a = Mem.read outsideCode s.grid.contents a) ∧
  ∀ s : State,
    (s.free < s.settings.frameLow → s.grid.throttle = .normal →
      s.allocationEval = State.raise (.store .throttleOn) { s with grid := { s.grid with throttle := .throttled } }) ∧
    (s.settings.frameLow ≤ s.free ∨ s.grid.throttle = .throttled → s.allocationEval = s)

/-- THICKNESS takes its readings in list order: a valid one fills an entry or replaces its oldest sample, and an
invalid one clears it. -/
def Obligations.ThicknessReadingsAreTaken : Prop :=
  (∀ (h : Head) (slot : Nat) (entries : List Reading) (g : Hide) (s : State),
    s.takes .scanner h (2 + 4 * entries.length) → slot < 12 → s.hide slot = some g →
    (g.state = .mapping ∨ g.state = .mapped) → 1 ≤ entries.length → entries.length ≤ 64 →
    (∀ r ∈ entries, r.col < g.cols ∧ r.row < g.tileRows) →
    let thick := entries.foldl (fun t r =>
      Tab.put t (r.row * g.cols + r.col) (thicknessAfter (Tab.get t (r.row * g.cols + r.col)) r.value)) g.thick
    exec (.thickness h slot entries) s =
      .next (((s.hunt .scanner).putHide slot { g with thick := thick }).accepts .scanner 0x32 h
        (.thickness slot entries.length (entries.countP fun r => decide (r.value < 30 ∨ 600 < r.value))
          (Hide.thickValid { g with thick := thick })))) ∧
  ∀ (v a b c d : Nat),
    (30 ≤ v → v ≤ 600 →
      thicknessAfter none v = .valid v v v v ∧ thicknessAfter (some .invalid) v = .valid v v v v ∧
      thicknessAfter (some (.valid a b c d)) v = .valid b c d v) ∧
    (∀ old, (v < 30 ∨ 600 < v) → thicknessAfter old v = .invalid)

/-- FLAW on a MAPPING hide is staged and on a NESTING hide deferred, at the tail of its list; FLAWS_CLEAR empties the
staged list, and MAP_COMMIT begins the commit. -/
def Obligations.FlawsAreListed : Prop :=
  ∀ (u : UpLink) (h : Head) (slot : Nat) (f : Flaw) (reads : List ReadOutcome) (g : Hide) (s : State),
    slot < 12 → s.hide slot = some g →
    (s.takes (upLink u) h 13 → f.kind < 6 → f.x0 ≤ f.x1 → f.x1 < g.width → f.y0 ≤ f.y1 → f.y1 < g.height →
      (g.state = .mapping → g.staged.length < 256 →
        exec (.flaw u h slot f reads) s =
          .next (((s.hunt (upLink u)).putHide slot { g with staged := g.staged ++ [f] }).accepts (upLink u) 0x33 h
            (.flaw slot (.staged g.staged.length (g.staged.length + 1))))) ∧
      (g.state = .nesting → g.deferred.length < 32 →
        exec (.flaw u h slot f reads) s =
          .next (((s.hunt (upLink u)).putHide slot { g with deferred := g.deferred ++ [f] }).accepts (upLink u) 0x33 h
            (.flaw slot (.deferred (g.deferred.length + 1)))))) ∧
    (s.takes .scanner h 1 → g.state = .mapping →
      exec (.flawsClear h slot) s =
        .next (((s.hunt .scanner).putHide slot { g with staged := [] }).accepts .scanner 0x34 h
          (.flawsCleared slot g.staged.length)) ∧
      exec (.mapCommit h slot) s =
        .next (((s.hunt .scanner).putHide slot { g with state := .committing }).accepts .scanner 0x35 h
          (.committing slot 2 g.staged.length)))

/-- A late flaw is applied, swept over its clipped rectangle, and the hide and its channel are settled; the reply gives
the grade, the rectangle and the counts. -/
def Obligations.LateFlawsAreAppliedAndSwept : Prop :=
  ∀ (u : UpLink) (h : Head) (slot : Nat) (f : Flaw) (reads : List ReadOutcome) (g : Hide) (s : State),
    s.takes (upLink u) h 13 → slot < 12 → s.hide slot = some g →
    g.state ∈ [.mapped, .nestWait, .nested, .dispatchWait, .cutting, .done] →
    f.kind < 6 → f.x0 ≤ f.x1 → f.x1 < g.width → f.y0 ≤ f.y1 → f.y1 < g.height →
    let n := s.settings.halo f.kind
    let rect : Rect := ⟨f.x0 - n, f.y0 - n, min (f.x1 + n) (g.width - 1), min (f.y1 + n) (g.height - 1)⟩
    let a := applyFlaw slot f { s.hunt (upLink u) with tape := reads }
    let w := sweepFlaw slot rect a
    let t := w.s.settle slot
    exec (.flaw u h slot f reads) s =
      .next { t.accepts (upLink u) 0x33 h (.flaw slot (.applied (flawGrade s.settings f).val rect.x0 rect.y0 rect.x1
        rect.y1 a.changed.length w.struck w.marked.length (stateCode t slot))) with tape := s.tape }

/-- The flaw grade of a record, as the table gives it: a HOLE is REJECT, and any other kind is graded by its severity
against the three thresholds. A flaw of grade A leaves every cell as it was. -/
def Obligations.FlawGradesFollowTheThresholds : Prop :=
  (∀ (g : Settings) (f : Flaw), g.sevT1 ≤ g.sevT2 → g.sevT2 ≤ g.sevT3 →
    (f.kind = 3 → flawGrade g f = .reject) ∧
    (f.kind ≠ 3 →
      (flawGrade g f = .a ↔ f.severity < g.sevT1) ∧
      (flawGrade g f = .b ↔ g.sevT1 ≤ f.severity ∧ f.severity < g.sevT2) ∧
      (flawGrade g f = .c ↔ g.sevT2 ≤ f.severity ∧ f.severity < g.sevT3) ∧
      (flawGrade g f = .reject ↔ g.sevT3 ≤ f.severity))) ∧
  ∀ (slot : Nat) (f : Flaw) (s : State), flawGrade s.settings f = .a →
    (applyFlaw slot f s).changed = [] ∧ (applyFlaw slot f s).s.grid.contents = s.grid.contents

/-- Where every read is clean, a flaw makes each grade of its rectangle the worse of that grade and its own, leaves
poisoned tiles and every cell outside the rectangle, and changes nothing else. -/
def Obligations.FlawsOnlyWorsenTheirRectangle : Prop :=
  ∀ (slot : Nat) (f : Flaw) (g : Hide) (s : State), s.tape = [] → s.hide slot = some g →
    (g.frames.map (·.2)).Nodup →
    let rect := flawRect s.settings g f
    let n := (flawGrade s.settings f).val
    let a := applyFlaw slot f s
    a.s = { s with grid := { s.grid with contents := a.s.grid.contents } } ∧ a.fresh = [] ∧
    (∀ x y addr, rect.has x y = true → g.cellAt x y = some addr → g.tileOf x y ∉ g.poisoned →
      (Mem.read outsideCode a.s.grid.contents addr).toNat =
        (let e := (Mem.read outsideCode s.grid.contents addr).toNat
         if e < 4 then max e n else e)) ∧
    ∀ addr, (∀ x y, rect.has x y = true → g.cellAt x y = some addr → g.tileOf x y ∈ g.poisoned) →
      Mem.read outsideCode a.s.grid.contents addr = Mem.read outsideCode s.grid.contents addr

/-- At the completion of a commit the three checks are made: a commit that passes all applies the staged flaws and
leaves the hide MAPPED, and one that fails any keeps them and leaves it MAPPING, with the first offender of each.
With clean reads the map is EMPTY exactly where no framed cell is inside, and FLAW_OFF_HIDE names the first staged flaw
whose marked rectangle holds no inside cell. THICKNESS_MISSING names the first framed tile without a VALID entry, where
THICK_REQUIRED is ON. -/
def Obligations.CommitsComplete : Prop :=
  (∀ (slot : Nat) (reads : List ReadOutcome) (g : Hide) (s : State), s.hide slot = some g → g.state = .committing →
    let e := findInside slot (framedCells g) { s with tape := reads }
    let o := findOffHide slot 0 g.staged e.1
    let m := missingThickness s.settings g
    (e.2 = true → o.2 = none → m = none →
      exec (.commitCompletion slot reads) s =
        .next { ((applyStaged slot g.staged o.1).modHide slot fun k =>
          { k with state := .mapped, staged := [], commit := some .ok }).raise (.hide slot .mapOk) with
            tape := s.tape }) ∧
    (e.2 = false ∨ o.2 ≠ none ∨ m ≠ none →
      exec (.commitCompletion slot reads) s =
        .next { (o.1.modHide slot fun k =>
          { k with state := .mapping, commit := some (.failed (!e.2) o.2 m) }).raise (.hide slot .mapFailed) with
            tape := s.tape })) ∧
  (∀ (slot k : Nat) (cells : List (Nat × Nat)) (flaws : List Flaw) (g : Hide) (s : State), s.tape = [] →
    s.hide slot = some g →
    let inside (x y : Nat) : Prop := ∃ f, Tab.get g.frames (g.tileOf x y) = some f ∧
      (g.tileOf x y ∈ g.poisoned ∨ (Mem.read outsideCode s.grid.contents (cellAddr f x y)).toNat < 4)
    let onHide (f : Flaw) : Prop := ∃ x y, f.x0 ≤ x ∧ x ≤ f.x1 ∧ f.y0 ≤ y ∧ y ≤ f.y1 ∧ inside x y
    (findInside slot cells s).1 = s ∧
    ((findInside slot cells s).2 = true ↔ ∃ c ∈ cells, inside c.1 c.2) ∧
    (findOffHide slot k flaws s).1 = s ∧
    ((findOffHide slot k flaws s).2 = none ↔ ∀ f ∈ flaws, onHide f) ∧
    ∀ before f after, flaws = before ++ f :: after → (∀ e ∈ before, onHide e) → ¬ onHide f →
      (findOffHide slot k flaws s).2 = some (k + before.length)) ∧
  ∀ (g : Hide) (settings : Settings),
    let valid (tile : Nat) : Prop := ∃ i j k l, Tab.get g.thick tile = some (.valid i j k l)
    (∀ x y, (x, y) ∈ framedCells g ↔ x < g.width ∧ y < g.height ∧ Tab.get g.frames (g.tileOf x y) ≠ none) ∧
    (settings.thickRequired = false ∨ (∀ e ∈ g.frames, valid e.1) → missingThickness settings g = none) ∧
    ∀ before tile f after, settings.thickRequired = true → g.frames = before ++ (tile, f) :: after →
      (∀ e ∈ before, valid e.1) → ¬ valid tile →
        missingThickness settings g = some (tile % g.cols, tile / g.cols)

/-- CLOSE frees a DONE hide; DISCARD waits for the engine on a NESTING hide and for the channel on a CUTTING one, and
completes at once on any other.
The completion withdraws the PLACED and TICKETED placements in ascending index and pops the stack, newest entry first,
each with its cover unmarked and one return on its line; takes the slot off the nest queue and the waiting list; frees
it; and leaves DISCARD_DONE the only event pending on it. A slot freed gives its frames back, those of poisoned tiles
retired, and the throttle is evaluated once.
The model's own choice: the deadlines that lapse as a CUTTING hide's channel becomes ABORTING are dropped (log entry 9,
DESIGN CHOICE). -/
def Obligations.HidesAreClosedAndDiscarded : Prop :=
  ∀ (u : UpLink) (h : Head) (slot : Nat) (g : Hide) (s : State), slot < 12 → s.hide slot = some g →
    (s.takes .control h 1 → g.state = .done →
      exec (.close h slot) s =
        .next ((((s.hunt .control).freeSlot slot).clearHide slot).accepts .control 0x39 h (.closed slot g.tag))) ∧
    (s.takes (upLink u) h 1 →
      (g.state = .nesting →
        exec (.discard u h slot) s =
          .next (((s.hunt (upLink u)).putHide slot { g with state := .discarding, route := some .engine }).accepts
            (upLink u) 0x38 h (.discarded slot g.tag 10))) ∧
      (∀ c, g.state = .cutting → g.channel = some c →
        exec (.discard u h slot) s =
          .next ((((s.hunt (upLink u)).putHide slot { g with state := .discarding, route := some .channel }).modChan c
            fun ch => { ch with state := .aborting, deadlines := [] }).accepts (upLink u) 0x38 h
              (.discarded slot g.tag 10))) ∧
      (g.state ∉ [.nesting, .cutting, .discarding] →
        exec (.discard u h slot) s =
          .next (((s.hunt (upLink u)).completeDiscard slot).accepts (upLink u) 0x38 h
            (.discarded slot g.tag 0)))) ∧
    (let gone (t : State) (p : Nat × Nat × Nat × Nat × Nat) : State :=
       (t.unmarkCover slot p.2.1 p.2.2.1 p.2.2.2.1 p.2.2.2.2).claimReturn p.1
     let stack := match s.engine.pass with
       | none => []
       | some p => if p.slot = slot then p.stack else []
     let t := (List.range g.placements.length).foldl (State.withdraw slot) s
     let u := stack.foldl (fun t e => gone t (e.line, e.slot, e.variant, e.x, e.y)) t
     let v : State := { u with
       engine := { queue := s.engine.queue.filter fun e => decide (e.slot ≠ slot),
                   pass := s.engine.pass.map fun p => if p.slot = slot then { p with stack := [] } else p }
       arbiter := { s.arbiter with waiting := s.arbiter.waiting.filter fun k => decide (k ≠ slot) } }
     let w := v.freeSlot slot
     let x := s.completeDiscard slot
     x = State.raise (.hide slot .discardDone)
       { w with attn := { w.attn with events := w.attn.events.filter fun e => decide (e.source ≠ slot) } } ∧
     (∀ e, e ∈ x.attn.events → e.source = slot → e = .hide slot .discardDone) ∧
     Event.hide slot .discardDone ∈ x.attn.events ∧
     (∀ i p, s.placement slot i = some p →
       (p.state = .placed ∨ p.state = .ticketed → State.withdraw slot s i =
         gone (s.modPlacement slot i fun q => { q with state := .withdrawn }) (p.line, p.slot, p.variant, p.x, p.y)) ∧
       (p.state ≠ .placed → p.state ≠ .ticketed → State.withdraw slot s i = s)) ∧
     ∀ id, x.line id = (Nat.repeat (State.claimReturn id)
       (g.placements.countP (fun p => decide (p.line = id ∧ (p.state = .placed ∨ p.state = .ticketed))) +
         stack.countP fun e => decide (e.line = id)) s).line id) ∧
    (let t := s.freeSlot slot
     let u : State := { s with hides := t.hides, grid := { s.grid with retired := t.grid.retired } }
     t.hide slot = none ∧ (∀ k, k ≠ slot → t.hide k = s.hide k) ∧ t.hides.released = s.hides.released ∧
     (∀ f, f ∈ t.grid.retired ↔ f ∈ s.grid.retired ∨ ∃ tile ∈ g.poisoned, Tab.get g.frames tile = some f) ∧
     (s.settings.frameResume ≤ u.free → s.grid.throttle = .throttled → t =
       State.raise (.store .throttleOff) { u with grid := { u.grid with throttle := .normal } }) ∧
     (u.free < s.settings.frameResume ∨ s.grid.throttle = .normal → t = u))

/-- RELEASE gives a NESTED hide with a PLACED placement the next number, its urgency and mask, and a place on the
waiting list; the arbiter then evaluates. With no number left it is refused NO_ROOM. -/
def Obligations.ReleasesAreNumbered : Prop :=
  ∀ (h : Head) (slot code : Nat) (u : Urgency) (mask : Byte) (g : Hide) (s : State), s.takes .control h 3 →
    slot < 12 → s.hide slot = some g → g.state = .nested → (code = 0 ∧ u = .rush ∨ code = 1 ∧ u = .normal) →
    1 ≤ mask.toNat → mask.toNat ≤ 15 → (∃ p ∈ g.placements, p.state = .placed) →
    let n := s.hides.released + 1
    (s.hides.released = 4294967295 →
      exec (.release h slot code mask) s = .next ((s.hunt .control).replied .control 0x48 h (.refuse .noRoom 0))) ∧
    (s.hides.released < 4294967295 → exec (.release h slot code mask) s =
      .next (((({ s.hunt .control with hides := { s.hides with released := n } : State }.putHide slot
          { g with state := .dispatchWait, release := some ⟨n, u, mask⟩ }).joinWaiting slot).evaluate).accepts
        .control 0x48 h (.released slot n)))

/-! ### The fit test and the nest engine -/

/-- NEST queues a plan that records its lines' pairings, and the idle engine takes the head of its queue. -/
def Obligations.NestsAreQueuedAndTaken : Prop :=
  (∀ (h : Head) (slot : Nat) (steps : List StepReq) (g : Hide) (s : State),
    s.takes .control h (2 + 3 * steps.length) → slot < 12 → s.hide slot = some g →
    (g.state = .mapped ∨ g.state = .nested) → 1 ≤ steps.length → steps.length ≤ 16 →
    (∀ q ∈ steps, q.mode ≤ 1 ∧ 1 ≤ q.quota ∧ ∃ l, s.line q.line = some l ∧ l.state = .active ∧
      (l.pair = none → q.quota ≤ 64) ∧
      ∀ p, l.pair = some p → q.quota ≤ 32 ∧ ∃ m, s.line p.mirror = some m ∧ m.state = .active) →
    let plan := steps.map fun q =>
      ({ line := q.line, quota := q.quota, mode := if q.mode = 0 then .fill else .exact,
         pair := (s.line q.line).bind Line.pair } : PlanStep)
    let t := { (s.hunt .control).putHide slot { g with state := .nestWait } with
      engine := { s.engine with queue := s.engine.queue ++ [⟨slot, plan⟩] } }
    exec (.nest h slot steps) s =
      .next (State.accepts t .control 0x40 h (.queued slot 4 s.engine.queue.length))) ∧
  ∀ (e : QueueEntry) (rest : List QueueEntry) (g : Hide) (s : State),
    s.engine = { queue := e :: rest, pass := none } → s.hide e.slot = some g →
    exec .nestTake s = .next (State.putHide
      { s with engine := { queue := rest, pass := some ⟨e.slot, e.plan, 0, 0, [], .attempt⟩ } } e.slot
      { g with state := .nesting, report := some ⟨[], 0, 0⟩ })

/-- The stop checks of an attempt in their order: hide DISCARDING, line not ACTIVE or its pairing changed, demand met,
list full, quota reached; where none fires, the search for the line's piece begins. -/
def Obligations.StopChecksAreMadeInOrder : Prop :=
  ∀ (p : Pass) (k : PlanStep) (g : Hide) (s : State), s.engine.pass = some p → p.phase = .attempt →
    p.plan[p.step]? = some k → s.hide p.slot = some g →
    let active (id : Nat) : Prop := ∃ l, s.line id = some l ∧ l.state = .active
    let stands : Prop := (∃ l, s.line k.line = some l ∧ l.state = .active ∧ l.pair = k.pair) ∧
      ∀ q, k.pair = some q → active q.mirror
    let wanted : Prop := (∀ l, s.line k.line = some l → l.openUnits ≠ 0) ∧
      ∀ q m, k.pair = some q → s.line q.mirror = some m → m.openUnits ≠ 0
    let roomy : Prop := g.placements.length + p.stack.length + (if k.pair.isSome then 2 else 1) ≤ 160
    let goes (ph : Phase) : Prop := exec .stopChecks s = .next (s.setPhase ph)
    (g.state = .discarding → goes .aborting) ∧
    (g.state ≠ .discarding → ¬ stands → goes (.ending .notActive)) ∧
    (g.state ≠ .discarding → stands → ¬ wanted → goes (.ending .demandMet)) ∧
    (g.state ≠ .discarding → stands → wanted → ¬ roomy → goes (.ending .listFull)) ∧
    (g.state ≠ .discarding → stands → wanted → roomy → p.units = k.quota → goes (.ending .quota)) ∧
    (g.state ≠ .discarding → stands → wanted → roomy → p.units ≠ k.quota →
      ∀ l pc, s.line k.primary = some l → s.piece l.slot = some pc →
        goes (if (candidates g pc).isEmpty then .ending .noFit
          else .search ⟨if k.pair.isSome then .primary else .single, k.primary, l.slot, l.pair, pc, 0⟩))

/-- With clean reads a test passes exactly where every body cell lies in the extent and in a framed tile that is not
poisoned, holds a grade that its zone class allows, has the thickness that the piece asks for, and carries no cover; a
re-test leaves out the extent and the cover. The test changes nothing. -/
def Obligations.FitTestsPassExactlyOnFits : Prop :=
  ∀ (retest : Bool) (slot : Nat) (band : Option (Nat × Nat)) (v : Variant) (x y : Nat) (g : Hide) (s : State),
    s.tape = [] → s.hide slot = some g →
    (fitTest retest slot band v x y s).1 = s ∧
    ((fitTest retest slot band v x y s).2 = .pass ↔ ∀ c ∈ v.body,
      let tile := g.tileOf (x + c.i) (y + c.j)
      (retest = true ∨ x + c.i < g.width ∧ y + c.j < g.height) ∧
      ∃ f, Tab.get g.frames tile = some f ∧ tile ∉ g.poisoned ∧
        (let grade := (Mem.read outsideCode s.grid.contents (cellAddr f (x + c.i) (y + c.j))).toNat
         grade < 4 ∧ grade + 1 ≤ c.zone) ∧
        (∀ b, band = some b → ∃ i j k l, Tab.get g.thick tile = some (.valid i j k l) ∧
          b.1 ≤ (i + j + k + l) / 4 ∧ (i + j + k + l) / 4 ≤ b.2) ∧
        (retest = true ∨ Mem.read noCover s.grid.covers (cellAddr f (x + c.i) (y + c.j)) = 0))

/-- A search tries the usable variants whose boxes stay in the extent, position by position in raster order and by
rising orientation at each; one test is one event, which finds the fit or goes on to the next candidate. -/
def Obligations.SearchesTestTheirCandidatesInOrder : Prop :=
  (∀ (g : Hide) (pc : Piece), Tab.sorted pc.variants = true →
    (∀ o x y, (o, x, y) ∈ candidates g pc ↔ x < g.width ∧ y < g.height ∧
      ∃ v, Tab.get pc.variants o = some v ∧ pc.offsets.getLsbD ((o + 8 - g.backbone % 8) % 8) = true ∧
        x + v.width ≤ g.width ∧ y + v.height ≤ g.height) ∧
    (candidates g pc).Pairwise fun a b =>
      a.2.2 < b.2.2 ∨ a.2.2 = b.2.2 ∧ (a.2.1 < b.2.1 ∨ a.2.1 = b.2.1 ∧ a.1 < b.1)) ∧
  ∀ (p : Pass) (q : Search) (g : Hide) (o x y : Nat) (v : Variant) (reads : List ReadOutcome) (s : State),
    s.engine.pass = some p → p.phase = .search q → s.hide p.slot = some g →
    (candidates g q.piece)[q.tried]? = some (o, x, y) → Tab.get q.piece.variants o = some v →
    let r := fitTest false p.slot q.piece.band v x y { s with tape := reads }
    (r.2 = .pass → exec (.fitTest reads) s = .next { r.1.setPhase (.found q o x y) with tape := s.tape }) ∧
    ∀ code fx fy fresh, r.2 = .fail code fx fy fresh →
      exec (.fitTest reads) s = .next { (r.1.handFresh p.slot fresh).setPhase
        (if q.tried + 1 < (candidates g q.piece).length then .search { q with tried := q.tried + 1 }
         else if q.role = .mirror then .mirrorNoFit else .ending .noFit) with tape := s.tape }

/-- After a fit one unit is reserved, the cover marked and the entry pushed, and a PRIMARY is followed by the search for
its mirror; a refused reserve ends the step, and a mirror that is not laid takes its PRIMARY off the stack, with its
cover unmarked and its unit returned. The cover is that of the piece which the tests used, and a line that is no longer
the one searched for ends the step NOT_ACTIVE (log entry 29), while one that is COMPLETE ends it DEMAND_MET, whatever befell
its mirror (log entry 36). -/
def Obligations.UnitsArePushedOrTheStepEnds : Prop :=
  ∀ (p : Pass) (q : Search) (o x y : Nat) (s : State), s.engine.pass = some p →
    let ends (r : EndReason) : Host.Outcome State Fault Refusal := .next (s.setPhase (.ending r))
    let popped (e : Entry) (rest : List Entry) (r : EndReason) : Host.Outcome State Fault Refusal :=
      .next { (s.unmarkCover p.slot e.slot e.variant e.x e.y).claimReturn e.line with
        engine := { s.engine with pass := some { p with stack := rest, phase := .ending r } } }
    let refused (r : EndReason) : Prop :=
      (q.role ≠ .mirror → exec .unitPush s = ends r) ∧
      ∀ e rest, q.role = .mirror → p.stack = e :: rest → exec .unitPush s = popped e rest r
    (∀ e rest, p.phase = .mirrorNoFit → p.stack = e :: rest → exec .unitPush s = popped e rest .noFit) ∧
    (p.phase = .found q o x y →
      (∀ l v, s.line q.line = some l → l.slot = q.slot → l.pair = q.pair → s.piece q.slot = some q.piece →
        Tab.get q.piece.variants o = some v →
        (l.state = .active → 1 ≤ l.openUnits →
          let t := ((s.putLine q.line { l with openUnits := l.openUnits - 1, reserved := l.reserved + 1 }).markCover
            p.slot q.piece.margin v x y).pushEntry ⟨q.line, q.slot, o, x, y, q.role⟩
          (q.role ≠ .primary → exec .unitPush s = .next (t.countUnit.setPhase .attempt)) ∧
          (∀ k, q.role = .primary → p.plan[p.step]? = some k →
            exec .unitPush s = .next (t.setPhase (beginSearch p.slot .mirror k.mirror .mirrorNoFit t)))) ∧
        (l.state = .active → l.openUnits = 0 → refused .demandMet) ∧
        (l.state = .complete → refused .demandMet) ∧
        (l.state = .cancelling ∨ l.state = .closed → refused .notActive)) ∧
      ((∀ l, s.line q.line = some l → l.slot ≠ q.slot ∨ l.pair ≠ q.pair ∨ s.piece q.slot ≠ some q.piece) →
        refused .notActive))

/-- At the end of a step its entries are committed in push order, or, in EXACT mode without QUOTA, popped newest first,
each with its cover unmarked and its unit returned; the report takes the result and the pass goes on to the next step or
to pass end. -/
def Obligations.StepsEndInACommitOrARollback : Prop :=
  ∀ (p : Pass) (k : PlanStep) (r : EndReason) (g : Hide) (s : State), s.engine.pass = some p →
    p.phase = .ending r → p.plan[p.step]? = some k → s.hide p.slot = some g →
    let next : Pass := { p with step := p.step + 1, units := 0, stack := [],
                                phase := if p.step + 1 < p.plan.length then .attempt else .passEnd }
    (k.mode = .fill ∨ r = .quota →
      exec .stepEnd s = .next ((s.putHide p.slot { g with
        placements := g.placements ++ (p.stack.reverse.zipIdx g.placements.length).map fun e =>
          { line := e.1.line, slot := e.1.slot, variant := e.1.variant, x := e.1.x, y := e.1.y,
            partner := match e.1.role with
              | .single => none
              | .primary => some (e.2 + 1)
              | .mirror => some (e.2 - 1)
            source := .engine, state := .placed, ticket := none, marker := false, reason := none }
        report := g.report.map fun t =>
          ⟨t.steps ++ [⟨k.line, p.units, r, false⟩], t.placementsAdded + p.stack.length,
            t.bodyAdded + (p.stack.map (entryBody s)).sum⟩ }).putPass (some next))) ∧
    (k.mode = .exact → r ≠ .quota →
      let t := p.stack.foldl
        (fun t e => (t.unmarkCover p.slot e.slot e.variant e.x e.y).claimReturn e.line) s
      exec .stepEnd s = .next ((t.putHide p.slot { g with
        report := g.report.map fun t => ⟨t.steps ++ [⟨k.line, 0, r, true⟩], t.placementsAdded, t.bodyAdded⟩ }).putPass
          (some next)))

/-- Pass end applies and sweeps the deferred flaws and then sweeps the deferred tiles, makes the hide NESTED with
NEST_DONE raised, and leaves the engine idle; a pass whose hide is DISCARDING at a test is aborted with its discard
completed.
The model's own choices: the command brings the outcomes of the reads (log entry 3), and PASS_ABORT on a hide that is not
DISCARDING changes nothing (log entry 4). -/
def Obligations.PassesEndOrAreAborted : Prop :=
  ∀ (p : Pass) (g : Hide) (reads : List ReadOutcome) (s : State), s.engine.pass = some p → s.hide p.slot = some g →
    (p.phase = .passEnd → g.state ≠ .discarding →
      let t := g.deferredPoison.foldl (deferredTile p.slot)
        (g.deferred.foldl (deferredFlaw p.slot) { s with tape := reads })
      exec (.passEnd reads) s =
        .next { ((t.modHide p.slot fun k => { k with deferred := [], deferredPoison := [], state := .nested }).raise
          (.hide p.slot .nestDone)).putPass none with tape := s.tape }) ∧
    (p.phase = .passEnd → g.state = .discarding → exec (.passEnd reads) s = .next (s.setPhase .aborting)) ∧
    (p.phase = .attempt ∨ p.phase = .passEnd ∨ p.phase = .aborting → g.state = .discarding →
      exec .passAbort s = .next ((s.completeDiscard p.slot).putPass none)) ∧
    (g.state ≠ .discarding → exec .passAbort s = .next s)

/-! ### Placing by hand and strikes -/

/-- PLACE and PLACE_PAIR reserve their units, mark the cover and commit the placements at the end of the list where the
fit tests pass; where a test fails they are refused NO_FIT with its condition and cell, and the poisoning that it found
stands. -/
def Obligations.PiecesArePlacedByHand : Prop :=
  ∀ (h : Head) (slot id : Nat) (a : Spot) (reads : List ReadOutcome) (g : Hide) (l : Line) (pc : Piece) (v : Variant)
    (s : State), slot < 12 → s.hide slot = some g → (g.state = .mapped ∨ g.state = .nested) →
    s.line id = some l → l.state = .active → 1 ≤ l.openUnits →
    a.orientation < 8 → a.x < g.width → a.y < g.height → s.piece l.slot = some pc →
    pc.offsets.getLsbD ((a.orientation + 8 - g.backbone % 8) % 8) = true → Tab.get pc.variants a.orientation = some v →
    let r := fitTest false slot pc.band v a.x a.y { s.hunt .control with tape := reads }
    let n := g.placements.length
    let reserved (l : Line) : Line := { l with openUnits := l.openUnits - 1, reserved := l.reserved + 1 }
    let record (id slot : Nat) (b : Spot) (partner : Option Nat) : Placement :=
      { line := id, slot := slot, variant := b.orientation, x := b.x, y := b.y, partner := partner, source := .manual,
        state := .placed, ticket := none, marker := false, reason := none }
    (s.takes .control h 7 → l.pair = none → n + 1 ≤ 160 →
      (r.2 = .pass →
        exec (.place h slot id a.orientation a.x a.y reads) s =
          .next { ((((r.1.putLine id (reserved l)).markCover slot pc.margin v a.x a.y).modHide slot fun k =>
              { k with placements := k.placements ++ [record id l.slot a none], state := .nested }).accepts .control
                0x41 h (.placed [(n, record id l.slot a none)] 6)) with tape := s.tape }) ∧
      ∀ code fx fy fresh, r.2 = .fail code fx fy fresh →
        exec (.place h slot id a.orientation a.x a.y reads) s =
          .next { ((r.1.handFresh slot fresh).replied .control 0x41 h (.refuseNoFit code fx fy)) with
            tape := s.tape }) ∧
    ∀ (q : Pairing) (m : Line) (b : Spot) (pc2 : Piece) (v2 : Variant),
      s.takes .control h 12 → l.pair = some q → q.mirror ≠ id → s.line q.mirror = some m → m.state = .active →
      1 ≤ m.openUnits → b.orientation < 8 → b.x < g.width → b.y < g.height → s.piece m.slot = some pc2 →
      pc2.offsets.getLsbD ((b.orientation + 8 - g.backbone % 8) % 8) = true →
      Tab.get pc2.variants b.orientation = some v2 → n + 2 ≤ 160 →
      let r2 := fitTest false slot pc2.band v2 b.x b.y (r.1.markCover slot pc.margin v a.x a.y)
      let both := [record id l.slot a (some (n + 1)), record q.mirror m.slot b (some n)]
      (r.2 = .pass → r2.2 = .pass →
        exec (.placePair h slot id a b reads) s =
          .next { (((((r2.1.putLine id (reserved l)).putLine q.mirror (reserved m)).markCover slot pc2.margin v2 b.x
              b.y).modHide slot fun k => { k with placements := k.placements ++ both, state := .nested }).accepts
                .control 0x42 h (.placed (both.zipIdx n |>.map fun e => (e.2, e.1)) 6)) with tape := s.tape }) ∧
      (∀ code fx fy fresh, r.2 = .fail code fx fy fresh →
        exec (.placePair h slot id a b reads) s =
          .next { ((r.1.handFresh slot fresh).replied .control 0x42 h (.refuseNoFit code fx fy)) with
            tape := s.tape }) ∧
      ∀ code fx fy fresh, r.2 = .pass → r2.2 = .fail code fx fy fresh →
        exec (.placePair h slot id a b reads) s =
          .next { (((r2.1.unmarkCover slot l.slot a.orientation a.x a.y).handFresh slot fresh).replied .control 0x42 h
            (.refuseNoFit (16 + code) fx fy)) with tape := s.tape }

/-- A strike makes a PLACED placement STRUCK, unmarks its cover, returns its unit and raises STRUCK, and does the same
to a partner that is PLACED; STRIKE then settles the hide. -/
def Obligations.StrikesTakeThePlacedPartner : Prop :=
  (∀ (slot i : Nat) (p : Placement) (s : State), s.placement slot i = some p → p.state = .placed →
    let one (s : State) (i : Nat) (p : Placement) : State :=
      (((s.modPlacement slot i fun q => { q with state := .struck }).unmarkCover slot p.slot p.variant p.x
        p.y).claimReturn p.line).raise (.hide slot .struck)
    ((∀ j, p.partner = some j → ∀ q, s.placement slot j = some q → q.state ≠ .placed) →
      (∀ j, p.partner = some j → j ≠ i) → s.strike slot i = one s i p ∧ s.strikeCount slot i = 1) ∧
    ∀ j q, p.partner = some j → j ≠ i → s.placement slot j = some q → q.state = .placed →
      s.strike slot i = one (one s i p) j q ∧ s.strikeCount slot i = 2) ∧
  ∀ (h : Head) (slot i : Nat) (g : Hide) (p : Placement) (s : State), s.takes .control h 2 → slot < 12 →
    s.hide slot = some g → (g.state = .nested ∨ g.state = .dispatchWait ∨ g.state = .cutting) →
    g.placements[i]? = some p → p.state = .placed →
    let t := ((s.hunt .control).strike slot i).settle slot
    exec (.strike h slot i) s =
      .next (t.accepts .control 0x43 h (.struck (s.strikeCount slot i) (stateCode t slot)))

/-- A strike sweep re-tests the PLACED placements whose body meets its area, in ascending index, with conditions 2 to 5,
and strikes those that fail; it then gives the TICKETED placements whose body meets the changed cells the marker, with
FLAW_AFTER_ISSUE raised for each. Further rounds go over the tiles that the round before poisoned, and the sweep ends
after a round that poisons none, the first where every read is clean. A poisoning is swept over the cells of its tile, and
a flaw over its rectangle and the tiles that its application poisoned. -/
def Obligations.SweepsRetestStrikeAndMark : Prop :=
  (∀ (slot i : Nat) (p : Placement) (w : Sweep), w.s.placement slot i = some p →
    (p.state ≠ .placed → Sweep.retest slot w i = w) ∧
    (∀ pc v, p.state = .placed → w.s.piece p.slot = some pc → Tab.get pc.variants p.variant = some v →
      let r := fitTest true slot pc.band v p.x p.y w.s
      (r.2 = .pass → Sweep.retest slot w i = { w with s := r.1 }) ∧
      ∀ code fx fy fresh, r.2 = .fail code fx fy fresh → Sweep.retest slot w i = { w with
        s := r.1.strike slot i, struck := w.struck + r.1.strikeCount slot i, fresh := joinFresh fresh w.fresh }) ∧
    Sweep.mark slot w i = { w with
      s := (w.s.modPlacement slot i fun q => { q with marker := true }).raise (.hide slot .flawAfterIssue)
      marked := insertNat i w.marked }) ∧
  (∀ (slot : Nat) (st : PlacementState) (area : Nat → Nat → Bool) (g : Hide) (s : State), s.hide slot = some g →
    (s.meeting slot st area).Pairwise (· < ·) ∧
    ∀ i, i ∈ s.meeting slot st area ↔ ∃ p pc v, g.placements[i]? = some p ∧ p.state = st ∧
      s.piece p.slot = some pc ∧ Tab.get pc.variants p.variant = some v ∧
      ∃ c ∈ v.body, area (p.x + c.i) (p.y + c.j) = true) ∧
  (∀ (slot : Nat) (area changed : Nat → Nat → Bool) (w : Sweep),
    let a := (w.s.meeting slot .placed area).foldl (Sweep.retest slot) { w with fresh := [] }
    Sweep.round slot area changed w = (a.s.meeting slot .ticketed changed).foldl (Sweep.mark slot) a) ∧
  (∀ (slot : Nat) (area changed : Nat → Nat → Bool) (g : Hide) (s : State), s.hide slot = some g →
    s.canonical = true → (∀ e ∈ g.frames, e.1 < g.cols * g.tileRows) →
    let first := Sweep.round slot area changed ⟨s, 0, [], []⟩
    let last := s.sweep slot area changed
    (s.tape = [] → last = first) ∧ last.fresh = [] ∧
    ∃ n, last = Nat.repeat (fun w => if w.fresh = [] then w else
      let tiles (x y : Nat) : Bool := decide (g.tileOf x y ∈ w.fresh)
      Sweep.round slot tiles tiles w) n first) ∧
  ∀ (slot tile : Nat) (rect : Rect) (a : Applied) (g : Hide), a.s.hide slot = some g →
    (let cells (x y : Nat) : Bool := decide (g.tileOf x y = tile)
     a.s.sweepTile slot tile = a.s.sweep slot cells cells) ∧
    sweepFlaw slot rect a = a.s.sweep slot
      (fun x y => decide (rect.x0 ≤ x ∧ x ≤ rect.x1 ∧ rect.y0 ≤ y ∧ y ≤ rect.y1 ∨ g.tileOf x y ∈ a.fresh))
      fun x y => decide ((x, y) ∈ a.changed ∨ g.tileOf x y ∈ a.fresh)

/-- The cover of a placement is counted in the cells within the margin of some cell of its body, where they lie in the
extent and in framed tiles: marking adds one in each and unmarking takes one away, and neither changes any other cell;
unmarking undoes marking.
A read of a poisoned tile or of a tile without a frame makes no check. Any other read takes the next outcome that its
command brings (log entry 3): a clean one gives the content, a single-bit error the content with the corrected count
raised, up to 65535, and an uncorrectable one poisons the tile with FRAME_POISONED raised. A poisoning is deferred on a
NESTING hide, swept at once on one with placements, and otherwise handled no further. -/
def Obligations.CoverIsCountedAndReadsAreChecked : Prop :=
  (∀ (margin x y : Nat) (v : Variant) (g : Hide), (∀ c ∈ v.body, c.i < v.width ∧ c.j < v.height) →
    (g.frames.map (·.2)).Nodup → (claimed g margin v x y).Nodup ∧
    ∀ a, a ∈ claimed g margin v x y ↔ ∃ X Y, g.cellAt X Y = some a ∧ ∃ c ∈ v.body,
      X ≤ x + c.i + margin ∧ x + c.i ≤ X + margin ∧ Y ≤ y + c.j + margin ∧ y + c.j ≤ Y + margin) ∧
  (∀ (slot x y : Nat) (k o : Nat) (pc : Piece) (v : Variant) (g : Hide) (s : State), s.hide slot = some g →
    (g.frames.map (·.2)).Nodup → s.piece k = some pc → Tab.get pc.variants o = some v →
    let m := s.markCover slot pc.margin v x y
    let u := s.unmarkCover slot k o x y
    (m = { s with grid := { s.grid with covers := m.grid.covers } } ∧
      u = { s with grid := { s.grid with covers := u.grid.covers } }) ∧
    (∀ a ∈ claimed g pc.margin v x y,
      Mem.read noCover m.grid.covers a = Mem.read noCover s.grid.covers a + 1 ∧
      Mem.read noCover u.grid.covers a = Mem.read noCover s.grid.covers a - 1) ∧
    (∀ a, a ∉ claimed g pc.margin v x y →
      Mem.read noCover m.grid.covers a = Mem.read noCover s.grid.covers a ∧
      Mem.read noCover u.grid.covers a = Mem.read noCover s.grid.covers a) ∧
    (Mem.wf noCover s.grid.covers = true → m.unmarkCover slot k o x y = s)) ∧
  (∀ (slot x y : Nat) (g : Hide) (s : State), s.hide slot = some g →
    let tile := g.tileOf x y
    (Tab.get g.frames tile = none → s.readCell slot x y = (s, .noFrame)) ∧
    ∀ f, Tab.get g.frames tile = some f →
      let n := (Mem.read outsideCode s.grid.contents (cellAddr f x y)).toNat
      let t : State := { s with tape := s.tape.tail }
      (tile ∈ g.poisoned → s.readCell slot x y = (s, .poisoned false)) ∧
      (tile ∉ g.poisoned →
        (∀ held, (∀ e : Grade, n = e.val → held = .grade e) → (4 ≤ n → held = .outside) →
          (s.tape.head? = none ∨ s.tape.head? = some .clean → s.readCell slot x y = (t, held)) ∧
          (s.tape.head? = some .singleBit → s.readCell slot x y =
            ({ t with grid := { s.grid with corrected := min 65535 (s.grid.corrected + 1) } }, held))) ∧
        (s.tape.head? = some .uncorrectable → s.readCell slot x y =
          ((t.putHide slot { g with poisoned := insertNat tile g.poisoned }).raise (.store .framePoisoned),
            .poisoned true)))) ∧
  ∀ (slot tile : Nat) (g : Hide) (s : State), s.hide slot = some g →
    (∀ k, k ∈ insertNat tile g.poisoned ↔ k = tile ∨ k ∈ g.poisoned) ∧
    (g.state = .mapping ∨ g.state = .committing ∨ g.state = .discarding → s.handPoison slot tile = s) ∧
    (g.state = .nesting → s.handPoison slot tile =
      s.putHide slot { g with deferredPoison := insertNat tile g.deferredPoison }) ∧
    (g.state ∈ [.mapped, .nestWait, .nested, .dispatchWait, .cutting, .done] →
      s.handPoison slot tile = (s.sweepTile slot tile).s.settle slot)

/-! ### Dispatch -/

/-- HOLD moves every RUNNING or DRAINING channel to HELD; RUN moves every HELD channel back by what its hide holds, and
the arbiter then evaluates. Their replies give the dispatch state, the ratio counter, the last granted channel, and the
waiting list with each hide's release number and urgency. -/
def Obligations.HoldAndRunMoveTheChannels : Prop :=
  ∀ (h : Head) (s : State), s.takes .control h 0 →
    (let t := { s.hunt .control with
       arbiter := { s.arbiter with state := .hold }
       chans := s.chans.map fun (ch : Channel) =>
         if ch.state = ChannelState.running ∨ ch.state = ChannelState.draining then { ch with state := .held } else ch }
     exec (.hold h) s = .next (t.accepts .control 0x49 h (.holding t.dispatchView))) ∧
    (s.dispatchView.state = s.arbiter.state ∧ s.dispatchView.ratio = s.arbiter.ratio ∧
      s.dispatchView.lastGranted = s.arbiter.lastGranted ∧ s.dispatchView.waiting.map Prod.fst = s.arbiter.waiting ∧
      ∀ e ∈ s.dispatchView.waiting, ∀ g r, s.hide e.1 = some g → g.release = some r → e.2 = (r.number, r.urgency)) ∧
    let t := { s.hunt .control with
      arbiter := { s.arbiter with state := .run }
      chans := s.chans.map fun (ch : Channel) =>
        if ch.state = ChannelState.held then
          { ch with state := if (ch.hide.bind s.hide).any Hide.anyPlaced then .running else .draining }
        else ch }
    exec (.run h) s = .next (t.evaluate.accepts .control 0x4A h (.running t.evaluate.dispatchView t.grantCount))

/-- After an event that changed placements, a waiting hide with no PLACED placement leaves the list and is DONE, and a
hide being cut moves with its channel by what it holds; a hide in another state stays as it is. -/
def Obligations.HidesAndChannelsAreSettled : Prop :=
  ∀ (slot : Nat) (g : Hide) (s : State), s.hide slot = some g →
    let done (t : State) : State :=
      (t.putHide slot { g with state := .done, channel := none }).raise (.hide slot .hideDone)
    (g.state ≠ .dispatchWait → g.state ≠ .cutting → s.settle slot = s) ∧
    (g.state = .dispatchWait → g.anyPlaced = true → s.settle slot = s) ∧
    (g.state = .dispatchWait → g.anyPlaced = false → s.settle slot = done { s with
      arbiter := { s.arbiter with waiting := s.arbiter.waiting.filter fun k => decide (k ≠ slot) } }) ∧
    ∀ c, g.state = .cutting → g.channel = some c →
      let atWork := (s.chan c).state = .running ∨ (s.chan c).state = .draining
      (g.anyPlaced = true → atWork → s.settle slot = s.putChan c { s.chan c with state := .running }) ∧
      (g.anyPlaced = false → g.anyTicketed = true → atWork →
        s.settle slot = s.putChan c { s.chan c with state := .draining }) ∧
      (g.anyPlaced = true ∨ g.anyTicketed = true → (s.chan c).state = .held → s.settle slot = s) ∧
      (g.anyPlaced = false → g.anyTicketed = false →
        s.settle slot = (done (s.putChan c { s.chan c with state := .idle, hide := none })).evaluate)

/-- An evaluation makes no grant in HOLD; in RUN it makes one grant after another, at most four, until no waiting hide is
grantable. A grant takes the class that the ratio counter gives, the first hide of that class on the waiting list that is
grantable, and the channel that CUTTER_PICK gives among the IDLE ones that the hide's mask names. The list stands by
release number, which O58 states; the channel keeps its record of an outstanding request (log entry 22). -/
def Obligations.GrantsAreMadeByClassHideAndChannel : Prop :=
  (∀ s : State, (s.arbiter.state = .hold → s.evaluate = s ∧ s.grantCount = 0) ∧ s.grantCount ≤ 4 ∧
    (s.nextGrant = none → s.evaluate = s ∧ s.grantCount = 0) ∧
    (∀ t, s.nextGrant = some t → s.evaluate = t.evaluate ∧ s.grantCount = t.grantCount + 1) ∧
    (s.arbiter.state = .run → ∀ slot ∈ s.evaluate.arbiter.waiting, ∀ g r c, s.evaluate.hide slot = some g →
      g.release = some r → r.mask.getLsbD c.1 = true → (s.evaluate.chan c).state ≠ .idle)) ∧
  (∀ (before after : List Nat) (slot : Nat) (g : Hide) (r : Release) (c : Fin 4) (s : State),
    s.arbiter.state = .run → s.arbiter.waiting = before ++ slot :: after → s.hide slot = some g → g.release = some r →
    let free (r : Release) (c : Fin 4) : Prop := r.mask.getLsbD c.1 = true ∧ (s.chan c).state = .idle
    let grantable (u : Urgency) (k : Nat) : Prop :=
      ∃ g r, s.hide k = some g ∧ g.release = some r ∧ r.urgency = u ∧ ∃ c, free r c
    let contest : Prop := (∃ k ∈ s.arbiter.waiting, grantable .rush k) ∧ ∃ k ∈ s.arbiter.waiting, grantable .normal k
    free r c → (∀ k ∈ before, ¬ grantable r.urgency k) →
    (contest → if s.arbiter.ratio < s.settings.rushRatio then r.urgency = .rush else r.urgency = .normal) →
    (s.settings.pick = .lowest → ∀ d < c, ¬ free r d) →
    (s.settings.pick = .rotate → ∀ k < c - (s.arbiter.lastGranted + 1), ¬ free r (s.arbiter.lastGranted + 1 + k)) →
    ∀ n, (contest → r.urgency = .rush → n = s.arbiter.ratio + 1) → (¬ contest ∨ r.urgency = .normal → n = 0) →
    s.nextGrant = some { (s.putHide slot { g with state := .cutting, channel := some c }).putChan c
        { s.chan c with state := .running, hide := some slot, queryCount := 0, deadlines := [] } with
      arbiter := { state := .run, waiting := s.arbiter.waiting.filter fun k => decide (k ≠ slot),
                   ratio := n, lastGranted := c } })

/-! ### The cutter channels -/

/-- CUTTER_ENABLE and READY set their flags, and a STOPPED channel with both becomes IDLE with an evaluation;
CUTTER_DISABLE clears the flag and stops an IDLE channel, and is refused by a channel at work. -/
def Obligations.ChannelsEnterAndLeaveService : Prop :=
  ∀ (c : Fin 4) (h : Head) (s : State),
    let view (t : State) : Result := .channel c (t.chan c).state (t.chan c).enabled (t.chan c).ready
    (s.takes .control h 1 →
      (let t := (s.hunt .control).putChan c { s.chan c with enabled := true }
       ((s.chan c).state = .stopped → (s.chan c).ready = true →
          let u := (t.putChan c { t.chan c with state := .idle }).evaluate
          exec (.cutterEnable h c.1) s = .next (u.accepts .control 0x50 h (view u))) ∧
       ((s.chan c).state ≠ .stopped ∨ (s.chan c).ready = false →
          exec (.cutterEnable h c.1) s = .next (t.accepts .control 0x50 h (view t)))) ∧
      ((s.chan c).state = .stopped ∨ (s.chan c).state = .idle ∨ (s.chan c).state = .faulted →
        let t := (s.hunt .control).putChan c { s.chan c with
          enabled := false, state := if (s.chan c).state = .idle then .stopped else (s.chan c).state }
        exec (.cutterDisable h c.1) s = .next (t.accepts .control 0x51 h (view t))) ∧
      ((s.chan c).state = .running ∨ (s.chan c).state = .draining ∨ (s.chan c).state = .held ∨
          (s.chan c).state = .aborting →
        exec (.cutterDisable h c.1) s = .next
          ((s.hunt .control).replied .control 0x51 h (.refuse .wrongState (s.chan c).state.code)))) ∧
    ∀ reads, s.takes (.cutter c) h 0 →
      let w := { s.hunt (.cutter c) with tape := reads }
      let t := (w.putChan c { s.chan c with ready := true }).raise (.channel c .readySeen)
      let taken (t : State) : Prop :=
        exec (.ready c h reads) s = .next { t.accepts (.cutter c) 0x68 h .nothing with tape := s.tape }
      ((s.chan c).state = .idle → taken w) ∧
      ((s.chan c).state = .faulted → taken t) ∧
      ((s.chan c).state = .stopped → (s.chan c).enabled = false → taken t) ∧
      ((s.chan c).state = .stopped → (s.chan c).enabled = true →
        taken (t.putChan c { t.chan c with state := .idle }).evaluate)

/-- One return check: a placement whose partner is STRUCK is struck; one with the marker is re-tested, and loses the
marker or is struck; any other placement stays as it is. -/
def Obligations.ReturnChecksAreMade : Prop :=
  (∀ (slot i : Nat) (p : Placement) (w : Sweep), w.s.placement slot i = some p → p.state = .placed →
    let partnerStruck : Prop := ∃ j q, p.partner = some j ∧ w.s.placement slot j = some q ∧ q.state = .struck
    (partnerStruck →
      returnCheck slot w i = { w with s := w.s.strike slot i, struck := w.struck + w.s.strikeCount slot i }) ∧
    (¬ partnerStruck → p.marker = false → returnCheck slot w i = w) ∧
    ∀ pc v, ¬ partnerStruck → p.marker = true → w.s.piece p.slot = some pc → Tab.get pc.variants p.variant = some v →
      let r := fitTest true slot pc.band v p.x p.y w.s
      (r.2 = .pass →
        returnCheck slot w i = { w with s := r.1.modPlacement slot i fun q => { q with marker := false } }) ∧
      ∀ code fx fy fresh, r.2 = .fail code fx fy fresh →
        returnCheck slot w i = { w with
          s := r.1.strike slot i, struck := w.struck + r.1.strikeCount slot i,
          fresh := joinFresh fresh w.fresh }) ∧
  ∀ (slot i : Nat) (w : Sweep), (∀ p, w.s.placement slot i = some p → p.state ≠ .placed) → returnCheck slot w i = w

/-- A channel fault records its cause, drops what the channel held, and raises FAULT: a channel at work gives its hide
back, to the waiting list or to DONE, and the arbiter evaluates; an ABORTING one completes the discard. -/
def Obligations.ChannelFaultsGiveTheHideBack : Prop :=
  ∀ (c : Fin 4) (cause : FaultCause) (code : Nat) (s : State),
    let record : Channel := { s.chan c with
      state := .faulted, hide := none, deadlines := [], queryCount := 0, outstanding := none,
      lastFault := some (cause, code), ready := decide (cause = .cutterRestarted) }
    let faulted (t : State) : State := (t.putChan c record).raise (.channel c .fault)
    ((s.chan c).state = .stopped ∨ (s.chan c).state = .idle ∨ (s.chan c).state = .faulted →
      s.channelFault c cause code = faulted s) ∧
    ∀ slot g, (s.chan c).hide = some slot → s.hide slot = some g →
      ((s.chan c).state = .aborting → s.channelFault c cause code = faulted (s.completeDiscard slot)) ∧
      ((s.chan c).state = .running ∨ (s.chan c).state = .draining ∨ (s.chan c).state = .held →
        let u := s.returnAll c slot
        ∀ k, u.hide slot = some k →
          (k.anyPlaced = true → s.channelFault c cause code =
            (faulted ((State.joinWaiting slot (u.putHide slot { k with state := .dispatchWait, channel := none })).raise
              (.hide slot .redispatch))).evaluate) ∧
          (k.anyPlaced = false → s.channelFault c cause code =
            (faulted ((u.putHide slot { k with state := .done, channel := none }).raise
              (.hide slot .hideDone))).evaluate)) ∧
      (Tab.sorted s.hides.slots = true →
        (∀ p ∈ g.placements, p.state = .ticketed → (p.ticket.map Prod.snd) = some c → p.marker = false ∧
          ∀ j q, p.partner = some j → g.placements[j]? = some q → q.state ≠ .struck) →
        s.returnAll c slot = s.putHide slot { g with placements := g.placements.map fun p =>
          if p.state = .ticketed ∧ (p.ticket.map Prod.snd) = some c then { p with state := .placed, ticket := none }
          else p })

/-- CUTTER_FAULT, and READY from a cutter at work, fault the channel. CUTTER_RESET gives the hide back or completes its
discard, clears the channel's record but for enabled, its last fault and a ready flag set while FAULTED, and leaves the
channel STOPPED, or IDLE where both flags are set. -/
def Obligations.CuttersFaultAndCutterResetStopsTheChannel : Prop :=
  (∀ (c : Fin 4) (h : Head) (code : Nat) (reads : List ReadOutcome) (s : State),
    let w := { s.hunt (.cutter c) with tape := reads }
    (s.takes (.cutter c) h 2 → exec (.cutterFault c h code reads) s =
      .next { (w.channelFault c .cutterFault code).accepts (.cutter c) 0x6A h .nothing with tape := s.tape }) ∧
    (s.takes (.cutter c) h 0 → (s.chan c).state ≠ .stopped → (s.chan c).state ≠ .idle → (s.chan c).state ≠ .faulted →
      exec (.ready c h reads) s =
        .next { (w.channelFault c .cutterRestarted 0).accepts (.cutter c) 0x68 h .nothing with tape := s.tape })) ∧
  (∀ (c : Fin 4) (h : Head) (reads : List ReadOutcome) (s : State), s.takes .control h 1 →
    let ch := s.chan c
    let ready := decide (ch.state = .faulted) && ch.ready
    let idle := ch.enabled && ready
    let record : Channel := { ch with
      state := if idle then .idle else .stopped, hide := none, deadlines := [], queryCount := 0, outstanding := none,
      ready := ready, ticketCounter := 1 }
    let w := { s.hunt .control with tape := reads }
    let taken (t : State) : Prop := exec (.cutterReset h c.1 reads) s = .next { t.accepts .control 0x52 h
      (.channel c (t.chan c).state (t.chan c).enabled (t.chan c).ready) with tape := s.tape }
    (ch.state = .stopped ∨ ch.state = .idle ∨ ch.state = .faulted →
      taken (if idle then (w.putChan c record).evaluate else w.putChan c record)) ∧
    ∀ slot g, ch.hide = some slot → s.hide slot = some g →
      (ch.state = .aborting → taken ((w.completeDiscard slot).putChan c record)) ∧
      (ch.state = .running ∨ ch.state = .draining ∨ ch.state = .held →
        let u := w.returnAll c slot
        ∀ k, u.hide slot = some k →
          (k.anyPlaced = true →
            taken ((((State.joinWaiting slot (u.putHide slot { k with state := .dispatchWait, channel := none })).raise
              (.hide slot .redispatch)).putChan c record).evaluate)) ∧
          (k.anyPlaced = false →
            taken (((u.putHide slot { k with state := .done, channel := none }).raise
              (.hide slot .hideDone)).putChan c record))))

/-- CUT_REPORT resolves the placement that is out on the channel under the report's number: CUT takes a resolve,
SPOILED and SKIPPED a return, and SKIPPED its cover; a report that matches none is STALE and raises STALE_REPORT. Of two
placements out under one number the lower index is resolved (log entry 38). -/
def Obligations.CutReportsResolveTickets : Prop :=
  ∀ (c : Fin 4) (h : Head) (n outcome reason detail : Nat) (s : State), s.takes (.cutter c) h 6 →
    let w := s.hunt (.cutter c)
    let out (p : Placement) : Prop := p.state = .ticketed ∧ p.ticket = some (n, c)
    let atWork := (s.chan c).state = .running ∨ (s.chan c).state = .draining ∨ (s.chan c).state = .held
    (2 < outcome → exec (.cutReport c h n outcome reason detail) s =
      .next (w.replied (.cutter c) 0x69 h (.refuse .range 1))) ∧
    (outcome ≤ 2 → (¬ atWork ∨ (s.chan c).hide = none ∨
        ∃ slot g, (s.chan c).hide = some slot ∧ s.hide slot = some g ∧ ∀ p ∈ g.placements, ¬ out p) →
      exec (.cutReport c h n outcome reason detail) s =
        .next ((w.raise (.channel c .staleReport)).replied (.cutter c) 0x69 h (.refuse .stale n))) ∧
    ∀ slot g i p, atWork → (s.chan c).hide = some slot → s.hide slot = some g → g.placements[i]? = some p → out p →
      (∀ j q, j < i → g.placements[j]? = some q → ¬ out q) →
      let ends (t : State) : State := (t.putChan c { t.chan c with
        deadlines := (t.chan c).deadlines.filter fun d => decide (d.ticket ≠ ⟨n, i⟩), queryCount := 0 }).settle slot
      (outcome = 0 → exec (.cutReport c h n outcome reason detail) s = .next ((ends
        ((w.modPlacement slot i fun q => { q with state := .cut }).claimResolve p.line)).accepts (.cutter c) 0x69 h
          .nothing)) ∧
      (outcome = 1 → exec (.cutReport c h n outcome reason detail) s = .next ((ends
        ((w.modPlacement slot i fun q => { q with state := .spoiled }).claimReturn p.line)).accepts (.cutter c) 0x69 h
          .nothing)) ∧
      (outcome = 2 → exec (.cutReport c h n outcome reason detail) s = .next ((ends
        (((w.modPlacement slot i fun q => { q with state := .skipped, reason := some (reason, detail) }).unmarkCover
          slot p.slot p.variant p.x p.y).claimReturn p.line)).accepts (.cutter c) 0x69 h .nothing))

/-- A RUNNING channel with room in its window, no request outstanding and no query due sends a ticket for the first
PLACED placement of its hide; the answer ends the request, a REFUSE skips the placement that the TICKET was sent for,
where it is still out under the number, and a timeout leaves it out. While a reply's frame is being sent on its link it
sends none (log entries 2 and 4), and the channel is settled at the send (log entry 35). -/
def Obligations.TicketsAreSentAndAnswered : Prop :=
  ∀ (c : Fin 4) (slot : Nat) (g : Hide) (s : State), (s.chan c).hide = some slot → s.hide slot = some g →
    let ch := s.chan c
    let n := ch.ticketCounter
    (∀ i p pc, (∀ q, (s.link (.cutter c)).inHand = some q → q.begun = false) → ch.state = .running →
      s.ticketsOut c < s.settings.window c → ch.outstanding = none →
      (∀ d ∈ ch.deadlines, d.expired = false) → g.placements[i]? = some p → p.state = .placed →
      (∀ j q, j < i → g.placements[j]? = some q → q.state ≠ .placed) → s.piece p.slot = some pc →
      let t := (s.modPlacement slot i fun q => { q with state := .ticketed, ticket := some (n, c) }).putChan c { ch with
        outstanding := some ⟨.ticket ⟨n, i⟩, ch.nextTag⟩, nextTag := (ch.nextTag + 1) % 256
        deadlines := ch.deadlines ++ [⟨⟨n, i⟩, s.settings.cutDeadline, false⟩]
        ticketCounter := if n = 65535 then 1 else n + 1 }
      exec (.ticketSend c) s = .next ({ t with
        sent := ⟨.cutter c, ch.nextTag, .ticket n g.tag i pc.code p.variant p.x p.y⟩ :: s.sent }.settle slot)) ∧
    (ch.state ≠ .running ∨ s.settings.window c ≤ s.ticketsOut c ∨ ch.outstanding ≠ none ∨
        (∃ d ∈ ch.deadlines, d.expired = true) ∨ (∀ p ∈ g.placements, p.state ≠ .placed) ∨
        (∃ q, (s.link (.cutter c)).inHand = some q ∧ q.begun = true) →
      exec (.ticketSend c) s = .next s) ∧
    ∀ m i tag, ch.outstanding = some ⟨.ticket ⟨m, i⟩, tag⟩ →
      let out (p : Placement) : Prop := p.state = .ticketed ∧ p.ticket = some (m, c)
      let w := (s.hunt (.cutter c)).putChan c { ch with outstanding := none }
      exec (.ticketAnswer c tag .accept) s = .next w ∧
      exec (.ticketTimeout c) s = .next (s.putChan c { ch with outstanding := none }) ∧
      (∀ reason detail, (ch.state = .aborting ∨ ∀ p, g.placements[i]? = some p → ¬ out p) →
        exec (.ticketAnswer c tag (.refuse reason detail)) s = .next w) ∧
      ∀ reason detail p, ch.state = .running ∨ ch.state = .draining ∨ ch.state = .held →
        g.placements[i]? = some p → out p →
        let t := (((w.modPlacement slot i fun q => { q with
          state := .skipped, reason := some (reason, detail) }).unmarkCover slot p.slot p.variant p.x p.y).claimReturn
            p.line)
        exec (.ticketAnswer c tag (.refuse reason detail)) s = .next ((t.putChan c { t.chan c with
          deadlines := (t.chan c).deadlines.filter fun d => decide (d.ticket ≠ ⟨m, i⟩) }).settle slot)

/-- A deadline that runs out makes its ticket expired; the first expired ticket is queried where no request is
outstanding and no reply's frame is being sent on the link (log entry 2), and the answer resolves the ticket, returns it, or
restarts its deadline and raises the query count, which QUERY_LIMIT bounds. A query whose ticket is no longer out, and one
in ABORTING, is ended by its answer or timeout, which changes nothing else. -/
def Obligations.OverdueTicketsAreQueried : Prop :=
  (∀ (c : Fin 4) (slot : Nat) (g : Hide) (i m : Nat) (p : Placement) (s : State), (s.chan c).hide = some slot →
    s.hide slot = some g → (s.chan c).state = .running ∨ (s.chan c).state = .draining ∨ (s.chan c).state = .held →
    g.placements[i]? = some p → p.state = .ticketed → p.ticket = some (m, c) →
    let ch := s.chan c
    exec (.deadlineExpiry c ⟨m, i⟩) s = .next (s.putChan c { ch with
      deadlines := ch.deadlines.map fun d => if d.ticket = ⟨m, i⟩ then { d with expired := true } else d }) ∧
    (∀ a d b, (∀ q, (s.link (.cutter c)).inHand = some q → q.begun = false) → ch.outstanding = none →
      ch.deadlines = a ++ d :: b → d.ticket = ⟨m, i⟩ → d.expired = true →
      (∀ e ∈ a, e.expired = false) →
      exec (.ticketQuerySend c) s = .next { s.putChan c { ch with
          outstanding := some ⟨.query ⟨m, i⟩, ch.nextTag⟩, nextTag := (ch.nextTag + 1) % 256 } with
        sent := ⟨.cutter c, ch.nextTag, .ticketQuery m g.tag i⟩ :: s.sent }) ∧
    ∀ tag reads, ch.outstanding = some ⟨.query ⟨m, i⟩, tag⟩ →
      let w := { (s.hunt (.cutter c)).putChan c { ch with outstanding := none } with tape := reads }
      let restarted (t : State) : State := t.putChan c { t.chan c with
        deadlines := (t.chan c).deadlines.map fun d =>
          if d.ticket = ⟨m, i⟩ then { d with seconds := s.settings.cutDeadline, expired := false } else d
        queryCount := (t.chan c).queryCount + 1 }
      let counted (t : State) : State :=
        if ch.queryCount + 1 < s.settings.queryLimit then restarted t
        else match s.settings.overdue with
          | .wait =>
            let u := (restarted t).raise (.channel c .overdue)
            u.putChan c { u.chan c with queryCount := 0 }
          | .fail => (restarted t).channelFault c .queryLimit m
      (∀ o reason detail, exec (.queryAnswer c tag (.finished o reason detail) reads) s =
        .next { w.resolveReport c ⟨m, i⟩ slot o (reason, detail) with tape := s.tape }) ∧
      exec (.queryAnswer c tag .inProgress reads) s = .next { counted w with tape := s.tape } ∧
      (∀ reason detail, exec (.queryAnswer c tag (.refuse reason detail) reads) s =
        .next { counted w with tape := s.tape }) ∧
      exec (.queryTimeout c reads) s =
        .next { counted { s.putChan c { ch with outstanding := none } with tape := reads } with tape := s.tape } ∧
      exec (.queryAnswer c tag .unknown reads) s =
        .next { (State.returnChecks slot [i] (let t := w.modPlacement slot i fun q => { q with
            state := .placed, ticket := none }
          t.putChan c { t.chan c with
            deadlines := (t.chan c).deadlines.filter fun d => decide (d.ticket ≠ ⟨m, i⟩) })).settle slot with
          tape := s.tape }) ∧
  ∀ (c : Fin 4) (slot : Nat) (g : Hide) (i m tag : Nat) (s : State), (s.chan c).hide = some slot →
    s.hide slot = some g → (s.chan c).outstanding = some ⟨.query ⟨m, i⟩, tag⟩ →
    ((s.chan c).state = .aborting ∨
      ∀ p, g.placements[i]? = some p → ¬ (p.state = .ticketed ∧ p.ticket = some (m, c))) →
    let ended (t : State) : State := t.putChan c { s.chan c with outstanding := none }
    (∀ answer reads, exec (.queryAnswer c tag answer reads) s = .next (ended (s.hunt (.cutter c)))) ∧
    ∀ reads, exec (.queryTimeout c reads) s = .next (ended s)

/-- An ABORTING channel with no request outstanding sends ABORT_HIDE, unless a reply's frame is being sent on its link (log
entries 2 and 4); any answer, or its timeout, completes the discard and leaves the channel IDLE, and the arbiter
evaluates. -/
def Obligations.AbortsComplete : Prop :=
  ∀ (c : Fin 4) (slot : Nat) (g : Hide) (s : State), (s.chan c).state = .aborting → (s.chan c).hide = some slot →
    s.hide slot = some g →
    let ch := s.chan c
    let ended (t : State) : State :=
      (t.completeDiscard slot).putChan c { ch with state := .idle, hide := none, outstanding := none }
    ((∀ q, (s.link (.cutter c)).inHand = some q → q.begun = false) → ch.outstanding = none →
      exec (.abortHideSend c) s = .next { s.putChan c { ch with
        outstanding := some ⟨.abort, ch.nextTag⟩, nextTag := (ch.nextTag + 1) % 256 } with
      sent := ⟨.cutter c, ch.nextTag, .abortHide g.tag⟩ :: s.sent }) ∧
    (ch.outstanding ≠ none ∨ (∃ q, (s.link (.cutter c)).inHand = some q ∧ q.begun = true) →
      exec (.abortHideSend c) s = .next s) ∧
    ∀ tag, ch.outstanding = some ⟨.abort, tag⟩ →
      (∀ answer, exec (.abortAnswer c tag answer) s = .next (ended (s.hunt (.cutter c))).evaluate) ∧
      exec (.abortTimeout c) s = .next ((ended s).raise (.channel c .abortUnanswered)).evaluate

/-! ### What every step keeps -/

/-- Every step keeps the order book sound: the counts and states of R3, notices on finished lines alone, and pairs that
name each other, with a READY piece in every line's slot. -/
def Obligations.StepsKeepTheBookSound : Prop :=
  ∀ s t : State, s.bookSound = true → step s = .next t → t.bookSound = true

/-- Every step keeps every setting in its range, in force, in a good image and in a save. -/
def Obligations.StepsKeepTheSettingsSound : Prop :=
  ∀ s t : State, s.settingsSound = true → step s = .next t → t.settingsSound = true

/-- Every step keeps the byte memories and the tables in their canonical form, and names each frame of the pool at most
once, as a tile's or as a retired one. -/
def Obligations.StepsKeepTheMemoriesCanonical : Prop :=
  ∀ s t : State, s.canonical = true → step s = .next t → t.canonical = true

/-- Every step taken in RUN ends with no waiting hide grantable, and keeps the ratio counter at most 8. -/
def Obligations.StepsLeaveNothingGrantable : Prop :=
  ∀ s t : State, s.settingsSound = true → s.arbiterSound = true → step s = .next t → t.arbiterSound = true

/-- Every step keeps the records that name one another joined: the waiting list holds the DISPATCH_WAIT hides in
ascending release number, a channel holds a hide exactly while it is at work or ABORTING, the engine's queue and pass hold
the hides that NEST_WAIT and NESTING name, TICKETED placements are out on their hide's channel, and a DONE hide has no
PLACED placement. -/
def Obligations.StepsKeepTheRecordsJoined : Prop :=
  ∀ s t : State, s.joined → step s = .next t → t.joined

/-- Every step keeps every line's reserved count the number of units that draw on it: the PLACED and TICKETED placements
of all hides, and the entries of the engine's stack.
The premises are what O54, O56 and O58 state of every step. -/
def Obligations.StepsKeepTheReserves : Prop :=
  ∀ s t : State, s.bookSound = true → s.canonical = true → s.joined → s.drawn → step s = .next t → t.drawn

/-- All that steps keep holds after reset. -/
def Obligations.ResetIsSound : Prop :=
  State.reset.bookSound = true ∧ State.reset.settingsSound = true ∧ State.reset.canonical = true ∧
    State.reset.arbiterSound = true ∧ State.reset.joined ∧ State.reset.drawn
end

