-- ==== Sys2Proof/Laws/State.lean ====
section
/-! SUPPORT. What each update of State leaves as it was: one lemma for each field it does not write. -/

namespace Sys2Proof.Laws

open Sys2Proof.Machine

/-! ### putLine -/

@[simp] theorem putLine_library (s : State) (id : Nat) (l : Line) : (s.putLine id l).library = s.library := rfl
@[simp] theorem putLine_hides (s : State) (id : Nat) (l : Line) : (s.putLine id l).hides = s.hides := rfl
@[simp] theorem putLine_grid (s : State) (id : Nat) (l : Line) : (s.putLine id l).grid = s.grid := rfl
@[simp] theorem putLine_engine (s : State) (id : Nat) (l : Line) : (s.putLine id l).engine = s.engine := rfl
@[simp] theorem putLine_arbiter (s : State) (id : Nat) (l : Line) : (s.putLine id l).arbiter = s.arbiter := rfl
@[simp] theorem putLine_chans (s : State) (id : Nat) (l : Line) : (s.putLine id l).chans = s.chans := rfl
@[simp] theorem putLine_attn (s : State) (id : Nat) (l : Line) : (s.putLine id l).attn = s.attn := rfl
@[simp] theorem putLine_profile (s : State) (id : Nat) (l : Line) : (s.putLine id l).profile = s.profile := rfl
@[simp] theorem putLine_links (s : State) (id : Nat) (l : Line) : (s.putLine id l).links = s.links := rfl
@[simp] theorem putLine_tape (s : State) (id : Nat) (l : Line) : (s.putLine id l).tape = s.tape := rfl
@[simp] theorem putLine_sent (s : State) (id : Nat) (l : Line) : (s.putLine id l).sent = s.sent := rfl
@[simp] theorem putLine_pending (s : State) (id : Nat) (l : Line) : (s.putLine id l).pending = s.pending := rfl

/-! ### dropLine -/

@[simp] theorem dropLine_library (s : State) (id : Nat) : (s.dropLine id).library = s.library := rfl
@[simp] theorem dropLine_hides (s : State) (id : Nat) : (s.dropLine id).hides = s.hides := rfl
@[simp] theorem dropLine_grid (s : State) (id : Nat) : (s.dropLine id).grid = s.grid := rfl
@[simp] theorem dropLine_engine (s : State) (id : Nat) : (s.dropLine id).engine = s.engine := rfl
@[simp] theorem dropLine_arbiter (s : State) (id : Nat) : (s.dropLine id).arbiter = s.arbiter := rfl
@[simp] theorem dropLine_chans (s : State) (id : Nat) : (s.dropLine id).chans = s.chans := rfl
@[simp] theorem dropLine_attn (s : State) (id : Nat) : (s.dropLine id).attn = s.attn := rfl
@[simp] theorem dropLine_profile (s : State) (id : Nat) : (s.dropLine id).profile = s.profile := rfl
@[simp] theorem dropLine_links (s : State) (id : Nat) : (s.dropLine id).links = s.links := rfl
@[simp] theorem dropLine_tape (s : State) (id : Nat) : (s.dropLine id).tape = s.tape := rfl
@[simp] theorem dropLine_sent (s : State) (id : Nat) : (s.dropLine id).sent = s.sent := rfl
@[simp] theorem dropLine_pending (s : State) (id : Nat) : (s.dropLine id).pending = s.pending := rfl

/-! ### putPiece -/

@[simp] theorem putPiece_book (s : State) (slot : Nat) (p : Piece) : (s.putPiece slot p).book = s.book := rfl
@[simp] theorem putPiece_hides (s : State) (slot : Nat) (p : Piece) : (s.putPiece slot p).hides = s.hides := rfl
@[simp] theorem putPiece_grid (s : State) (slot : Nat) (p : Piece) : (s.putPiece slot p).grid = s.grid := rfl
@[simp] theorem putPiece_engine (s : State) (slot : Nat) (p : Piece) : (s.putPiece slot p).engine = s.engine := rfl
@[simp] theorem putPiece_arbiter (s : State) (slot : Nat) (p : Piece) : (s.putPiece slot p).arbiter = s.arbiter := rfl
@[simp] theorem putPiece_chans (s : State) (slot : Nat) (p : Piece) : (s.putPiece slot p).chans = s.chans := rfl
@[simp] theorem putPiece_attn (s : State) (slot : Nat) (p : Piece) : (s.putPiece slot p).attn = s.attn := rfl
@[simp] theorem putPiece_profile (s : State) (slot : Nat) (p : Piece) : (s.putPiece slot p).profile = s.profile := rfl
@[simp] theorem putPiece_links (s : State) (slot : Nat) (p : Piece) : (s.putPiece slot p).links = s.links := rfl
@[simp] theorem putPiece_tape (s : State) (slot : Nat) (p : Piece) : (s.putPiece slot p).tape = s.tape := rfl
@[simp] theorem putPiece_sent (s : State) (slot : Nat) (p : Piece) : (s.putPiece slot p).sent = s.sent := rfl
@[simp] theorem putPiece_pending (s : State) (slot : Nat) (p : Piece) : (s.putPiece slot p).pending = s.pending := rfl

/-! ### dropPiece -/

@[simp] theorem dropPiece_book (s : State) (slot : Nat) : (s.dropPiece slot).book = s.book := rfl
@[simp] theorem dropPiece_hides (s : State) (slot : Nat) : (s.dropPiece slot).hides = s.hides := rfl
@[simp] theorem dropPiece_grid (s : State) (slot : Nat) : (s.dropPiece slot).grid = s.grid := rfl
@[simp] theorem dropPiece_engine (s : State) (slot : Nat) : (s.dropPiece slot).engine = s.engine := rfl
@[simp] theorem dropPiece_arbiter (s : State) (slot : Nat) : (s.dropPiece slot).arbiter = s.arbiter := rfl
@[simp] theorem dropPiece_chans (s : State) (slot : Nat) : (s.dropPiece slot).chans = s.chans := rfl
@[simp] theorem dropPiece_attn (s : State) (slot : Nat) : (s.dropPiece slot).attn = s.attn := rfl
@[simp] theorem dropPiece_profile (s : State) (slot : Nat) : (s.dropPiece slot).profile = s.profile := rfl
@[simp] theorem dropPiece_links (s : State) (slot : Nat) : (s.dropPiece slot).links = s.links := rfl
@[simp] theorem dropPiece_tape (s : State) (slot : Nat) : (s.dropPiece slot).tape = s.tape := rfl
@[simp] theorem dropPiece_sent (s : State) (slot : Nat) : (s.dropPiece slot).sent = s.sent := rfl
@[simp] theorem dropPiece_pending (s : State) (slot : Nat) : (s.dropPiece slot).pending = s.pending := rfl

/-! ### putHide -/

@[simp] theorem putHide_book (s : State) (slot : Nat) (h : Hide) : (s.putHide slot h).book = s.book := rfl
@[simp] theorem putHide_library (s : State) (slot : Nat) (h : Hide) : (s.putHide slot h).library = s.library := rfl
@[simp] theorem putHide_grid (s : State) (slot : Nat) (h : Hide) : (s.putHide slot h).grid = s.grid := rfl
@[simp] theorem putHide_engine (s : State) (slot : Nat) (h : Hide) : (s.putHide slot h).engine = s.engine := rfl
@[simp] theorem putHide_arbiter (s : State) (slot : Nat) (h : Hide) : (s.putHide slot h).arbiter = s.arbiter := rfl
@[simp] theorem putHide_chans (s : State) (slot : Nat) (h : Hide) : (s.putHide slot h).chans = s.chans := rfl
@[simp] theorem putHide_attn (s : State) (slot : Nat) (h : Hide) : (s.putHide slot h).attn = s.attn := rfl
@[simp] theorem putHide_profile (s : State) (slot : Nat) (h : Hide) : (s.putHide slot h).profile = s.profile := rfl
@[simp] theorem putHide_links (s : State) (slot : Nat) (h : Hide) : (s.putHide slot h).links = s.links := rfl
@[simp] theorem putHide_tape (s : State) (slot : Nat) (h : Hide) : (s.putHide slot h).tape = s.tape := rfl
@[simp] theorem putHide_sent (s : State) (slot : Nat) (h : Hide) : (s.putHide slot h).sent = s.sent := rfl
@[simp] theorem putHide_pending (s : State) (slot : Nat) (h : Hide) : (s.putHide slot h).pending = s.pending := rfl

/-! ### dropHide -/

@[simp] theorem dropHide_book (s : State) (slot : Nat) : (s.dropHide slot).book = s.book := rfl
@[simp] theorem dropHide_library (s : State) (slot : Nat) : (s.dropHide slot).library = s.library := rfl
@[simp] theorem dropHide_grid (s : State) (slot : Nat) : (s.dropHide slot).grid = s.grid := rfl
@[simp] theorem dropHide_engine (s : State) (slot : Nat) : (s.dropHide slot).engine = s.engine := rfl
@[simp] theorem dropHide_arbiter (s : State) (slot : Nat) : (s.dropHide slot).arbiter = s.arbiter := rfl
@[simp] theorem dropHide_chans (s : State) (slot : Nat) : (s.dropHide slot).chans = s.chans := rfl
@[simp] theorem dropHide_attn (s : State) (slot : Nat) : (s.dropHide slot).attn = s.attn := rfl
@[simp] theorem dropHide_profile (s : State) (slot : Nat) : (s.dropHide slot).profile = s.profile := rfl
@[simp] theorem dropHide_links (s : State) (slot : Nat) : (s.dropHide slot).links = s.links := rfl
@[simp] theorem dropHide_tape (s : State) (slot : Nat) : (s.dropHide slot).tape = s.tape := rfl
@[simp] theorem dropHide_sent (s : State) (slot : Nat) : (s.dropHide slot).sent = s.sent := rfl
@[simp] theorem dropHide_pending (s : State) (slot : Nat) : (s.dropHide slot).pending = s.pending := rfl

/-! ### modHide -/

@[simp] theorem modHide_book (s : State) (slot : Nat) (f : Hide → Hide) : (s.modHide slot f).book = s.book := by unfold State.modHide; split <;> rfl
@[simp] theorem modHide_library (s : State) (slot : Nat) (f : Hide → Hide) : (s.modHide slot f).library = s.library := by unfold State.modHide; split <;> rfl
@[simp] theorem modHide_grid (s : State) (slot : Nat) (f : Hide → Hide) : (s.modHide slot f).grid = s.grid := by unfold State.modHide; split <;> rfl
@[simp] theorem modHide_engine (s : State) (slot : Nat) (f : Hide → Hide) : (s.modHide slot f).engine = s.engine := by unfold State.modHide; split <;> rfl
@[simp] theorem modHide_arbiter (s : State) (slot : Nat) (f : Hide → Hide) : (s.modHide slot f).arbiter = s.arbiter := by unfold State.modHide; split <;> rfl
@[simp] theorem modHide_chans (s : State) (slot : Nat) (f : Hide → Hide) : (s.modHide slot f).chans = s.chans := by unfold State.modHide; split <;> rfl
@[simp] theorem modHide_attn (s : State) (slot : Nat) (f : Hide → Hide) : (s.modHide slot f).attn = s.attn := by unfold State.modHide; split <;> rfl
@[simp] theorem modHide_profile (s : State) (slot : Nat) (f : Hide → Hide) : (s.modHide slot f).profile = s.profile := by unfold State.modHide; split <;> rfl
@[simp] theorem modHide_links (s : State) (slot : Nat) (f : Hide → Hide) : (s.modHide slot f).links = s.links := by unfold State.modHide; split <;> rfl
@[simp] theorem modHide_tape (s : State) (slot : Nat) (f : Hide → Hide) : (s.modHide slot f).tape = s.tape := by unfold State.modHide; split <;> rfl
@[simp] theorem modHide_sent (s : State) (slot : Nat) (f : Hide → Hide) : (s.modHide slot f).sent = s.sent := by unfold State.modHide; split <;> rfl
@[simp] theorem modHide_pending (s : State) (slot : Nat) (f : Hide → Hide) : (s.modHide slot f).pending = s.pending := by unfold State.modHide; split <;> rfl

/-! ### setHideState -/

@[simp] theorem setHideState_book (s : State) (slot : Nat) (st : HideState) : (s.setHideState slot st).book = s.book := by simp [State.setHideState]
@[simp] theorem setHideState_library (s : State) (slot : Nat) (st : HideState) : (s.setHideState slot st).library = s.library := by simp [State.setHideState]
@[simp] theorem setHideState_grid (s : State) (slot : Nat) (st : HideState) : (s.setHideState slot st).grid = s.grid := by simp [State.setHideState]
@[simp] theorem setHideState_engine (s : State) (slot : Nat) (st : HideState) : (s.setHideState slot st).engine = s.engine := by simp [State.setHideState]
@[simp] theorem setHideState_arbiter (s : State) (slot : Nat) (st : HideState) : (s.setHideState slot st).arbiter = s.arbiter := by simp [State.setHideState]
@[simp] theorem setHideState_chans (s : State) (slot : Nat) (st : HideState) : (s.setHideState slot st).chans = s.chans := by simp [State.setHideState]
@[simp] theorem setHideState_attn (s : State) (slot : Nat) (st : HideState) : (s.setHideState slot st).attn = s.attn := by simp [State.setHideState]
@[simp] theorem setHideState_profile (s : State) (slot : Nat) (st : HideState) : (s.setHideState slot st).profile = s.profile := by simp [State.setHideState]
@[simp] theorem setHideState_links (s : State) (slot : Nat) (st : HideState) : (s.setHideState slot st).links = s.links := by simp [State.setHideState]
@[simp] theorem setHideState_tape (s : State) (slot : Nat) (st : HideState) : (s.setHideState slot st).tape = s.tape := by simp [State.setHideState]
@[simp] theorem setHideState_sent (s : State) (slot : Nat) (st : HideState) : (s.setHideState slot st).sent = s.sent := by simp [State.setHideState]
@[simp] theorem setHideState_pending (s : State) (slot : Nat) (st : HideState) : (s.setHideState slot st).pending = s.pending := by simp [State.setHideState]

/-! ### modPlacement -/

@[simp] theorem modPlacement_book (s : State) (slot i : Nat) (f : Placement → Placement) : (s.modPlacement slot i f).book = s.book := by simp [State.modPlacement]
@[simp] theorem modPlacement_library (s : State) (slot i : Nat) (f : Placement → Placement) : (s.modPlacement slot i f).library = s.library := by simp [State.modPlacement]
@[simp] theorem modPlacement_grid (s : State) (slot i : Nat) (f : Placement → Placement) : (s.modPlacement slot i f).grid = s.grid := by simp [State.modPlacement]
@[simp] theorem modPlacement_engine (s : State) (slot i : Nat) (f : Placement → Placement) : (s.modPlacement slot i f).engine = s.engine := by simp [State.modPlacement]
@[simp] theorem modPlacement_arbiter (s : State) (slot i : Nat) (f : Placement → Placement) : (s.modPlacement slot i f).arbiter = s.arbiter := by simp [State.modPlacement]
@[simp] theorem modPlacement_chans (s : State) (slot i : Nat) (f : Placement → Placement) : (s.modPlacement slot i f).chans = s.chans := by simp [State.modPlacement]
@[simp] theorem modPlacement_attn (s : State) (slot i : Nat) (f : Placement → Placement) : (s.modPlacement slot i f).attn = s.attn := by simp [State.modPlacement]
@[simp] theorem modPlacement_profile (s : State) (slot i : Nat) (f : Placement → Placement) : (s.modPlacement slot i f).profile = s.profile := by simp [State.modPlacement]
@[simp] theorem modPlacement_links (s : State) (slot i : Nat) (f : Placement → Placement) : (s.modPlacement slot i f).links = s.links := by simp [State.modPlacement]
@[simp] theorem modPlacement_tape (s : State) (slot i : Nat) (f : Placement → Placement) : (s.modPlacement slot i f).tape = s.tape := by simp [State.modPlacement]
@[simp] theorem modPlacement_sent (s : State) (slot i : Nat) (f : Placement → Placement) : (s.modPlacement slot i f).sent = s.sent := by simp [State.modPlacement]
@[simp] theorem modPlacement_pending (s : State) (slot i : Nat) (f : Placement → Placement) : (s.modPlacement slot i f).pending = s.pending := by simp [State.modPlacement]

/-! ### putChan -/

@[simp] theorem putChan_book (s : State) (c : Fin 4) (ch : Channel) : (s.putChan c ch).book = s.book := rfl
@[simp] theorem putChan_library (s : State) (c : Fin 4) (ch : Channel) : (s.putChan c ch).library = s.library := rfl
@[simp] theorem putChan_hides (s : State) (c : Fin 4) (ch : Channel) : (s.putChan c ch).hides = s.hides := rfl
@[simp] theorem putChan_grid (s : State) (c : Fin 4) (ch : Channel) : (s.putChan c ch).grid = s.grid := rfl
@[simp] theorem putChan_engine (s : State) (c : Fin 4) (ch : Channel) : (s.putChan c ch).engine = s.engine := rfl
@[simp] theorem putChan_arbiter (s : State) (c : Fin 4) (ch : Channel) : (s.putChan c ch).arbiter = s.arbiter := rfl
@[simp] theorem putChan_attn (s : State) (c : Fin 4) (ch : Channel) : (s.putChan c ch).attn = s.attn := rfl
@[simp] theorem putChan_profile (s : State) (c : Fin 4) (ch : Channel) : (s.putChan c ch).profile = s.profile := rfl
@[simp] theorem putChan_links (s : State) (c : Fin 4) (ch : Channel) : (s.putChan c ch).links = s.links := rfl
@[simp] theorem putChan_tape (s : State) (c : Fin 4) (ch : Channel) : (s.putChan c ch).tape = s.tape := rfl
@[simp] theorem putChan_sent (s : State) (c : Fin 4) (ch : Channel) : (s.putChan c ch).sent = s.sent := rfl
@[simp] theorem putChan_pending (s : State) (c : Fin 4) (ch : Channel) : (s.putChan c ch).pending = s.pending := rfl

/-! ### modChan -/

@[simp] theorem modChan_book (s : State) (c : Fin 4) (f : Channel → Channel) : (s.modChan c f).book = s.book := rfl
@[simp] theorem modChan_library (s : State) (c : Fin 4) (f : Channel → Channel) : (s.modChan c f).library = s.library := rfl
@[simp] theorem modChan_hides (s : State) (c : Fin 4) (f : Channel → Channel) : (s.modChan c f).hides = s.hides := rfl
@[simp] theorem modChan_grid (s : State) (c : Fin 4) (f : Channel → Channel) : (s.modChan c f).grid = s.grid := rfl
@[simp] theorem modChan_engine (s : State) (c : Fin 4) (f : Channel → Channel) : (s.modChan c f).engine = s.engine := rfl
@[simp] theorem modChan_arbiter (s : State) (c : Fin 4) (f : Channel → Channel) : (s.modChan c f).arbiter = s.arbiter := rfl
@[simp] theorem modChan_attn (s : State) (c : Fin 4) (f : Channel → Channel) : (s.modChan c f).attn = s.attn := rfl
@[simp] theorem modChan_profile (s : State) (c : Fin 4) (f : Channel → Channel) : (s.modChan c f).profile = s.profile := rfl
@[simp] theorem modChan_links (s : State) (c : Fin 4) (f : Channel → Channel) : (s.modChan c f).links = s.links := rfl
@[simp] theorem modChan_tape (s : State) (c : Fin 4) (f : Channel → Channel) : (s.modChan c f).tape = s.tape := rfl
@[simp] theorem modChan_sent (s : State) (c : Fin 4) (f : Channel → Channel) : (s.modChan c f).sent = s.sent := rfl
@[simp] theorem modChan_pending (s : State) (c : Fin 4) (f : Channel → Channel) : (s.modChan c f).pending = s.pending := rfl

/-! ### putLink -/

@[simp] theorem putLink_book (s : State) (l : Link) (v : LinkState) : (s.putLink l v).book = s.book := by cases l <;> rfl
@[simp] theorem putLink_library (s : State) (l : Link) (v : LinkState) : (s.putLink l v).library = s.library := by cases l <;> rfl
@[simp] theorem putLink_hides (s : State) (l : Link) (v : LinkState) : (s.putLink l v).hides = s.hides := by cases l <;> rfl
@[simp] theorem putLink_grid (s : State) (l : Link) (v : LinkState) : (s.putLink l v).grid = s.grid := by cases l <;> rfl
@[simp] theorem putLink_engine (s : State) (l : Link) (v : LinkState) : (s.putLink l v).engine = s.engine := by cases l <;> rfl
@[simp] theorem putLink_arbiter (s : State) (l : Link) (v : LinkState) : (s.putLink l v).arbiter = s.arbiter := by cases l <;> rfl
@[simp] theorem putLink_chans (s : State) (l : Link) (v : LinkState) : (s.putLink l v).chans = s.chans := by cases l <;> rfl
@[simp] theorem putLink_attn (s : State) (l : Link) (v : LinkState) : (s.putLink l v).attn = s.attn := by cases l <;> rfl
@[simp] theorem putLink_profile (s : State) (l : Link) (v : LinkState) : (s.putLink l v).profile = s.profile := by cases l <;> rfl
@[simp] theorem putLink_tape (s : State) (l : Link) (v : LinkState) : (s.putLink l v).tape = s.tape := by cases l <;> rfl
@[simp] theorem putLink_sent (s : State) (l : Link) (v : LinkState) : (s.putLink l v).sent = s.sent := by cases l <;> rfl
@[simp] theorem putLink_pending (s : State) (l : Link) (v : LinkState) : (s.putLink l v).pending = s.pending := by cases l <;> rfl

/-! ### hunt -/

@[simp] theorem hunt_book (s : State) (l : Link) : (s.hunt l).book = s.book := by simp [State.hunt]
@[simp] theorem hunt_library (s : State) (l : Link) : (s.hunt l).library = s.library := by simp [State.hunt]
@[simp] theorem hunt_hides (s : State) (l : Link) : (s.hunt l).hides = s.hides := by simp [State.hunt]
@[simp] theorem hunt_grid (s : State) (l : Link) : (s.hunt l).grid = s.grid := by simp [State.hunt]
@[simp] theorem hunt_engine (s : State) (l : Link) : (s.hunt l).engine = s.engine := by simp [State.hunt]
@[simp] theorem hunt_arbiter (s : State) (l : Link) : (s.hunt l).arbiter = s.arbiter := by simp [State.hunt]
@[simp] theorem hunt_chans (s : State) (l : Link) : (s.hunt l).chans = s.chans := by simp [State.hunt]
@[simp] theorem hunt_attn (s : State) (l : Link) : (s.hunt l).attn = s.attn := by simp [State.hunt]
@[simp] theorem hunt_profile (s : State) (l : Link) : (s.hunt l).profile = s.profile := by simp [State.hunt]
@[simp] theorem hunt_tape (s : State) (l : Link) : (s.hunt l).tape = s.tape := by simp [State.hunt]
@[simp] theorem hunt_sent (s : State) (l : Link) : (s.hunt l).sent = s.sent := by simp [State.hunt]
@[simp] theorem hunt_pending (s : State) (l : Link) : (s.hunt l).pending = s.pending := by simp [State.hunt]

/-! ### setInHand -/

@[simp] theorem setInHand_book (s : State) (l : Link) (q : Option InHand) : (s.setInHand l q).book = s.book := by simp [State.setInHand]
@[simp] theorem setInHand_library (s : State) (l : Link) (q : Option InHand) : (s.setInHand l q).library = s.library := by simp [State.setInHand]
@[simp] theorem setInHand_hides (s : State) (l : Link) (q : Option InHand) : (s.setInHand l q).hides = s.hides := by simp [State.setInHand]
@[simp] theorem setInHand_grid (s : State) (l : Link) (q : Option InHand) : (s.setInHand l q).grid = s.grid := by simp [State.setInHand]
@[simp] theorem setInHand_engine (s : State) (l : Link) (q : Option InHand) : (s.setInHand l q).engine = s.engine := by simp [State.setInHand]
@[simp] theorem setInHand_arbiter (s : State) (l : Link) (q : Option InHand) : (s.setInHand l q).arbiter = s.arbiter := by simp [State.setInHand]
@[simp] theorem setInHand_chans (s : State) (l : Link) (q : Option InHand) : (s.setInHand l q).chans = s.chans := by simp [State.setInHand]
@[simp] theorem setInHand_attn (s : State) (l : Link) (q : Option InHand) : (s.setInHand l q).attn = s.attn := by simp [State.setInHand]
@[simp] theorem setInHand_profile (s : State) (l : Link) (q : Option InHand) : (s.setInHand l q).profile = s.profile := by simp [State.setInHand]
@[simp] theorem setInHand_tape (s : State) (l : Link) (q : Option InHand) : (s.setInHand l q).tape = s.tape := by simp [State.setInHand]
@[simp] theorem setInHand_sent (s : State) (l : Link) (q : Option InHand) : (s.setInHand l q).sent = s.sent := by simp [State.setInHand]
@[simp] theorem setInHand_pending (s : State) (l : Link) (q : Option InHand) : (s.setInHand l q).pending = s.pending := by simp [State.setInHand]

/-! ### send -/

@[simp] theorem send_book (s : State) (l : Link) (tag : Nat) (f : OutFrame) : (s.send l tag f).book = s.book := rfl
@[simp] theorem send_library (s : State) (l : Link) (tag : Nat) (f : OutFrame) : (s.send l tag f).library = s.library := rfl
@[simp] theorem send_hides (s : State) (l : Link) (tag : Nat) (f : OutFrame) : (s.send l tag f).hides = s.hides := rfl
@[simp] theorem send_grid (s : State) (l : Link) (tag : Nat) (f : OutFrame) : (s.send l tag f).grid = s.grid := rfl
@[simp] theorem send_engine (s : State) (l : Link) (tag : Nat) (f : OutFrame) : (s.send l tag f).engine = s.engine := rfl
@[simp] theorem send_arbiter (s : State) (l : Link) (tag : Nat) (f : OutFrame) : (s.send l tag f).arbiter = s.arbiter := rfl
@[simp] theorem send_chans (s : State) (l : Link) (tag : Nat) (f : OutFrame) : (s.send l tag f).chans = s.chans := rfl
@[simp] theorem send_attn (s : State) (l : Link) (tag : Nat) (f : OutFrame) : (s.send l tag f).attn = s.attn := rfl
@[simp] theorem send_profile (s : State) (l : Link) (tag : Nat) (f : OutFrame) : (s.send l tag f).profile = s.profile := rfl
@[simp] theorem send_links (s : State) (l : Link) (tag : Nat) (f : OutFrame) : (s.send l tag f).links = s.links := rfl
@[simp] theorem send_tape (s : State) (l : Link) (tag : Nat) (f : OutFrame) : (s.send l tag f).tape = s.tape := rfl
@[simp] theorem send_pending (s : State) (l : Link) (tag : Nat) (f : OutFrame) : (s.send l tag f).pending = s.pending := rfl

/-! ### sendAttention -/

@[simp] theorem sendAttention_book (s : State) : (s.sendAttention).book = s.book := rfl
@[simp] theorem sendAttention_library (s : State) : (s.sendAttention).library = s.library := rfl
@[simp] theorem sendAttention_hides (s : State) : (s.sendAttention).hides = s.hides := rfl
@[simp] theorem sendAttention_grid (s : State) : (s.sendAttention).grid = s.grid := rfl
@[simp] theorem sendAttention_engine (s : State) : (s.sendAttention).engine = s.engine := rfl
@[simp] theorem sendAttention_arbiter (s : State) : (s.sendAttention).arbiter = s.arbiter := rfl
@[simp] theorem sendAttention_chans (s : State) : (s.sendAttention).chans = s.chans := rfl
@[simp] theorem sendAttention_profile (s : State) : (s.sendAttention).profile = s.profile := rfl
@[simp] theorem sendAttention_links (s : State) : (s.sendAttention).links = s.links := rfl
@[simp] theorem sendAttention_tape (s : State) : (s.sendAttention).tape = s.tape := rfl
@[simp] theorem sendAttention_pending (s : State) : (s.sendAttention).pending = s.pending := rfl

/-! ### lead -/

@[simp] theorem lead_book (s : State) (l : Link) : (s.lead l).book = s.book := by unfold State.lead; (repeat' split) <;> rfl
@[simp] theorem lead_library (s : State) (l : Link) : (s.lead l).library = s.library := by unfold State.lead; (repeat' split) <;> rfl
@[simp] theorem lead_hides (s : State) (l : Link) : (s.lead l).hides = s.hides := by unfold State.lead; (repeat' split) <;> rfl
@[simp] theorem lead_grid (s : State) (l : Link) : (s.lead l).grid = s.grid := by unfold State.lead; (repeat' split) <;> rfl
@[simp] theorem lead_engine (s : State) (l : Link) : (s.lead l).engine = s.engine := by unfold State.lead; (repeat' split) <;> rfl
@[simp] theorem lead_arbiter (s : State) (l : Link) : (s.lead l).arbiter = s.arbiter := by unfold State.lead; (repeat' split) <;> rfl
@[simp] theorem lead_chans (s : State) (l : Link) : (s.lead l).chans = s.chans := by unfold State.lead; (repeat' split) <;> rfl
@[simp] theorem lead_profile (s : State) (l : Link) : (s.lead l).profile = s.profile := by unfold State.lead; (repeat' split) <;> rfl
@[simp] theorem lead_links (s : State) (l : Link) : (s.lead l).links = s.links := by unfold State.lead; (repeat' split) <;> rfl
@[simp] theorem lead_tape (s : State) (l : Link) : (s.lead l).tape = s.tape := by unfold State.lead; (repeat' split) <;> rfl
@[simp] theorem lead_pending (s : State) (l : Link) : (s.lead l).pending = s.pending := by unfold State.lead; (repeat' split) <;> rfl

/-! ### answer -/

/-- A reply on a link where no frame is being sent goes at once (R171). -/
theorem answer_free {s : State} {l : Link} (tag : Nat) (r : Reply) (h : ∀ q, (s.link l).inHand = some q → q.begun = false) :
    s.answer l tag r = (s.lead l).send l tag (.reply r) := by
  have hn : s.beingSent l = none := by
    unfold State.beingSent
    cases hq : (s.link l).inHand with
    | none => rfl
    | some q => simp [h q hq]
  simp [State.answer, hn]

/-- A reply on a link where another reply's frame is being sent is due behind it (R167). -/
theorem answer_behind {s : State} {l : Link} {q : InHand} (tag : Nat) (r : Reply) (h : (s.link l).inHand = some q)
    (hb : q.begun = true) :
    s.answer l tag r = s.setInHand l (some { q with behind := q.behind ++ [(tag, r)] }) := by
  have hn : s.beingSent l = some q := by simp [State.beingSent, h, hb]
  simp [State.answer, hn]

@[simp] theorem answer_book (s : State) (l : Link) (tag : Nat) (r : Reply) : (s.answer l tag r).book = s.book := by unfold State.answer; split <;> simp
@[simp] theorem answer_library (s : State) (l : Link) (tag : Nat) (r : Reply) : (s.answer l tag r).library = s.library := by unfold State.answer; split <;> simp
@[simp] theorem answer_hides (s : State) (l : Link) (tag : Nat) (r : Reply) : (s.answer l tag r).hides = s.hides := by unfold State.answer; split <;> simp
@[simp] theorem answer_grid (s : State) (l : Link) (tag : Nat) (r : Reply) : (s.answer l tag r).grid = s.grid := by unfold State.answer; split <;> simp
@[simp] theorem answer_engine (s : State) (l : Link) (tag : Nat) (r : Reply) : (s.answer l tag r).engine = s.engine := by unfold State.answer; split <;> simp
@[simp] theorem answer_arbiter (s : State) (l : Link) (tag : Nat) (r : Reply) : (s.answer l tag r).arbiter = s.arbiter := by unfold State.answer; split <;> simp
@[simp] theorem answer_chans (s : State) (l : Link) (tag : Nat) (r : Reply) : (s.answer l tag r).chans = s.chans := by unfold State.answer; split <;> simp
@[simp] theorem answer_profile (s : State) (l : Link) (tag : Nat) (r : Reply) : (s.answer l tag r).profile = s.profile := by unfold State.answer; split <;> simp
@[simp] theorem answer_tape (s : State) (l : Link) (tag : Nat) (r : Reply) : (s.answer l tag r).tape = s.tape := by unfold State.answer; split <;> simp
@[simp] theorem answer_pending (s : State) (l : Link) (tag : Nat) (r : Reply) : (s.answer l tag r).pending = s.pending := by unfold State.answer; split <;> simp

/-! ### hold -/

@[simp] theorem hold_book (s : State) (l : Link) (kind tag : Nat) (b : Bool) (e : ReplyEnd) (r : Reply) : (s.hold l kind tag b e r).book = s.book := by unfold State.hold; split <;> simp
@[simp] theorem hold_library (s : State) (l : Link) (kind tag : Nat) (b : Bool) (e : ReplyEnd) (r : Reply) : (s.hold l kind tag b e r).library = s.library := by unfold State.hold; split <;> simp
@[simp] theorem hold_hides (s : State) (l : Link) (kind tag : Nat) (b : Bool) (e : ReplyEnd) (r : Reply) : (s.hold l kind tag b e r).hides = s.hides := by unfold State.hold; split <;> simp
@[simp] theorem hold_grid (s : State) (l : Link) (kind tag : Nat) (b : Bool) (e : ReplyEnd) (r : Reply) : (s.hold l kind tag b e r).grid = s.grid := by unfold State.hold; split <;> simp
@[simp] theorem hold_engine (s : State) (l : Link) (kind tag : Nat) (b : Bool) (e : ReplyEnd) (r : Reply) : (s.hold l kind tag b e r).engine = s.engine := by unfold State.hold; split <;> simp
@[simp] theorem hold_arbiter (s : State) (l : Link) (kind tag : Nat) (b : Bool) (e : ReplyEnd) (r : Reply) : (s.hold l kind tag b e r).arbiter = s.arbiter := by unfold State.hold; split <;> simp
@[simp] theorem hold_chans (s : State) (l : Link) (kind tag : Nat) (b : Bool) (e : ReplyEnd) (r : Reply) : (s.hold l kind tag b e r).chans = s.chans := by unfold State.hold; split <;> simp
@[simp] theorem hold_profile (s : State) (l : Link) (kind tag : Nat) (b : Bool) (e : ReplyEnd) (r : Reply) : (s.hold l kind tag b e r).profile = s.profile := by unfold State.hold; split <;> simp
@[simp] theorem hold_tape (s : State) (l : Link) (kind tag : Nat) (b : Bool) (e : ReplyEnd) (r : Reply) : (s.hold l kind tag b e r).tape = s.tape := by unfold State.hold; split <;> simp
@[simp] theorem hold_pending (s : State) (l : Link) (kind tag : Nat) (b : Bool) (e : ReplyEnd) (r : Reply) : (s.hold l kind tag b e r).pending = s.pending := by unfold State.hold; split <;> simp

/-! ### frameDue -/

@[simp] theorem frameDue_book (s : State) : (s.frameDue).book = s.book := by unfold State.frameDue; split <;> first | rfl | (split <;> rfl)
@[simp] theorem frameDue_library (s : State) : (s.frameDue).library = s.library := by unfold State.frameDue; split <;> first | rfl | (split <;> rfl)
@[simp] theorem frameDue_hides (s : State) : (s.frameDue).hides = s.hides := by unfold State.frameDue; split <;> first | rfl | (split <;> rfl)
@[simp] theorem frameDue_grid (s : State) : (s.frameDue).grid = s.grid := by unfold State.frameDue; split <;> first | rfl | (split <;> rfl)
@[simp] theorem frameDue_engine (s : State) : (s.frameDue).engine = s.engine := by unfold State.frameDue; split <;> first | rfl | (split <;> rfl)
@[simp] theorem frameDue_arbiter (s : State) : (s.frameDue).arbiter = s.arbiter := by unfold State.frameDue; split <;> first | rfl | (split <;> rfl)
@[simp] theorem frameDue_chans (s : State) : (s.frameDue).chans = s.chans := by unfold State.frameDue; split <;> first | rfl | (split <;> rfl)
@[simp] theorem frameDue_profile (s : State) : (s.frameDue).profile = s.profile := by unfold State.frameDue; split <;> first | rfl | (split <;> rfl)
@[simp] theorem frameDue_links (s : State) : (s.frameDue).links = s.links := by unfold State.frameDue; split <;> first | rfl | (split <;> rfl)
@[simp] theorem frameDue_tape (s : State) : (s.frameDue).tape = s.tape := by unfold State.frameDue; split <;> first | rfl | (split <;> rfl)
@[simp] theorem frameDue_sent (s : State) : (s.frameDue).sent = s.sent := by unfold State.frameDue; split <;> first | rfl | (split <;> rfl)
@[simp] theorem frameDue_pending (s : State) : (s.frameDue).pending = s.pending := by unfold State.frameDue; split <;> first | rfl | (split <;> rfl)

/-! ### raise -/

@[simp] theorem raise_book (s : State) (e : Event) : (s.raise e).book = s.book := by simp [State.raise]
@[simp] theorem raise_library (s : State) (e : Event) : (s.raise e).library = s.library := by simp [State.raise]
@[simp] theorem raise_hides (s : State) (e : Event) : (s.raise e).hides = s.hides := by simp [State.raise]
@[simp] theorem raise_grid (s : State) (e : Event) : (s.raise e).grid = s.grid := by simp [State.raise]
@[simp] theorem raise_engine (s : State) (e : Event) : (s.raise e).engine = s.engine := by simp [State.raise]
@[simp] theorem raise_arbiter (s : State) (e : Event) : (s.raise e).arbiter = s.arbiter := by simp [State.raise]
@[simp] theorem raise_chans (s : State) (e : Event) : (s.raise e).chans = s.chans := by simp [State.raise]
@[simp] theorem raise_profile (s : State) (e : Event) : (s.raise e).profile = s.profile := by simp [State.raise]
@[simp] theorem raise_links (s : State) (e : Event) : (s.raise e).links = s.links := by simp [State.raise]
@[simp] theorem raise_tape (s : State) (e : Event) : (s.raise e).tape = s.tape := by simp [State.raise]
@[simp] theorem raise_sent (s : State) (e : Event) : (s.raise e).sent = s.sent := by simp [State.raise]
@[simp] theorem raise_pending (s : State) (e : Event) : (s.raise e).pending = s.pending := by simp [State.raise]

/-! ### raiseNotice -/

@[simp] theorem raiseNotice_library (s : State) (id : Nat) (l : Line) : (s.raiseNotice id l).library = s.library := by simp [State.raiseNotice]
@[simp] theorem raiseNotice_hides (s : State) (id : Nat) (l : Line) : (s.raiseNotice id l).hides = s.hides := by simp [State.raiseNotice]
@[simp] theorem raiseNotice_grid (s : State) (id : Nat) (l : Line) : (s.raiseNotice id l).grid = s.grid := by simp [State.raiseNotice]
@[simp] theorem raiseNotice_engine (s : State) (id : Nat) (l : Line) : (s.raiseNotice id l).engine = s.engine := by simp [State.raiseNotice]
@[simp] theorem raiseNotice_arbiter (s : State) (id : Nat) (l : Line) : (s.raiseNotice id l).arbiter = s.arbiter := by simp [State.raiseNotice]
@[simp] theorem raiseNotice_chans (s : State) (id : Nat) (l : Line) : (s.raiseNotice id l).chans = s.chans := by simp [State.raiseNotice]
@[simp] theorem raiseNotice_profile (s : State) (id : Nat) (l : Line) : (s.raiseNotice id l).profile = s.profile := by simp [State.raiseNotice]
@[simp] theorem raiseNotice_links (s : State) (id : Nat) (l : Line) : (s.raiseNotice id l).links = s.links := by simp [State.raiseNotice]
@[simp] theorem raiseNotice_tape (s : State) (id : Nat) (l : Line) : (s.raiseNotice id l).tape = s.tape := by simp [State.raiseNotice]
@[simp] theorem raiseNotice_sent (s : State) (id : Nat) (l : Line) : (s.raiseNotice id l).sent = s.sent := by simp [State.raiseNotice]
@[simp] theorem raiseNotice_pending (s : State) (id : Nat) (l : Line) : (s.raiseNotice id l).pending = s.pending := by simp [State.raiseNotice]

/-! ### clearHide -/

@[simp] theorem clearHide_book (s : State) (slot : Nat) : (s.clearHide slot).book = s.book := rfl
@[simp] theorem clearHide_library (s : State) (slot : Nat) : (s.clearHide slot).library = s.library := rfl
@[simp] theorem clearHide_hides (s : State) (slot : Nat) : (s.clearHide slot).hides = s.hides := rfl
@[simp] theorem clearHide_grid (s : State) (slot : Nat) : (s.clearHide slot).grid = s.grid := rfl
@[simp] theorem clearHide_engine (s : State) (slot : Nat) : (s.clearHide slot).engine = s.engine := rfl
@[simp] theorem clearHide_arbiter (s : State) (slot : Nat) : (s.clearHide slot).arbiter = s.arbiter := rfl
@[simp] theorem clearHide_chans (s : State) (slot : Nat) : (s.clearHide slot).chans = s.chans := rfl
@[simp] theorem clearHide_profile (s : State) (slot : Nat) : (s.clearHide slot).profile = s.profile := rfl
@[simp] theorem clearHide_links (s : State) (slot : Nat) : (s.clearHide slot).links = s.links := rfl
@[simp] theorem clearHide_tape (s : State) (slot : Nat) : (s.clearHide slot).tape = s.tape := rfl
@[simp] theorem clearHide_sent (s : State) (slot : Nat) : (s.clearHide slot).sent = s.sent := rfl
@[simp] theorem clearHide_pending (s : State) (slot : Nat) : (s.clearHide slot).pending = s.pending := rfl

/-! ### clearCodes -/

@[simp] theorem clearCodes_book (s : State) (source : Nat) (codes : List Nat) : (s.clearCodes source codes).book = s.book := rfl
@[simp] theorem clearCodes_library (s : State) (source : Nat) (codes : List Nat) : (s.clearCodes source codes).library = s.library := rfl
@[simp] theorem clearCodes_hides (s : State) (source : Nat) (codes : List Nat) : (s.clearCodes source codes).hides = s.hides := rfl
@[simp] theorem clearCodes_grid (s : State) (source : Nat) (codes : List Nat) : (s.clearCodes source codes).grid = s.grid := rfl
@[simp] theorem clearCodes_engine (s : State) (source : Nat) (codes : List Nat) : (s.clearCodes source codes).engine = s.engine := rfl
@[simp] theorem clearCodes_arbiter (s : State) (source : Nat) (codes : List Nat) : (s.clearCodes source codes).arbiter = s.arbiter := rfl
@[simp] theorem clearCodes_chans (s : State) (source : Nat) (codes : List Nat) : (s.clearCodes source codes).chans = s.chans := rfl
@[simp] theorem clearCodes_profile (s : State) (source : Nat) (codes : List Nat) : (s.clearCodes source codes).profile = s.profile := rfl
@[simp] theorem clearCodes_links (s : State) (source : Nat) (codes : List Nat) : (s.clearCodes source codes).links = s.links := rfl
@[simp] theorem clearCodes_tape (s : State) (source : Nat) (codes : List Nat) : (s.clearCodes source codes).tape = s.tape := rfl
@[simp] theorem clearCodes_sent (s : State) (source : Nat) (codes : List Nat) : (s.clearCodes source codes).sent = s.sent := rfl
@[simp] theorem clearCodes_pending (s : State) (source : Nat) (codes : List Nat) : (s.clearCodes source codes).pending = s.pending := rfl

/-! ### clearNotice -/

@[simp] theorem clearNotice_library (s : State) (id : Nat) : (s.clearNotice id).library = s.library := by unfold State.clearNotice; split <;> rfl
@[simp] theorem clearNotice_hides (s : State) (id : Nat) : (s.clearNotice id).hides = s.hides := by unfold State.clearNotice; split <;> rfl
@[simp] theorem clearNotice_grid (s : State) (id : Nat) : (s.clearNotice id).grid = s.grid := by unfold State.clearNotice; split <;> rfl
@[simp] theorem clearNotice_engine (s : State) (id : Nat) : (s.clearNotice id).engine = s.engine := by unfold State.clearNotice; split <;> rfl
@[simp] theorem clearNotice_arbiter (s : State) (id : Nat) : (s.clearNotice id).arbiter = s.arbiter := by unfold State.clearNotice; split <;> rfl
@[simp] theorem clearNotice_chans (s : State) (id : Nat) : (s.clearNotice id).chans = s.chans := by unfold State.clearNotice; split <;> rfl
@[simp] theorem clearNotice_attn (s : State) (id : Nat) : (s.clearNotice id).attn = s.attn := by unfold State.clearNotice; split <;> rfl
@[simp] theorem clearNotice_profile (s : State) (id : Nat) : (s.clearNotice id).profile = s.profile := by unfold State.clearNotice; split <;> rfl
@[simp] theorem clearNotice_links (s : State) (id : Nat) : (s.clearNotice id).links = s.links := by unfold State.clearNotice; split <;> rfl
@[simp] theorem clearNotice_tape (s : State) (id : Nat) : (s.clearNotice id).tape = s.tape := by unfold State.clearNotice; split <;> rfl
@[simp] theorem clearNotice_sent (s : State) (id : Nat) : (s.clearNotice id).sent = s.sent := by unfold State.clearNotice; split <;> rfl
@[simp] theorem clearNotice_pending (s : State) (id : Nat) : (s.clearNotice id).pending = s.pending := by unfold State.clearNotice; split <;> rfl

/-! ### What is written -/

@[simp] theorem putLine_book (s : State) (id : Nat) (l : Line) : (s.putLine id l).book = Tab.put s.book id l := rfl
@[simp] theorem dropLine_book (s : State) (id : Nat) : (s.dropLine id).book = Tab.del s.book id := rfl
@[simp] theorem putPiece_pieces (s : State) (slot : Nat) (p : Piece) :
    (s.putPiece slot p).library.pieces = Tab.put s.library.pieces slot p := rfl
@[simp] theorem putPiece_banks (s : State) (slot : Nat) (p : Piece) :
    (s.putPiece slot p).library.banks = s.library.banks := rfl
@[simp] theorem dropPiece_pieces (s : State) (slot : Nat) :
    (s.dropPiece slot).library.pieces = Tab.del s.library.pieces slot := rfl
@[simp] theorem dropPiece_banks (s : State) (slot : Nat) : (s.dropPiece slot).library.banks = s.library.banks := rfl
@[simp] theorem putHide_slots (s : State) (slot : Nat) (h : Hide) :
    (s.putHide slot h).hides.slots = Tab.put s.hides.slots slot h := rfl
@[simp] theorem putHide_released (s : State) (slot : Nat) (h : Hide) :
    (s.putHide slot h).hides.released = s.hides.released := rfl
@[simp] theorem dropHide_slots (s : State) (slot : Nat) :
    (s.dropHide slot).hides.slots = Tab.del s.hides.slots slot := rfl
@[simp] theorem dropHide_released (s : State) (slot : Nat) : (s.dropHide slot).hides.released = s.hides.released := rfl
@[simp] theorem modHide_released (s : State) (slot : Nat) (f : Hide → Hide) :
    (s.modHide slot f).hides.released = s.hides.released := by unfold State.modHide; split <;> rfl
@[simp] theorem send_sent (s : State) (l : Link) (tag : Nat) (f : OutFrame) :
    (s.send l tag f).sent = ⟨l, tag, f⟩ :: s.sent := rfl
@[simp] theorem raise_events (s : State) (e : Event) : (s.raise e).attn.events = insertEvent e s.attn.events := rfl
@[simp] theorem putLink_same (s : State) (l : Link) (v : LinkState) : (s.putLink l v).link l = v := by
  cases l with
  | control => rfl
  | scanner => rfl
  | cutter c => exact Vector.getElem_set_self c.2
@[simp] theorem hunt_inHand (s : State) (l : Link) : ((s.hunt l).link l).inHand = (s.link l).inHand := by
  simp [State.hunt]

/-! ### Views of what is not written -/

@[simp] theorem putLine_piece (s : State) (id : Nat) (l : Line) (k : Nat) : (s.putLine id l).piece k = s.piece k := by simp [State.piece]
@[simp] theorem putLine_hide (s : State) (id : Nat) (l : Line) (k : Nat) : (s.putLine id l).hide k = s.hide k := by simp [State.hide]
@[simp] theorem putLine_bankOf (s : State) (id : Nat) (l : Line) (k : Nat) : (s.putLine id l).bankOf k = s.bankOf k := by simp [State.bankOf]
@[simp] theorem putLine_chan (s : State) (id : Nat) (l : Line) (d : Fin 4) : (s.putLine id l).chan d = s.chan d := by simp [State.chan]
@[simp] theorem putLine_settings (s : State) (id : Nat) (l : Line) : (s.putLine id l).settings = s.settings := by simp [State.settings]
@[simp] theorem dropLine_piece (s : State) (id : Nat) (k : Nat) : (s.dropLine id).piece k = s.piece k := by simp [State.piece]
@[simp] theorem dropLine_hide (s : State) (id : Nat) (k : Nat) : (s.dropLine id).hide k = s.hide k := by simp [State.hide]
@[simp] theorem dropLine_bankOf (s : State) (id : Nat) (k : Nat) : (s.dropLine id).bankOf k = s.bankOf k := by simp [State.bankOf]
@[simp] theorem dropLine_chan (s : State) (id : Nat) (d : Fin 4) : (s.dropLine id).chan d = s.chan d := by simp [State.chan]
@[simp] theorem dropLine_settings (s : State) (id : Nat) : (s.dropLine id).settings = s.settings := by simp [State.settings]
@[simp] theorem putPiece_line (s : State) (slot : Nat) (p : Piece) (k : Nat) : (s.putPiece slot p).line k = s.line k := by simp [State.line]
@[simp] theorem putPiece_hide (s : State) (slot : Nat) (p : Piece) (k : Nat) : (s.putPiece slot p).hide k = s.hide k := by simp [State.hide]
@[simp] theorem putPiece_chan (s : State) (slot : Nat) (p : Piece) (d : Fin 4) : (s.putPiece slot p).chan d = s.chan d := by simp [State.chan]
@[simp] theorem putPiece_settings (s : State) (slot : Nat) (p : Piece) : (s.putPiece slot p).settings = s.settings := by simp [State.settings]
@[simp] theorem dropPiece_line (s : State) (slot : Nat) (k : Nat) : (s.dropPiece slot).line k = s.line k := by simp [State.line]
@[simp] theorem dropPiece_hide (s : State) (slot : Nat) (k : Nat) : (s.dropPiece slot).hide k = s.hide k := by simp [State.hide]
@[simp] theorem dropPiece_chan (s : State) (slot : Nat) (d : Fin 4) : (s.dropPiece slot).chan d = s.chan d := by simp [State.chan]
@[simp] theorem dropPiece_settings (s : State) (slot : Nat) : (s.dropPiece slot).settings = s.settings := by simp [State.settings]
@[simp] theorem putHide_line (s : State) (slot : Nat) (h : Hide) (k : Nat) : (s.putHide slot h).line k = s.line k := by simp [State.line]
@[simp] theorem putHide_piece (s : State) (slot : Nat) (h : Hide) (k : Nat) : (s.putHide slot h).piece k = s.piece k := by simp [State.piece]
@[simp] theorem putHide_bankOf (s : State) (slot : Nat) (h : Hide) (k : Nat) : (s.putHide slot h).bankOf k = s.bankOf k := by simp [State.bankOf]
@[simp] theorem putHide_chan (s : State) (slot : Nat) (h : Hide) (d : Fin 4) : (s.putHide slot h).chan d = s.chan d := by simp [State.chan]
@[simp] theorem putHide_settings (s : State) (slot : Nat) (h : Hide) : (s.putHide slot h).settings = s.settings := by simp [State.settings]
@[simp] theorem dropHide_line (s : State) (slot : Nat) (k : Nat) : (s.dropHide slot).line k = s.line k := by simp [State.line]
@[simp] theorem dropHide_piece (s : State) (slot : Nat) (k : Nat) : (s.dropHide slot).piece k = s.piece k := by simp [State.piece]
@[simp] theorem dropHide_bankOf (s : State) (slot : Nat) (k : Nat) : (s.dropHide slot).bankOf k = s.bankOf k := by simp [State.bankOf]
@[simp] theorem dropHide_chan (s : State) (slot : Nat) (d : Fin 4) : (s.dropHide slot).chan d = s.chan d := by simp [State.chan]
@[simp] theorem dropHide_settings (s : State) (slot : Nat) : (s.dropHide slot).settings = s.settings := by simp [State.settings]
@[simp] theorem modHide_line (s : State) (slot : Nat) (f : Hide → Hide) (k : Nat) : (s.modHide slot f).line k = s.line k := by simp [State.line]
@[simp] theorem modHide_piece (s : State) (slot : Nat) (f : Hide → Hide) (k : Nat) : (s.modHide slot f).piece k = s.piece k := by simp [State.piece]
@[simp] theorem modHide_bankOf (s : State) (slot : Nat) (f : Hide → Hide) (k : Nat) : (s.modHide slot f).bankOf k = s.bankOf k := by simp [State.bankOf]
@[simp] theorem modHide_chan (s : State) (slot : Nat) (f : Hide → Hide) (d : Fin 4) : (s.modHide slot f).chan d = s.chan d := by simp [State.chan]
@[simp] theorem modHide_settings (s : State) (slot : Nat) (f : Hide → Hide) : (s.modHide slot f).settings = s.settings := by simp [State.settings]
@[simp] theorem setHideState_line (s : State) (slot : Nat) (st : HideState) (k : Nat) : (s.setHideState slot st).line k = s.line k := by simp [State.line]
@[simp] theorem setHideState_piece (s : State) (slot : Nat) (st : HideState) (k : Nat) : (s.setHideState slot st).piece k = s.piece k := by simp [State.piece]
@[simp] theorem setHideState_bankOf (s : State) (slot : Nat) (st : HideState) (k : Nat) : (s.setHideState slot st).bankOf k = s.bankOf k := by simp [State.bankOf]
@[simp] theorem setHideState_chan (s : State) (slot : Nat) (st : HideState) (d : Fin 4) : (s.setHideState slot st).chan d = s.chan d := by simp [State.chan]
@[simp] theorem setHideState_settings (s : State) (slot : Nat) (st : HideState) : (s.setHideState slot st).settings = s.settings := by simp [State.settings]
@[simp] theorem modPlacement_line (s : State) (slot i : Nat) (f : Placement → Placement) (k : Nat) : (s.modPlacement slot i f).line k = s.line k := by simp [State.line]
@[simp] theorem modPlacement_piece (s : State) (slot i : Nat) (f : Placement → Placement) (k : Nat) : (s.modPlacement slot i f).piece k = s.piece k := by simp [State.piece]
@[simp] theorem modPlacement_bankOf (s : State) (slot i : Nat) (f : Placement → Placement) (k : Nat) : (s.modPlacement slot i f).bankOf k = s.bankOf k := by simp [State.bankOf]
@[simp] theorem modPlacement_chan (s : State) (slot i : Nat) (f : Placement → Placement) (d : Fin 4) : (s.modPlacement slot i f).chan d = s.chan d := by simp [State.chan]
@[simp] theorem modPlacement_settings (s : State) (slot i : Nat) (f : Placement → Placement) : (s.modPlacement slot i f).settings = s.settings := by simp [State.settings]
@[simp] theorem putChan_line (s : State) (c : Fin 4) (ch : Channel) (k : Nat) : (s.putChan c ch).line k = s.line k := by simp [State.line]
@[simp] theorem putChan_piece (s : State) (c : Fin 4) (ch : Channel) (k : Nat) : (s.putChan c ch).piece k = s.piece k := by simp [State.piece]
@[simp] theorem putChan_hide (s : State) (c : Fin 4) (ch : Channel) (k : Nat) : (s.putChan c ch).hide k = s.hide k := by simp [State.hide]
@[simp] theorem putChan_bankOf (s : State) (c : Fin 4) (ch : Channel) (k : Nat) : (s.putChan c ch).bankOf k = s.bankOf k := by simp [State.bankOf]
@[simp] theorem putChan_settings (s : State) (c : Fin 4) (ch : Channel) : (s.putChan c ch).settings = s.settings := by simp [State.settings]
@[simp] theorem modChan_line (s : State) (c : Fin 4) (f : Channel → Channel) (k : Nat) : (s.modChan c f).line k = s.line k := by simp [State.line]
@[simp] theorem modChan_piece (s : State) (c : Fin 4) (f : Channel → Channel) (k : Nat) : (s.modChan c f).piece k = s.piece k := by simp [State.piece]
@[simp] theorem modChan_hide (s : State) (c : Fin 4) (f : Channel → Channel) (k : Nat) : (s.modChan c f).hide k = s.hide k := by simp [State.hide]
@[simp] theorem modChan_bankOf (s : State) (c : Fin 4) (f : Channel → Channel) (k : Nat) : (s.modChan c f).bankOf k = s.bankOf k := by simp [State.bankOf]
@[simp] theorem modChan_settings (s : State) (c : Fin 4) (f : Channel → Channel) : (s.modChan c f).settings = s.settings := by simp [State.settings]
@[simp] theorem putLink_line (s : State) (l : Link) (v : LinkState) (k : Nat) : (s.putLink l v).line k = s.line k := by simp [State.line]
@[simp] theorem putLink_piece (s : State) (l : Link) (v : LinkState) (k : Nat) : (s.putLink l v).piece k = s.piece k := by simp [State.piece]
@[simp] theorem putLink_hide (s : State) (l : Link) (v : LinkState) (k : Nat) : (s.putLink l v).hide k = s.hide k := by simp [State.hide]
@[simp] theorem putLink_bankOf (s : State) (l : Link) (v : LinkState) (k : Nat) : (s.putLink l v).bankOf k = s.bankOf k := by simp [State.bankOf]
@[simp] theorem putLink_chan (s : State) (l : Link) (v : LinkState) (d : Fin 4) : (s.putLink l v).chan d = s.chan d := by simp [State.chan]
@[simp] theorem putLink_settings (s : State) (l : Link) (v : LinkState) : (s.putLink l v).settings = s.settings := by simp [State.settings]
@[simp] theorem hunt_line (s : State) (l : Link) (k : Nat) : (s.hunt l).line k = s.line k := by simp [State.line]
@[simp] theorem hunt_piece (s : State) (l : Link) (k : Nat) : (s.hunt l).piece k = s.piece k := by simp [State.piece]
@[simp] theorem hunt_hide (s : State) (l : Link) (k : Nat) : (s.hunt l).hide k = s.hide k := by simp [State.hide]
@[simp] theorem hunt_bankOf (s : State) (l : Link) (k : Nat) : (s.hunt l).bankOf k = s.bankOf k := by simp [State.bankOf]
@[simp] theorem hunt_chan (s : State) (l : Link) (d : Fin 4) : (s.hunt l).chan d = s.chan d := by simp [State.chan]
@[simp] theorem hunt_settings (s : State) (l : Link) : (s.hunt l).settings = s.settings := by simp [State.settings]
@[simp] theorem setInHand_line (s : State) (l : Link) (q : Option InHand) (k : Nat) : (s.setInHand l q).line k = s.line k := by simp [State.line]
@[simp] theorem setInHand_piece (s : State) (l : Link) (q : Option InHand) (k : Nat) : (s.setInHand l q).piece k = s.piece k := by simp [State.piece]
@[simp] theorem setInHand_hide (s : State) (l : Link) (q : Option InHand) (k : Nat) : (s.setInHand l q).hide k = s.hide k := by simp [State.hide]
@[simp] theorem setInHand_bankOf (s : State) (l : Link) (q : Option InHand) (k : Nat) : (s.setInHand l q).bankOf k = s.bankOf k := by simp [State.bankOf]
@[simp] theorem setInHand_chan (s : State) (l : Link) (q : Option InHand) (d : Fin 4) : (s.setInHand l q).chan d = s.chan d := by simp [State.chan]
@[simp] theorem setInHand_settings (s : State) (l : Link) (q : Option InHand) : (s.setInHand l q).settings = s.settings := by simp [State.settings]
@[simp] theorem send_line (s : State) (l : Link) (tag : Nat) (f : OutFrame) (k : Nat) : (s.send l tag f).line k = s.line k := by simp [State.line]
@[simp] theorem send_piece (s : State) (l : Link) (tag : Nat) (f : OutFrame) (k : Nat) : (s.send l tag f).piece k = s.piece k := by simp [State.piece]
@[simp] theorem send_hide (s : State) (l : Link) (tag : Nat) (f : OutFrame) (k : Nat) : (s.send l tag f).hide k = s.hide k := by simp [State.hide]
@[simp] theorem send_bankOf (s : State) (l : Link) (tag : Nat) (f : OutFrame) (k : Nat) : (s.send l tag f).bankOf k = s.bankOf k := by simp [State.bankOf]
@[simp] theorem send_chan (s : State) (l : Link) (tag : Nat) (f : OutFrame) (d : Fin 4) : (s.send l tag f).chan d = s.chan d := by simp [State.chan]
@[simp] theorem send_settings (s : State) (l : Link) (tag : Nat) (f : OutFrame) : (s.send l tag f).settings = s.settings := by simp [State.settings]
@[simp] theorem sendAttention_line (s : State) (k : Nat) : (s.sendAttention).line k = s.line k := by simp [State.line]
@[simp] theorem sendAttention_piece (s : State) (k : Nat) : (s.sendAttention).piece k = s.piece k := by simp [State.piece]
@[simp] theorem sendAttention_hide (s : State) (k : Nat) : (s.sendAttention).hide k = s.hide k := by simp [State.hide]
@[simp] theorem sendAttention_bankOf (s : State) (k : Nat) : (s.sendAttention).bankOf k = s.bankOf k := by simp [State.bankOf]
@[simp] theorem sendAttention_chan (s : State) (d : Fin 4) : (s.sendAttention).chan d = s.chan d := by simp [State.chan]
@[simp] theorem sendAttention_settings (s : State) : (s.sendAttention).settings = s.settings := by simp [State.settings]
@[simp] theorem lead_line (s : State) (l : Link) (k : Nat) : (s.lead l).line k = s.line k := by simp [State.line]
@[simp] theorem lead_piece (s : State) (l : Link) (k : Nat) : (s.lead l).piece k = s.piece k := by simp [State.piece]
@[simp] theorem lead_hide (s : State) (l : Link) (k : Nat) : (s.lead l).hide k = s.hide k := by simp [State.hide]
@[simp] theorem lead_bankOf (s : State) (l : Link) (k : Nat) : (s.lead l).bankOf k = s.bankOf k := by simp [State.bankOf]
@[simp] theorem lead_chan (s : State) (l : Link) (d : Fin 4) : (s.lead l).chan d = s.chan d := by simp [State.chan]
@[simp] theorem lead_settings (s : State) (l : Link) : (s.lead l).settings = s.settings := by simp [State.settings]
@[simp] theorem answer_line (s : State) (l : Link) (tag : Nat) (r : Reply) (k : Nat) : (s.answer l tag r).line k = s.line k := by simp [State.line]
@[simp] theorem answer_piece (s : State) (l : Link) (tag : Nat) (r : Reply) (k : Nat) : (s.answer l tag r).piece k = s.piece k := by simp [State.piece]
@[simp] theorem answer_hide (s : State) (l : Link) (tag : Nat) (r : Reply) (k : Nat) : (s.answer l tag r).hide k = s.hide k := by simp [State.hide]
@[simp] theorem answer_bankOf (s : State) (l : Link) (tag : Nat) (r : Reply) (k : Nat) : (s.answer l tag r).bankOf k = s.bankOf k := by simp [State.bankOf]
@[simp] theorem answer_chan (s : State) (l : Link) (tag : Nat) (r : Reply) (d : Fin 4) : (s.answer l tag r).chan d = s.chan d := by simp [State.chan]
@[simp] theorem answer_settings (s : State) (l : Link) (tag : Nat) (r : Reply) : (s.answer l tag r).settings = s.settings := by simp [State.settings]
@[simp] theorem frameDue_line (s : State) (k : Nat) : (s.frameDue).line k = s.line k := by simp [State.line]
@[simp] theorem frameDue_piece (s : State) (k : Nat) : (s.frameDue).piece k = s.piece k := by simp [State.piece]
@[simp] theorem frameDue_hide (s : State) (k : Nat) : (s.frameDue).hide k = s.hide k := by simp [State.hide]
@[simp] theorem frameDue_bankOf (s : State) (k : Nat) : (s.frameDue).bankOf k = s.bankOf k := by simp [State.bankOf]
@[simp] theorem frameDue_chan (s : State) (d : Fin 4) : (s.frameDue).chan d = s.chan d := by simp [State.chan]
@[simp] theorem frameDue_settings (s : State) : (s.frameDue).settings = s.settings := by simp [State.settings]
@[simp] theorem raise_line (s : State) (e : Event) (k : Nat) : (s.raise e).line k = s.line k := by simp [State.line]
@[simp] theorem raise_piece (s : State) (e : Event) (k : Nat) : (s.raise e).piece k = s.piece k := by simp [State.piece]
@[simp] theorem raise_hide (s : State) (e : Event) (k : Nat) : (s.raise e).hide k = s.hide k := by simp [State.hide]
@[simp] theorem raise_bankOf (s : State) (e : Event) (k : Nat) : (s.raise e).bankOf k = s.bankOf k := by simp [State.bankOf]
@[simp] theorem raise_chan (s : State) (e : Event) (d : Fin 4) : (s.raise e).chan d = s.chan d := by simp [State.chan]
@[simp] theorem raise_settings (s : State) (e : Event) : (s.raise e).settings = s.settings := by simp [State.settings]
@[simp] theorem raiseNotice_piece (s : State) (id : Nat) (l : Line) (k : Nat) : (s.raiseNotice id l).piece k = s.piece k := by simp [State.piece]
@[simp] theorem raiseNotice_hide (s : State) (id : Nat) (l : Line) (k : Nat) : (s.raiseNotice id l).hide k = s.hide k := by simp [State.hide]
@[simp] theorem raiseNotice_bankOf (s : State) (id : Nat) (l : Line) (k : Nat) : (s.raiseNotice id l).bankOf k = s.bankOf k := by simp [State.bankOf]
@[simp] theorem raiseNotice_chan (s : State) (id : Nat) (l : Line) (d : Fin 4) : (s.raiseNotice id l).chan d = s.chan d := by simp [State.chan]
@[simp] theorem raiseNotice_settings (s : State) (id : Nat) (l : Line) : (s.raiseNotice id l).settings = s.settings := by simp [State.settings]
@[simp] theorem clearHide_line (s : State) (slot : Nat) (k : Nat) : (s.clearHide slot).line k = s.line k := by simp [State.line]
@[simp] theorem clearHide_piece (s : State) (slot : Nat) (k : Nat) : (s.clearHide slot).piece k = s.piece k := by simp [State.piece]
@[simp] theorem clearHide_hide (s : State) (slot : Nat) (k : Nat) : (s.clearHide slot).hide k = s.hide k := by simp [State.hide]
@[simp] theorem clearHide_bankOf (s : State) (slot : Nat) (k : Nat) : (s.clearHide slot).bankOf k = s.bankOf k := by simp [State.bankOf]
@[simp] theorem clearHide_chan (s : State) (slot : Nat) (d : Fin 4) : (s.clearHide slot).chan d = s.chan d := by simp [State.chan]
@[simp] theorem clearHide_settings (s : State) (slot : Nat) : (s.clearHide slot).settings = s.settings := by simp [State.settings]
@[simp] theorem clearCodes_line (s : State) (source : Nat) (codes : List Nat) (k : Nat) : (s.clearCodes source codes).line k = s.line k := by simp [State.line]
@[simp] theorem clearCodes_piece (s : State) (source : Nat) (codes : List Nat) (k : Nat) : (s.clearCodes source codes).piece k = s.piece k := by simp [State.piece]
@[simp] theorem clearCodes_hide (s : State) (source : Nat) (codes : List Nat) (k : Nat) : (s.clearCodes source codes).hide k = s.hide k := by simp [State.hide]
@[simp] theorem clearCodes_bankOf (s : State) (source : Nat) (codes : List Nat) (k : Nat) : (s.clearCodes source codes).bankOf k = s.bankOf k := by simp [State.bankOf]
@[simp] theorem clearCodes_chan (s : State) (source : Nat) (codes : List Nat) (d : Fin 4) : (s.clearCodes source codes).chan d = s.chan d := by simp [State.chan]
@[simp] theorem clearCodes_settings (s : State) (source : Nat) (codes : List Nat) : (s.clearCodes source codes).settings = s.settings := by simp [State.settings]
@[simp] theorem clearNotice_piece (s : State) (id : Nat) (k : Nat) : (s.clearNotice id).piece k = s.piece k := by simp [State.piece]
@[simp] theorem clearNotice_hide (s : State) (id : Nat) (k : Nat) : (s.clearNotice id).hide k = s.hide k := by simp [State.hide]
@[simp] theorem clearNotice_bankOf (s : State) (id : Nat) (k : Nat) : (s.clearNotice id).bankOf k = s.bankOf k := by simp [State.bankOf]
@[simp] theorem clearNotice_chan (s : State) (id : Nat) (d : Fin 4) : (s.clearNotice id).chan d = s.chan d := by simp [State.chan]
@[simp] theorem clearNotice_settings (s : State) (id : Nat) : (s.clearNotice id).settings = s.settings := by simp [State.settings]

end Sys2Proof.Laws
end

