-- ==== Sys2Proof/Laws/Tables.lean ====
section
/-! SUPPORT. What the operations over tables and byte memories do, and that they keep the canonical forms. -/

namespace Sys2Proof.Laws

open Sys2Proof

variable {α : Type}

/-! ### Reading what was written -/

@[simp] theorem get_nil (k : Nat) : Tab.get ([] : Tab α) k = none := rfl

@[simp] theorem get_put_self (t : Tab α) (k : Nat) (a : α) : Tab.get (Tab.put t k a) k = some a := by
  induction t with
  | nil => simp [Tab.put, Tab.get]
  | cons e t ih =>
    obtain ⟨j, b⟩ := e
    unfold Tab.put
    split
    · simp [Tab.get]
    · split
      · simp [Tab.get]
      · next h => simp [Tab.get, h, ih]

theorem get_put_other (t : Tab α) {k j : Nat} (a : α) (h : j ≠ k) : Tab.get (Tab.put t k a) j = Tab.get t j := by
  induction t with
  | nil => simp [Tab.put, Tab.get, Ne.symm h]
  | cons e t ih =>
    obtain ⟨i, b⟩ := e
    unfold Tab.put
    split
    · simp [Tab.get, Ne.symm h]
    · split
      · next hi => subst hi; simp [Tab.get, Ne.symm h]
      · simp [Tab.get, ih]

@[simp] theorem get_del_self (t : Tab α) (k : Nat) : Tab.get (Tab.del t k) k = none := by
  induction t with
  | nil => rfl
  | cons e t ih =>
    obtain ⟨i, b⟩ := e
    by_cases hi : i = k
    · simpa [Tab.del, List.filter_cons, hi] using ih
    · simpa [Tab.del, List.filter_cons, hi, Tab.get] using ih

theorem get_del_other (t : Tab α) {k j : Nat} (h : j ≠ k) : Tab.get (Tab.del t k) j = Tab.get t j := by
  induction t with
  | nil => rfl
  | cons e t ih =>
    obtain ⟨i, b⟩ := e
    by_cases hi : i = k
    · subst hi; simpa [Tab.del, List.filter_cons, Tab.get, Ne.symm h] using ih
    · by_cases hj : i = j
      · subst hj; simp [Tab.del, hi, Tab.get]
      · simpa [Tab.del, List.filter_cons, hi, hj, Tab.get] using ih

/-! ### Membership -/

theorem mem_of_get {t : Tab α} {k : Nat} {a : α} (h : Tab.get t k = some a) : (k, a) ∈ t := by
  induction t with
  | nil => simp [Tab.get] at h
  | cons e t ih =>
    obtain ⟨i, b⟩ := e
    simp only [Tab.get] at h
    split at h
    · next hi => simp_all
    · exact List.mem_cons_of_mem _ (ih h)

theorem mem_put {t : Tab α} {k : Nat} {a : α} {e : Nat × α} (h : e ∈ Tab.put t k a) : e = (k, a) ∨ e ∈ t := by
  induction t with
  | nil => simp [Tab.put] at h; exact Or.inl h
  | cons d t ih =>
    obtain ⟨i, b⟩ := d
    unfold Tab.put at h
    split at h
    · simpa using h
    · split at h
      · rcases List.mem_cons.1 h with h | h
        · exact Or.inl h
        · exact Or.inr (List.mem_cons_of_mem _ h)
      · rcases List.mem_cons.1 h with h | h
        · exact Or.inr (by simp [h])
        · rcases ih h with h | h
          · exact Or.inl h
          · exact Or.inr (List.mem_cons_of_mem _ h)

theorem mem_del {t : Tab α} {k : Nat} {e : Nat × α} (h : e ∈ Tab.del t k) : e ∈ t := (List.mem_filter.1 h).1

/-- A property of every record is kept by writing a record that has it. -/
theorem all_put {t : Tab α} {k : Nat} {a : α} {P : Nat × α → Prop} (h : ∀ e ∈ t, P e) (ha : P (k, a)) :
    ∀ e ∈ Tab.put t k a, P e := fun e he => by
  rcases mem_put he with rfl | he
  · exact ha
  · exact h e he

/-- A property of every record is kept by removing one. -/
theorem all_del {t : Tab α} {k : Nat} {P : Nat × α → Prop} (h : ∀ e ∈ t, P e) : ∀ e ∈ Tab.del t k, P e :=
  fun e he => h e (mem_del he)

/-! ### The canonical form -/

theorem sorted_cons {j : Nat} {b : α} {t : Tab α} :
    Tab.sorted ((j, b) :: t) = true ↔ (∀ e ∈ t, j < e.1) ∧ Tab.sorted t = true := by
  simp [Tab.sorted]

theorem sorted_put {t : Tab α} (k : Nat) (a : α) (h : Tab.sorted t = true) : Tab.sorted (Tab.put t k a) = true := by
  induction t with
  | nil => simp [Tab.put, Tab.sorted]
  | cons e t ih =>
    obtain ⟨j, b⟩ := e
    have hs := sorted_cons.1 h
    unfold Tab.put
    split
    · next hk =>
      refine sorted_cons.2 ⟨fun d hd => ?_, h⟩
      rcases List.mem_cons.1 hd with rfl | hd
      · exact hk
      · exact Nat.lt_trans hk (hs.1 d hd)
    · split
      · next _ hj => subst hj; exact sorted_cons.2 hs
      · next hk hj =>
        refine sorted_cons.2 ⟨fun d hd => ?_, ih hs.2⟩
        rcases mem_put hd with rfl | hd
        · exact Nat.lt_of_le_of_ne (Nat.le_of_not_lt hk) hj
        · exact hs.1 d hd

theorem sorted_filter {t : Tab α} (p : Nat × α → Bool) (h : Tab.sorted t = true) :
    Tab.sorted (t.filter p) = true := by
  induction t with
  | nil => rfl
  | cons e t ih =>
    obtain ⟨j, b⟩ := e
    have hs := sorted_cons.1 h
    simp only [List.filter_cons]
    split
    · exact sorted_cons.2 ⟨fun d hd => hs.1 d ((List.mem_filter.1 hd).1), ih hs.2⟩
    · exact ih hs.2

theorem sorted_del {t : Tab α} (k : Nat) (h : Tab.sorted t = true) : Tab.sorted (Tab.del t k) = true :=
  sorted_filter _ h

/-- In a sorted table the record listed under a key is the one read there. -/
theorem get_of_mem {t : Tab α} {k : Nat} {a : α} (hs : Tab.sorted t = true) (h : (k, a) ∈ t) :
    Tab.get t k = some a := by
  induction t with
  | nil => simp at h
  | cons e t ih =>
    obtain ⟨j, b⟩ := e
    have hp := sorted_cons.1 hs
    rcases List.mem_cons.1 h with h | h
    · simp_all [Tab.get]
    · have : j ≠ k := Nat.ne_of_lt (hp.1 _ h)
      simp [Tab.get, this, ih hp.2 h]

/-- A record written twice: the second stands. -/
theorem put_put (t : Tab α) (k : Nat) (a b : α) : Tab.put (Tab.put t k a) k b = Tab.put t k b := by
  induction t with
  | nil => simp [Tab.put]
  | cons e t ih =>
    obtain ⟨j, c⟩ := e
    simp only [Tab.put]
    (repeat' split) <;> simp_all [Tab.put] <;> omega

/-- A record written as it stands changes nothing. -/
theorem put_same {t : Tab α} {k : Nat} {a : α} (hs : Tab.sorted t = true) (h : Tab.get t k = some a) :
    Tab.put t k a = t := by
  induction t with
  | nil => cases h
  | cons e t ih =>
    obtain ⟨j, c⟩ := e
    rw [sorted_cons] at hs
    simp only [Tab.get] at h
    simp only [Tab.put]
    by_cases hj : j = k
    · subst hj; simp at h; subst h; simp
    · rw [if_neg hj] at h
      have := hs.1 _ (mem_of_get h)
      have hlt : ¬ k < j := by simp only at this; omega
      simp [hlt, hj, ih hs.2 h]

/-! ### Byte memories -/

theorem wf_iff {d : Byte} {m : Mem} : Mem.wf d m = true ↔ Tab.sorted m = true ∧ ∀ e ∈ m, e.2 ≠ d := by
  simp [Mem.wf]

@[simp] theorem wf_nil (d : Byte) : Mem.wf d [] = true := rfl

@[simp] theorem read_write_self (d : Byte) (m : Mem) (a : Nat) (b : Byte) : Mem.read d (Mem.write d m a b) a = b := by
  unfold Mem.write Mem.read
  split
  · next h => simp [h]
  · simp

theorem read_write_other (d : Byte) (m : Mem) {a c : Nat} (b : Byte) (h : c ≠ a) :
    Mem.read d (Mem.write d m a b) c = Mem.read d m c := by
  unfold Mem.write Mem.read
  split
  · rw [get_del_other _ h]
  · rw [get_put_other _ _ h]

/-- A write keeps the canonical form. -/
theorem wf_write {d : Byte} {m : Mem} (a : Nat) (b : Byte) (h : Mem.wf d m = true) :
    Mem.wf d (Mem.write d m a b) = true := by
  have hw := wf_iff.1 h
  unfold Mem.write
  split
  · exact wf_iff.2 ⟨sorted_del a hw.1, all_del hw.2⟩
  · next hb => exact wf_iff.2 ⟨sorted_put a b hw.1, all_put hw.2 hb⟩

/-- A filter keeps the canonical form. -/
theorem wf_filter {d : Byte} {m : Mem} (p : Nat × Byte → Bool) (h : Mem.wf d m = true) :
    Mem.wf d (m.filter p) = true := by
  have hw := wf_iff.1 h
  exact wf_iff.2 ⟨sorted_filter p hw.1, fun e he => hw.2 e ((List.mem_filter.1 he).1)⟩

/-- Clearing a range keeps the canonical form. -/
theorem wf_clear {d : Byte} {m : Mem} (a n : Nat) (h : Mem.wf d m = true) : Mem.wf d (Mem.clear m a n) = true :=
  wf_filter _ h

theorem get_filter_keep {t : Tab α} (p : Nat × α → Bool) {k : Nat} (h : ∀ a, p (k, a) = true) :
    Tab.get (t.filter p) k = Tab.get t k := by
  induction t with
  | nil => rfl
  | cons e t ih =>
    obtain ⟨j, b⟩ := e
    by_cases hj : j = k
    · subst hj; simp [h, Tab.get]
    · by_cases hp : p (j, b) = true
      · simp [hp, Tab.get, hj, ih]
      · simp [hp, Tab.get, hj, ih]

theorem get_filter_drop {t : Tab α} (p : Nat × α → Bool) {k : Nat} (h : ∀ a, p (k, a) = false) :
    Tab.get (t.filter p) k = none := by
  induction t with
  | nil => rfl
  | cons e t ih =>
    obtain ⟨j, b⟩ := e
    by_cases hj : j = k
    · subst hj; simp [h, ih]
    · by_cases hp : p (j, b) = true
      · simp [hp, Tab.get, hj, ih]
      · simp [hp, ih]

/-- Inside a cleared range every address reads as an unlisted one. -/
theorem read_clear_in (d : Byte) (m : Mem) {a n c : Nat} (h1 : a ≤ c) (h2 : c < a + n) :
    Mem.read d (Mem.clear m a n) c = d := by
  unfold Mem.read Mem.clear
  rw [get_filter_drop]
  · rfl
  · intro x; simp; omega

/-- Outside a cleared range every address reads as before. -/
theorem read_clear_out (d : Byte) (m : Mem) {a n c : Nat} (h : c < a ∨ a + n ≤ c) :
    Mem.read d (Mem.clear m a n) c = Mem.read d m c := by
  unfold Mem.read Mem.clear
  rw [get_filter_keep]
  intro x; simpa using h

/-- What reads as an unlisted address does still reads so after other addresses are cleared. -/
theorem read_clear_keeps (d : Byte) (m : Mem) (a n c : Nat) (h : Mem.read d m c = d) :
    Mem.read d (Mem.clear m a n) c = d := by
  by_cases h1 : a ≤ c ∧ c < a + n
  · exact read_clear_in d m h1.1 h1.2
  · rw [read_clear_out d m (by omega), h]

/-! ### Folds -/

/-- What each step of a fold keeps, the fold keeps. -/
theorem foldl_keeps {σ β γ : Type} (f : σ → β → σ) (p : σ → γ) (h : ∀ s b, p (f s b) = p s) (l : List β) (s : σ) :
    p (l.foldl f s) = p s := by
  induction l generalizing s with
  | nil => rfl
  | cons b l ih => rw [List.foldl_cons, ih, h]

/-- A property that each step of a fold keeps holds after the fold. -/
theorem foldl_inv {σ β : Type} (f : σ → β → σ) (P : σ → Prop) (h : ∀ s b, P s → P (f s b)) (l : List β) (s : σ)
    (hs : P s) : P (l.foldl f s) := by
  induction l generalizing s with
  | nil => exact hs
  | cons b l ih => exact ih _ (h s b hs)

end Sys2Proof.Laws
end

