-- ==== Sys2Proof/Laws/Grid.lean ====
section
/-! SUPPORT. What the operations of the Grid Store and the claims on the book leave as it was. -/

namespace Sys2Proof.Laws

open Sys2Proof.Machine

/-! ### claimReserve -/

/-- What a granted reserve does (R6). -/
theorem claimReserve_some {s t : State} {id : Nat} (h : s.claimReserve id = some t) :
    ∃ l, s.line id = some l ∧ l.state = .active ∧ 1 ≤ l.openUnits ∧
      t = s.putLine id { l with openUnits := l.openUnits - 1, reserved := l.reserved + 1 } := by
  unfold State.claimReserve at h
  split at h
  · cases h
  · next l hl =>
    split at h
    · next hc => simp [State.canReserve] at hc; exact ⟨l, hl, hc.1, hc.2, (Option.some.inj h).symm⟩
    · cases h

theorem claimReserve_library {s t : State} {id : Nat} (h : s.claimReserve id = some t) : t.library = s.library := by
  obtain ⟨l, _, _, _, rfl⟩ := claimReserve_some h; rfl
theorem claimReserve_hides {s t : State} {id : Nat} (h : s.claimReserve id = some t) : t.hides = s.hides := by
  obtain ⟨l, _, _, _, rfl⟩ := claimReserve_some h; rfl
theorem claimReserve_grid {s t : State} {id : Nat} (h : s.claimReserve id = some t) : t.grid = s.grid := by
  obtain ⟨l, _, _, _, rfl⟩ := claimReserve_some h; rfl
theorem claimReserve_engine {s t : State} {id : Nat} (h : s.claimReserve id = some t) : t.engine = s.engine := by
  obtain ⟨l, _, _, _, rfl⟩ := claimReserve_some h; rfl
theorem claimReserve_arbiter {s t : State} {id : Nat} (h : s.claimReserve id = some t) : t.arbiter = s.arbiter := by
  obtain ⟨l, _, _, _, rfl⟩ := claimReserve_some h; rfl
theorem claimReserve_chans {s t : State} {id : Nat} (h : s.claimReserve id = some t) : t.chans = s.chans := by
  obtain ⟨l, _, _, _, rfl⟩ := claimReserve_some h; rfl
theorem claimReserve_attn {s t : State} {id : Nat} (h : s.claimReserve id = some t) : t.attn = s.attn := by
  obtain ⟨l, _, _, _, rfl⟩ := claimReserve_some h; rfl
theorem claimReserve_profile {s t : State} {id : Nat} (h : s.claimReserve id = some t) : t.profile = s.profile := by
  obtain ⟨l, _, _, _, rfl⟩ := claimReserve_some h; rfl
theorem claimReserve_links {s t : State} {id : Nat} (h : s.claimReserve id = some t) : t.links = s.links := by
  obtain ⟨l, _, _, _, rfl⟩ := claimReserve_some h; rfl
theorem claimReserve_tape {s t : State} {id : Nat} (h : s.claimReserve id = some t) : t.tape = s.tape := by
  obtain ⟨l, _, _, _, rfl⟩ := claimReserve_some h; rfl
theorem claimReserve_sent {s t : State} {id : Nat} (h : s.claimReserve id = some t) : t.sent = s.sent := by
  obtain ⟨l, _, _, _, rfl⟩ := claimReserve_some h; rfl
theorem claimReserve_pending {s t : State} {id : Nat} (h : s.claimReserve id = some t) : t.pending = s.pending := by
  obtain ⟨l, _, _, _, rfl⟩ := claimReserve_some h; rfl

/-! ### toThrottled -/

@[simp] theorem toThrottled_book (s : State) : (s.toThrottled).book = s.book := by unfold State.toThrottled; (try dsimp only); (repeat' split) <;> simp
@[simp] theorem toThrottled_library (s : State) : (s.toThrottled).library = s.library := by unfold State.toThrottled; (try dsimp only); (repeat' split) <;> simp
@[simp] theorem toThrottled_hides (s : State) : (s.toThrottled).hides = s.hides := by unfold State.toThrottled; (try dsimp only); (repeat' split) <;> simp
@[simp] theorem toThrottled_engine (s : State) : (s.toThrottled).engine = s.engine := by unfold State.toThrottled; (try dsimp only); (repeat' split) <;> simp
@[simp] theorem toThrottled_arbiter (s : State) : (s.toThrottled).arbiter = s.arbiter := by unfold State.toThrottled; (try dsimp only); (repeat' split) <;> simp
@[simp] theorem toThrottled_chans (s : State) : (s.toThrottled).chans = s.chans := by unfold State.toThrottled; (try dsimp only); (repeat' split) <;> simp
@[simp] theorem toThrottled_profile (s : State) : (s.toThrottled).profile = s.profile := by unfold State.toThrottled; (try dsimp only); (repeat' split) <;> simp
@[simp] theorem toThrottled_links (s : State) : (s.toThrottled).links = s.links := by unfold State.toThrottled; (try dsimp only); (repeat' split) <;> simp
@[simp] theorem toThrottled_tape (s : State) : (s.toThrottled).tape = s.tape := by unfold State.toThrottled; (try dsimp only); (repeat' split) <;> simp
@[simp] theorem toThrottled_sent (s : State) : (s.toThrottled).sent = s.sent := by unfold State.toThrottled; (try dsimp only); (repeat' split) <;> simp
@[simp] theorem toThrottled_pending (s : State) : (s.toThrottled).pending = s.pending := by unfold State.toThrottled; (try dsimp only); (repeat' split) <;> simp

/-! ### toNormal -/

@[simp] theorem toNormal_book (s : State) : (s.toNormal).book = s.book := by unfold State.toNormal; (try dsimp only); (repeat' split) <;> simp
@[simp] theorem toNormal_library (s : State) : (s.toNormal).library = s.library := by unfold State.toNormal; (try dsimp only); (repeat' split) <;> simp
@[simp] theorem toNormal_hides (s : State) : (s.toNormal).hides = s.hides := by unfold State.toNormal; (try dsimp only); (repeat' split) <;> simp
@[simp] theorem toNormal_engine (s : State) : (s.toNormal).engine = s.engine := by unfold State.toNormal; (try dsimp only); (repeat' split) <;> simp
@[simp] theorem toNormal_arbiter (s : State) : (s.toNormal).arbiter = s.arbiter := by unfold State.toNormal; (try dsimp only); (repeat' split) <;> simp
@[simp] theorem toNormal_chans (s : State) : (s.toNormal).chans = s.chans := by unfold State.toNormal; (try dsimp only); (repeat' split) <;> simp
@[simp] theorem toNormal_profile (s : State) : (s.toNormal).profile = s.profile := by unfold State.toNormal; (try dsimp only); (repeat' split) <;> simp
@[simp] theorem toNormal_links (s : State) : (s.toNormal).links = s.links := by unfold State.toNormal; (try dsimp only); (repeat' split) <;> simp
@[simp] theorem toNormal_tape (s : State) : (s.toNormal).tape = s.tape := by unfold State.toNormal; (try dsimp only); (repeat' split) <;> simp
@[simp] theorem toNormal_sent (s : State) : (s.toNormal).sent = s.sent := by unfold State.toNormal; (try dsimp only); (repeat' split) <;> simp
@[simp] theorem toNormal_pending (s : State) : (s.toNormal).pending = s.pending := by unfold State.toNormal; (try dsimp only); (repeat' split) <;> simp

/-! ### allocationEval -/

@[simp] theorem allocationEval_book (s : State) : (s.allocationEval).book = s.book := by unfold State.allocationEval; (try dsimp only); (repeat' split) <;> simp
@[simp] theorem allocationEval_library (s : State) : (s.allocationEval).library = s.library := by unfold State.allocationEval; (try dsimp only); (repeat' split) <;> simp
@[simp] theorem allocationEval_hides (s : State) : (s.allocationEval).hides = s.hides := by unfold State.allocationEval; (try dsimp only); (repeat' split) <;> simp
@[simp] theorem allocationEval_engine (s : State) : (s.allocationEval).engine = s.engine := by unfold State.allocationEval; (try dsimp only); (repeat' split) <;> simp
@[simp] theorem allocationEval_arbiter (s : State) : (s.allocationEval).arbiter = s.arbiter := by unfold State.allocationEval; (try dsimp only); (repeat' split) <;> simp
@[simp] theorem allocationEval_chans (s : State) : (s.allocationEval).chans = s.chans := by unfold State.allocationEval; (try dsimp only); (repeat' split) <;> simp
@[simp] theorem allocationEval_profile (s : State) : (s.allocationEval).profile = s.profile := by unfold State.allocationEval; (try dsimp only); (repeat' split) <;> simp
@[simp] theorem allocationEval_links (s : State) : (s.allocationEval).links = s.links := by unfold State.allocationEval; (try dsimp only); (repeat' split) <;> simp
@[simp] theorem allocationEval_tape (s : State) : (s.allocationEval).tape = s.tape := by unfold State.allocationEval; (try dsimp only); (repeat' split) <;> simp
@[simp] theorem allocationEval_sent (s : State) : (s.allocationEval).sent = s.sent := by unfold State.allocationEval; (try dsimp only); (repeat' split) <;> simp
@[simp] theorem allocationEval_pending (s : State) : (s.allocationEval).pending = s.pending := by unfold State.allocationEval; (try dsimp only); (repeat' split) <;> simp

/-! ### releaseEval -/

@[simp] theorem releaseEval_book (s : State) : (s.releaseEval).book = s.book := by unfold State.releaseEval; (try dsimp only); (repeat' split) <;> simp
@[simp] theorem releaseEval_library (s : State) : (s.releaseEval).library = s.library := by unfold State.releaseEval; (try dsimp only); (repeat' split) <;> simp
@[simp] theorem releaseEval_hides (s : State) : (s.releaseEval).hides = s.hides := by unfold State.releaseEval; (try dsimp only); (repeat' split) <;> simp
@[simp] theorem releaseEval_engine (s : State) : (s.releaseEval).engine = s.engine := by unfold State.releaseEval; (try dsimp only); (repeat' split) <;> simp
@[simp] theorem releaseEval_arbiter (s : State) : (s.releaseEval).arbiter = s.arbiter := by unfold State.releaseEval; (try dsimp only); (repeat' split) <;> simp
@[simp] theorem releaseEval_chans (s : State) : (s.releaseEval).chans = s.chans := by unfold State.releaseEval; (try dsimp only); (repeat' split) <;> simp
@[simp] theorem releaseEval_profile (s : State) : (s.releaseEval).profile = s.profile := by unfold State.releaseEval; (try dsimp only); (repeat' split) <;> simp
@[simp] theorem releaseEval_links (s : State) : (s.releaseEval).links = s.links := by unfold State.releaseEval; (try dsimp only); (repeat' split) <;> simp
@[simp] theorem releaseEval_tape (s : State) : (s.releaseEval).tape = s.tape := by unfold State.releaseEval; (try dsimp only); (repeat' split) <;> simp
@[simp] theorem releaseEval_sent (s : State) : (s.releaseEval).sent = s.sent := by unfold State.releaseEval; (try dsimp only); (repeat' split) <;> simp
@[simp] theorem releaseEval_pending (s : State) : (s.releaseEval).pending = s.pending := by unfold State.releaseEval; (try dsimp only); (repeat' split) <;> simp

/-! ### markEval -/

@[simp] theorem markEval_book (s : State) : (s.markEval).book = s.book := by unfold State.markEval; (try dsimp only); (repeat' split) <;> simp
@[simp] theorem markEval_library (s : State) : (s.markEval).library = s.library := by unfold State.markEval; (try dsimp only); (repeat' split) <;> simp
@[simp] theorem markEval_hides (s : State) : (s.markEval).hides = s.hides := by unfold State.markEval; (try dsimp only); (repeat' split) <;> simp
@[simp] theorem markEval_engine (s : State) : (s.markEval).engine = s.engine := by unfold State.markEval; (try dsimp only); (repeat' split) <;> simp
@[simp] theorem markEval_arbiter (s : State) : (s.markEval).arbiter = s.arbiter := by unfold State.markEval; (try dsimp only); (repeat' split) <;> simp
@[simp] theorem markEval_chans (s : State) : (s.markEval).chans = s.chans := by unfold State.markEval; (try dsimp only); (repeat' split) <;> simp
@[simp] theorem markEval_profile (s : State) : (s.markEval).profile = s.profile := by unfold State.markEval; (try dsimp only); (repeat' split) <;> simp
@[simp] theorem markEval_links (s : State) : (s.markEval).links = s.links := by unfold State.markEval; (try dsimp only); (repeat' split) <;> simp
@[simp] theorem markEval_tape (s : State) : (s.markEval).tape = s.tape := by unfold State.markEval; (try dsimp only); (repeat' split) <;> simp
@[simp] theorem markEval_sent (s : State) : (s.markEval).sent = s.sent := by unfold State.markEval; (try dsimp only); (repeat' split) <;> simp
@[simp] theorem markEval_pending (s : State) : (s.markEval).pending = s.pending := by unfold State.markEval; (try dsimp only); (repeat' split) <;> simp

/-! ### takeFrame -/

@[simp] theorem takeFrame_book (s : State) (slot tile : Nat) : (State.takeFrame slot s tile).book = s.book := by unfold State.takeFrame; (try dsimp only); (repeat' split) <;> simp
@[simp] theorem takeFrame_library (s : State) (slot tile : Nat) : (State.takeFrame slot s tile).library = s.library := by unfold State.takeFrame; (try dsimp only); (repeat' split) <;> simp
@[simp] theorem takeFrame_engine (s : State) (slot tile : Nat) : (State.takeFrame slot s tile).engine = s.engine := by unfold State.takeFrame; (try dsimp only); (repeat' split) <;> simp
@[simp] theorem takeFrame_arbiter (s : State) (slot tile : Nat) : (State.takeFrame slot s tile).arbiter = s.arbiter := by unfold State.takeFrame; (try dsimp only); (repeat' split) <;> simp
@[simp] theorem takeFrame_chans (s : State) (slot tile : Nat) : (State.takeFrame slot s tile).chans = s.chans := by unfold State.takeFrame; (try dsimp only); (repeat' split) <;> simp
@[simp] theorem takeFrame_attn (s : State) (slot tile : Nat) : (State.takeFrame slot s tile).attn = s.attn := by unfold State.takeFrame; (try dsimp only); (repeat' split) <;> simp
@[simp] theorem takeFrame_profile (s : State) (slot tile : Nat) : (State.takeFrame slot s tile).profile = s.profile := by unfold State.takeFrame; (try dsimp only); (repeat' split) <;> simp
@[simp] theorem takeFrame_links (s : State) (slot tile : Nat) : (State.takeFrame slot s tile).links = s.links := by unfold State.takeFrame; (try dsimp only); (repeat' split) <;> simp
@[simp] theorem takeFrame_tape (s : State) (slot tile : Nat) : (State.takeFrame slot s tile).tape = s.tape := by unfold State.takeFrame; (try dsimp only); (repeat' split) <;> simp
@[simp] theorem takeFrame_sent (s : State) (slot tile : Nat) : (State.takeFrame slot s tile).sent = s.sent := by unfold State.takeFrame; (try dsimp only); (repeat' split) <;> simp
@[simp] theorem takeFrame_pending (s : State) (slot tile : Nat) : (State.takeFrame slot s tile).pending = s.pending := by unfold State.takeFrame; (try dsimp only); (repeat' split) <;> simp

/-! ### freeSlot -/

@[simp] theorem freeSlot_book (s : State) (slot : Nat) : (s.freeSlot slot).book = s.book := by unfold State.freeSlot; (try dsimp only); (repeat' split) <;> simp
@[simp] theorem freeSlot_library (s : State) (slot : Nat) : (s.freeSlot slot).library = s.library := by unfold State.freeSlot; (try dsimp only); (repeat' split) <;> simp
@[simp] theorem freeSlot_engine (s : State) (slot : Nat) : (s.freeSlot slot).engine = s.engine := by unfold State.freeSlot; (try dsimp only); (repeat' split) <;> simp
@[simp] theorem freeSlot_arbiter (s : State) (slot : Nat) : (s.freeSlot slot).arbiter = s.arbiter := by unfold State.freeSlot; (try dsimp only); (repeat' split) <;> simp
@[simp] theorem freeSlot_chans (s : State) (slot : Nat) : (s.freeSlot slot).chans = s.chans := by unfold State.freeSlot; (try dsimp only); (repeat' split) <;> simp
@[simp] theorem freeSlot_profile (s : State) (slot : Nat) : (s.freeSlot slot).profile = s.profile := by unfold State.freeSlot; (try dsimp only); (repeat' split) <;> simp
@[simp] theorem freeSlot_links (s : State) (slot : Nat) : (s.freeSlot slot).links = s.links := by unfold State.freeSlot; (try dsimp only); (repeat' split) <;> simp
@[simp] theorem freeSlot_tape (s : State) (slot : Nat) : (s.freeSlot slot).tape = s.tape := by unfold State.freeSlot; (try dsimp only); (repeat' split) <;> simp
@[simp] theorem freeSlot_sent (s : State) (slot : Nat) : (s.freeSlot slot).sent = s.sent := by unfold State.freeSlot; (try dsimp only); (repeat' split) <;> simp
@[simp] theorem freeSlot_pending (s : State) (slot : Nat) : (s.freeSlot slot).pending = s.pending := by unfold State.freeSlot; (try dsimp only); (repeat' split) <;> simp

/-! ### poisonTile -/

@[simp] theorem poisonTile_book (s : State) (slot tile : Nat) : (s.poisonTile slot tile).book = s.book := by unfold State.poisonTile; (try dsimp only); (repeat' split) <;> simp
@[simp] theorem poisonTile_library (s : State) (slot tile : Nat) : (s.poisonTile slot tile).library = s.library := by unfold State.poisonTile; (try dsimp only); (repeat' split) <;> simp
@[simp] theorem poisonTile_grid (s : State) (slot tile : Nat) : (s.poisonTile slot tile).grid = s.grid := by unfold State.poisonTile; (try dsimp only); (repeat' split) <;> simp
@[simp] theorem poisonTile_engine (s : State) (slot tile : Nat) : (s.poisonTile slot tile).engine = s.engine := by unfold State.poisonTile; (try dsimp only); (repeat' split) <;> simp
@[simp] theorem poisonTile_arbiter (s : State) (slot tile : Nat) : (s.poisonTile slot tile).arbiter = s.arbiter := by unfold State.poisonTile; (try dsimp only); (repeat' split) <;> simp
@[simp] theorem poisonTile_chans (s : State) (slot tile : Nat) : (s.poisonTile slot tile).chans = s.chans := by unfold State.poisonTile; (try dsimp only); (repeat' split) <;> simp
@[simp] theorem poisonTile_profile (s : State) (slot tile : Nat) : (s.poisonTile slot tile).profile = s.profile := by unfold State.poisonTile; (try dsimp only); (repeat' split) <;> simp
@[simp] theorem poisonTile_links (s : State) (slot tile : Nat) : (s.poisonTile slot tile).links = s.links := by unfold State.poisonTile; (try dsimp only); (repeat' split) <;> simp
@[simp] theorem poisonTile_tape (s : State) (slot tile : Nat) : (s.poisonTile slot tile).tape = s.tape := by unfold State.poisonTile; (try dsimp only); (repeat' split) <;> simp
@[simp] theorem poisonTile_sent (s : State) (slot tile : Nat) : (s.poisonTile slot tile).sent = s.sent := by unfold State.poisonTile; (try dsimp only); (repeat' split) <;> simp
@[simp] theorem poisonTile_pending (s : State) (slot tile : Nat) : (s.poisonTile slot tile).pending = s.pending := by unfold State.poisonTile; (try dsimp only); (repeat' split) <;> simp

/-! ### readCell -/

@[simp] theorem readCell_book (s : State) (slot x y : Nat) : ((s.readCell slot x y).1).book = s.book := by unfold State.readCell; (try dsimp only); (repeat' split) <;> simp
@[simp] theorem readCell_library (s : State) (slot x y : Nat) : ((s.readCell slot x y).1).library = s.library := by unfold State.readCell; (try dsimp only); (repeat' split) <;> simp
@[simp] theorem readCell_engine (s : State) (slot x y : Nat) : ((s.readCell slot x y).1).engine = s.engine := by unfold State.readCell; (try dsimp only); (repeat' split) <;> simp
@[simp] theorem readCell_arbiter (s : State) (slot x y : Nat) : ((s.readCell slot x y).1).arbiter = s.arbiter := by unfold State.readCell; (try dsimp only); (repeat' split) <;> simp
@[simp] theorem readCell_chans (s : State) (slot x y : Nat) : ((s.readCell slot x y).1).chans = s.chans := by unfold State.readCell; (try dsimp only); (repeat' split) <;> simp
@[simp] theorem readCell_profile (s : State) (slot x y : Nat) : ((s.readCell slot x y).1).profile = s.profile := by unfold State.readCell; (try dsimp only); (repeat' split) <;> simp
@[simp] theorem readCell_links (s : State) (slot x y : Nat) : ((s.readCell slot x y).1).links = s.links := by unfold State.readCell; (try dsimp only); (repeat' split) <;> simp
@[simp] theorem readCell_sent (s : State) (slot x y : Nat) : ((s.readCell slot x y).1).sent = s.sent := by unfold State.readCell; (try dsimp only); (repeat' split) <;> simp
@[simp] theorem readCell_pending (s : State) (slot x y : Nat) : ((s.readCell slot x y).1).pending = s.pending := by unfold State.readCell; (try dsimp only); (repeat' split) <;> simp

/-! ### markCover -/

@[simp] theorem markCover_book (s : State) (slot m : Nat) (v : Variant) (x y : Nat) : (s.markCover slot m v x y).book = s.book := rfl
@[simp] theorem markCover_library (s : State) (slot m : Nat) (v : Variant) (x y : Nat) : (s.markCover slot m v x y).library = s.library := rfl
@[simp] theorem markCover_hides (s : State) (slot m : Nat) (v : Variant) (x y : Nat) : (s.markCover slot m v x y).hides = s.hides := rfl
@[simp] theorem markCover_engine (s : State) (slot m : Nat) (v : Variant) (x y : Nat) : (s.markCover slot m v x y).engine = s.engine := rfl
@[simp] theorem markCover_arbiter (s : State) (slot m : Nat) (v : Variant) (x y : Nat) : (s.markCover slot m v x y).arbiter = s.arbiter := rfl
@[simp] theorem markCover_chans (s : State) (slot m : Nat) (v : Variant) (x y : Nat) : (s.markCover slot m v x y).chans = s.chans := rfl
@[simp] theorem markCover_attn (s : State) (slot m : Nat) (v : Variant) (x y : Nat) : (s.markCover slot m v x y).attn = s.attn := rfl
@[simp] theorem markCover_profile (s : State) (slot m : Nat) (v : Variant) (x y : Nat) : (s.markCover slot m v x y).profile = s.profile := rfl
@[simp] theorem markCover_links (s : State) (slot m : Nat) (v : Variant) (x y : Nat) : (s.markCover slot m v x y).links = s.links := rfl
@[simp] theorem markCover_tape (s : State) (slot m : Nat) (v : Variant) (x y : Nat) : (s.markCover slot m v x y).tape = s.tape := rfl
@[simp] theorem markCover_sent (s : State) (slot m : Nat) (v : Variant) (x y : Nat) : (s.markCover slot m v x y).sent = s.sent := rfl
@[simp] theorem markCover_pending (s : State) (slot m : Nat) (v : Variant) (x y : Nat) : (s.markCover slot m v x y).pending = s.pending := rfl

/-! ### unmarkCover -/

@[simp] theorem unmarkCover_book (s : State) (slot a b x y : Nat) : (s.unmarkCover slot a b x y).book = s.book := by unfold State.unmarkCover; split <;> rfl
@[simp] theorem unmarkCover_library (s : State) (slot a b x y : Nat) : (s.unmarkCover slot a b x y).library = s.library := by unfold State.unmarkCover; split <;> rfl
@[simp] theorem unmarkCover_hides (s : State) (slot a b x y : Nat) : (s.unmarkCover slot a b x y).hides = s.hides := by unfold State.unmarkCover; split <;> rfl
@[simp] theorem unmarkCover_engine (s : State) (slot a b x y : Nat) : (s.unmarkCover slot a b x y).engine = s.engine := by unfold State.unmarkCover; split <;> rfl
@[simp] theorem unmarkCover_arbiter (s : State) (slot a b x y : Nat) : (s.unmarkCover slot a b x y).arbiter = s.arbiter := by unfold State.unmarkCover; split <;> rfl
@[simp] theorem unmarkCover_chans (s : State) (slot a b x y : Nat) : (s.unmarkCover slot a b x y).chans = s.chans := by unfold State.unmarkCover; split <;> rfl
@[simp] theorem unmarkCover_attn (s : State) (slot a b x y : Nat) : (s.unmarkCover slot a b x y).attn = s.attn := by unfold State.unmarkCover; split <;> rfl
@[simp] theorem unmarkCover_profile (s : State) (slot a b x y : Nat) : (s.unmarkCover slot a b x y).profile = s.profile := by unfold State.unmarkCover; split <;> rfl
@[simp] theorem unmarkCover_links (s : State) (slot a b x y : Nat) : (s.unmarkCover slot a b x y).links = s.links := by unfold State.unmarkCover; split <;> rfl
@[simp] theorem unmarkCover_tape (s : State) (slot a b x y : Nat) : (s.unmarkCover slot a b x y).tape = s.tape := by unfold State.unmarkCover; split <;> rfl
@[simp] theorem unmarkCover_sent (s : State) (slot a b x y : Nat) : (s.unmarkCover slot a b x y).sent = s.sent := by unfold State.unmarkCover; split <;> rfl
@[simp] theorem unmarkCover_pending (s : State) (slot a b x y : Nat) : (s.unmarkCover slot a b x y).pending = s.pending := by unfold State.unmarkCover; split <;> rfl

/-! ### writeCell -/

@[simp] theorem writeCell_book (s : State) (slot y : Nat) (c : Nat × Nat) : (State.writeCell slot y s c).book = s.book := by unfold State.writeCell; (try dsimp only); (repeat' split) <;> simp
@[simp] theorem writeCell_library (s : State) (slot y : Nat) (c : Nat × Nat) : (State.writeCell slot y s c).library = s.library := by unfold State.writeCell; (try dsimp only); (repeat' split) <;> simp
@[simp] theorem writeCell_hides (s : State) (slot y : Nat) (c : Nat × Nat) : (State.writeCell slot y s c).hides = s.hides := by unfold State.writeCell; (try dsimp only); (repeat' split) <;> simp
@[simp] theorem writeCell_engine (s : State) (slot y : Nat) (c : Nat × Nat) : (State.writeCell slot y s c).engine = s.engine := by unfold State.writeCell; (try dsimp only); (repeat' split) <;> simp
@[simp] theorem writeCell_arbiter (s : State) (slot y : Nat) (c : Nat × Nat) : (State.writeCell slot y s c).arbiter = s.arbiter := by unfold State.writeCell; (try dsimp only); (repeat' split) <;> simp
@[simp] theorem writeCell_chans (s : State) (slot y : Nat) (c : Nat × Nat) : (State.writeCell slot y s c).chans = s.chans := by unfold State.writeCell; (try dsimp only); (repeat' split) <;> simp
@[simp] theorem writeCell_attn (s : State) (slot y : Nat) (c : Nat × Nat) : (State.writeCell slot y s c).attn = s.attn := by unfold State.writeCell; (try dsimp only); (repeat' split) <;> simp
@[simp] theorem writeCell_profile (s : State) (slot y : Nat) (c : Nat × Nat) : (State.writeCell slot y s c).profile = s.profile := by unfold State.writeCell; (try dsimp only); (repeat' split) <;> simp
@[simp] theorem writeCell_links (s : State) (slot y : Nat) (c : Nat × Nat) : (State.writeCell slot y s c).links = s.links := by unfold State.writeCell; (try dsimp only); (repeat' split) <;> simp
@[simp] theorem writeCell_tape (s : State) (slot y : Nat) (c : Nat × Nat) : (State.writeCell slot y s c).tape = s.tape := by unfold State.writeCell; (try dsimp only); (repeat' split) <;> simp
@[simp] theorem writeCell_sent (s : State) (slot y : Nat) (c : Nat × Nat) : (State.writeCell slot y s c).sent = s.sent := by unfold State.writeCell; (try dsimp only); (repeat' split) <;> simp
@[simp] theorem writeCell_pending (s : State) (slot y : Nat) (c : Nat × Nat) : (State.writeCell slot y s c).pending = s.pending := by unfold State.writeCell; (try dsimp only); (repeat' split) <;> simp

/-! ### layRows -/

@[simp] theorem layRows_book (s : State) (slot y : Nat) (ts : List Nat) (cs : List (Nat × Nat)) : (s.layRows slot y ts cs).book = s.book := by
  unfold State.layRows
  have h := foldl_keeps (State.takeFrame slot) State.book (fun a b => by simp) ts s
  have k := foldl_keeps (State.writeCell slot y) State.book (fun a b => by simp) cs (ts.foldl (State.takeFrame slot) s)
  dsimp only
  split <;> simp [h, k]
@[simp] theorem layRows_library (s : State) (slot y : Nat) (ts : List Nat) (cs : List (Nat × Nat)) : (s.layRows slot y ts cs).library = s.library := by
  unfold State.layRows
  have h := foldl_keeps (State.takeFrame slot) State.library (fun a b => by simp) ts s
  have k := foldl_keeps (State.writeCell slot y) State.library (fun a b => by simp) cs (ts.foldl (State.takeFrame slot) s)
  dsimp only
  split <;> simp [h, k]
@[simp] theorem layRows_engine (s : State) (slot y : Nat) (ts : List Nat) (cs : List (Nat × Nat)) : (s.layRows slot y ts cs).engine = s.engine := by
  unfold State.layRows
  have h := foldl_keeps (State.takeFrame slot) State.engine (fun a b => by simp) ts s
  have k := foldl_keeps (State.writeCell slot y) State.engine (fun a b => by simp) cs (ts.foldl (State.takeFrame slot) s)
  dsimp only
  split <;> simp [h, k]
@[simp] theorem layRows_arbiter (s : State) (slot y : Nat) (ts : List Nat) (cs : List (Nat × Nat)) : (s.layRows slot y ts cs).arbiter = s.arbiter := by
  unfold State.layRows
  have h := foldl_keeps (State.takeFrame slot) State.arbiter (fun a b => by simp) ts s
  have k := foldl_keeps (State.writeCell slot y) State.arbiter (fun a b => by simp) cs (ts.foldl (State.takeFrame slot) s)
  dsimp only
  split <;> simp [h, k]
@[simp] theorem layRows_chans (s : State) (slot y : Nat) (ts : List Nat) (cs : List (Nat × Nat)) : (s.layRows slot y ts cs).chans = s.chans := by
  unfold State.layRows
  have h := foldl_keeps (State.takeFrame slot) State.chans (fun a b => by simp) ts s
  have k := foldl_keeps (State.writeCell slot y) State.chans (fun a b => by simp) cs (ts.foldl (State.takeFrame slot) s)
  dsimp only
  split <;> simp [h, k]
@[simp] theorem layRows_profile (s : State) (slot y : Nat) (ts : List Nat) (cs : List (Nat × Nat)) : (s.layRows slot y ts cs).profile = s.profile := by
  unfold State.layRows
  have h := foldl_keeps (State.takeFrame slot) State.profile (fun a b => by simp) ts s
  have k := foldl_keeps (State.writeCell slot y) State.profile (fun a b => by simp) cs (ts.foldl (State.takeFrame slot) s)
  dsimp only
  split <;> simp [h, k]
@[simp] theorem layRows_links (s : State) (slot y : Nat) (ts : List Nat) (cs : List (Nat × Nat)) : (s.layRows slot y ts cs).links = s.links := by
  unfold State.layRows
  have h := foldl_keeps (State.takeFrame slot) State.links (fun a b => by simp) ts s
  have k := foldl_keeps (State.writeCell slot y) State.links (fun a b => by simp) cs (ts.foldl (State.takeFrame slot) s)
  dsimp only
  split <;> simp [h, k]
@[simp] theorem layRows_tape (s : State) (slot y : Nat) (ts : List Nat) (cs : List (Nat × Nat)) : (s.layRows slot y ts cs).tape = s.tape := by
  unfold State.layRows
  have h := foldl_keeps (State.takeFrame slot) State.tape (fun a b => by simp) ts s
  have k := foldl_keeps (State.writeCell slot y) State.tape (fun a b => by simp) cs (ts.foldl (State.takeFrame slot) s)
  dsimp only
  split <;> simp [h, k]
@[simp] theorem layRows_sent (s : State) (slot y : Nat) (ts : List Nat) (cs : List (Nat × Nat)) : (s.layRows slot y ts cs).sent = s.sent := by
  unfold State.layRows
  have h := foldl_keeps (State.takeFrame slot) State.sent (fun a b => by simp) ts s
  have k := foldl_keeps (State.writeCell slot y) State.sent (fun a b => by simp) cs (ts.foldl (State.takeFrame slot) s)
  dsimp only
  split <;> simp [h, k]
@[simp] theorem layRows_pending (s : State) (slot y : Nat) (ts : List Nat) (cs : List (Nat × Nat)) : (s.layRows slot y ts cs).pending = s.pending := by
  unfold State.layRows
  have h := foldl_keeps (State.takeFrame slot) State.pending (fun a b => by simp) ts s
  have k := foldl_keeps (State.writeCell slot y) State.pending (fun a b => by simp) cs (ts.foldl (State.takeFrame slot) s)
  dsimp only
  split <;> simp [h, k]

/-! ### settleLine -/

@[simp] theorem settleLine_library (s : State) (id : Nat) (l : Line) : (s.settleLine id l).library = s.library := by unfold State.settleLine; (try dsimp only); (repeat' split) <;> simp
@[simp] theorem settleLine_hides (s : State) (id : Nat) (l : Line) : (s.settleLine id l).hides = s.hides := by unfold State.settleLine; (try dsimp only); (repeat' split) <;> simp
@[simp] theorem settleLine_grid (s : State) (id : Nat) (l : Line) : (s.settleLine id l).grid = s.grid := by unfold State.settleLine; (try dsimp only); (repeat' split) <;> simp
@[simp] theorem settleLine_engine (s : State) (id : Nat) (l : Line) : (s.settleLine id l).engine = s.engine := by unfold State.settleLine; (try dsimp only); (repeat' split) <;> simp
@[simp] theorem settleLine_arbiter (s : State) (id : Nat) (l : Line) : (s.settleLine id l).arbiter = s.arbiter := by unfold State.settleLine; (try dsimp only); (repeat' split) <;> simp
@[simp] theorem settleLine_chans (s : State) (id : Nat) (l : Line) : (s.settleLine id l).chans = s.chans := by unfold State.settleLine; (try dsimp only); (repeat' split) <;> simp
@[simp] theorem settleLine_profile (s : State) (id : Nat) (l : Line) : (s.settleLine id l).profile = s.profile := by unfold State.settleLine; (try dsimp only); (repeat' split) <;> simp
@[simp] theorem settleLine_links (s : State) (id : Nat) (l : Line) : (s.settleLine id l).links = s.links := by unfold State.settleLine; (try dsimp only); (repeat' split) <;> simp
@[simp] theorem settleLine_tape (s : State) (id : Nat) (l : Line) : (s.settleLine id l).tape = s.tape := by unfold State.settleLine; (try dsimp only); (repeat' split) <;> simp
@[simp] theorem settleLine_sent (s : State) (id : Nat) (l : Line) : (s.settleLine id l).sent = s.sent := by unfold State.settleLine; (try dsimp only); (repeat' split) <;> simp
@[simp] theorem settleLine_pending (s : State) (id : Nat) (l : Line) : (s.settleLine id l).pending = s.pending := by unfold State.settleLine; (try dsimp only); (repeat' split) <;> simp

/-! ### claimResolve -/

@[simp] theorem claimResolve_library (s : State) (id : Nat) : (s.claimResolve id).library = s.library := by unfold State.claimResolve; (try dsimp only); (repeat' split) <;> simp
@[simp] theorem claimResolve_hides (s : State) (id : Nat) : (s.claimResolve id).hides = s.hides := by unfold State.claimResolve; (try dsimp only); (repeat' split) <;> simp
@[simp] theorem claimResolve_grid (s : State) (id : Nat) : (s.claimResolve id).grid = s.grid := by unfold State.claimResolve; (try dsimp only); (repeat' split) <;> simp
@[simp] theorem claimResolve_engine (s : State) (id : Nat) : (s.claimResolve id).engine = s.engine := by unfold State.claimResolve; (try dsimp only); (repeat' split) <;> simp
@[simp] theorem claimResolve_arbiter (s : State) (id : Nat) : (s.claimResolve id).arbiter = s.arbiter := by unfold State.claimResolve; (try dsimp only); (repeat' split) <;> simp
@[simp] theorem claimResolve_chans (s : State) (id : Nat) : (s.claimResolve id).chans = s.chans := by unfold State.claimResolve; (try dsimp only); (repeat' split) <;> simp
@[simp] theorem claimResolve_profile (s : State) (id : Nat) : (s.claimResolve id).profile = s.profile := by unfold State.claimResolve; (try dsimp only); (repeat' split) <;> simp
@[simp] theorem claimResolve_links (s : State) (id : Nat) : (s.claimResolve id).links = s.links := by unfold State.claimResolve; (try dsimp only); (repeat' split) <;> simp
@[simp] theorem claimResolve_tape (s : State) (id : Nat) : (s.claimResolve id).tape = s.tape := by unfold State.claimResolve; (try dsimp only); (repeat' split) <;> simp
@[simp] theorem claimResolve_sent (s : State) (id : Nat) : (s.claimResolve id).sent = s.sent := by unfold State.claimResolve; (try dsimp only); (repeat' split) <;> simp
@[simp] theorem claimResolve_pending (s : State) (id : Nat) : (s.claimResolve id).pending = s.pending := by unfold State.claimResolve; (try dsimp only); (repeat' split) <;> simp

/-! ### claimReturn -/

@[simp] theorem claimReturn_library (s : State) (id : Nat) : (s.claimReturn id).library = s.library := by unfold State.claimReturn; (try dsimp only); (repeat' split) <;> simp
@[simp] theorem claimReturn_hides (s : State) (id : Nat) : (s.claimReturn id).hides = s.hides := by unfold State.claimReturn; (try dsimp only); (repeat' split) <;> simp
@[simp] theorem claimReturn_grid (s : State) (id : Nat) : (s.claimReturn id).grid = s.grid := by unfold State.claimReturn; (try dsimp only); (repeat' split) <;> simp
@[simp] theorem claimReturn_engine (s : State) (id : Nat) : (s.claimReturn id).engine = s.engine := by unfold State.claimReturn; (try dsimp only); (repeat' split) <;> simp
@[simp] theorem claimReturn_arbiter (s : State) (id : Nat) : (s.claimReturn id).arbiter = s.arbiter := by unfold State.claimReturn; (try dsimp only); (repeat' split) <;> simp
@[simp] theorem claimReturn_chans (s : State) (id : Nat) : (s.claimReturn id).chans = s.chans := by unfold State.claimReturn; (try dsimp only); (repeat' split) <;> simp
@[simp] theorem claimReturn_profile (s : State) (id : Nat) : (s.claimReturn id).profile = s.profile := by unfold State.claimReturn; (try dsimp only); (repeat' split) <;> simp
@[simp] theorem claimReturn_links (s : State) (id : Nat) : (s.claimReturn id).links = s.links := by unfold State.claimReturn; (try dsimp only); (repeat' split) <;> simp
@[simp] theorem claimReturn_tape (s : State) (id : Nat) : (s.claimReturn id).tape = s.tape := by unfold State.claimReturn; (try dsimp only); (repeat' split) <;> simp
@[simp] theorem claimReturn_sent (s : State) (id : Nat) : (s.claimReturn id).sent = s.sent := by unfold State.claimReturn; (try dsimp only); (repeat' split) <;> simp
@[simp] theorem claimReturn_pending (s : State) (id : Nat) : (s.claimReturn id).pending = s.pending := by unfold State.claimReturn; (try dsimp only); (repeat' split) <;> simp

/-! ### resizeLine -/

@[simp] theorem resizeLine_library (s : State) (o id : Nat) : (resizeLine o id s).library = s.library := by unfold resizeLine; (try dsimp only); (repeat' split) <;> simp
@[simp] theorem resizeLine_hides (s : State) (o id : Nat) : (resizeLine o id s).hides = s.hides := by unfold resizeLine; (try dsimp only); (repeat' split) <;> simp
@[simp] theorem resizeLine_grid (s : State) (o id : Nat) : (resizeLine o id s).grid = s.grid := by unfold resizeLine; (try dsimp only); (repeat' split) <;> simp
@[simp] theorem resizeLine_engine (s : State) (o id : Nat) : (resizeLine o id s).engine = s.engine := by unfold resizeLine; (try dsimp only); (repeat' split) <;> simp
@[simp] theorem resizeLine_arbiter (s : State) (o id : Nat) : (resizeLine o id s).arbiter = s.arbiter := by unfold resizeLine; (try dsimp only); (repeat' split) <;> simp
@[simp] theorem resizeLine_chans (s : State) (o id : Nat) : (resizeLine o id s).chans = s.chans := by unfold resizeLine; (try dsimp only); (repeat' split) <;> simp
@[simp] theorem resizeLine_profile (s : State) (o id : Nat) : (resizeLine o id s).profile = s.profile := by unfold resizeLine; (try dsimp only); (repeat' split) <;> simp
@[simp] theorem resizeLine_links (s : State) (o id : Nat) : (resizeLine o id s).links = s.links := by unfold resizeLine; (try dsimp only); (repeat' split) <;> simp
@[simp] theorem resizeLine_tape (s : State) (o id : Nat) : (resizeLine o id s).tape = s.tape := by unfold resizeLine; (try dsimp only); (repeat' split) <;> simp
@[simp] theorem resizeLine_sent (s : State) (o id : Nat) : (resizeLine o id s).sent = s.sent := by unfold resizeLine; (try dsimp only); (repeat' split) <;> simp
@[simp] theorem resizeLine_pending (s : State) (o id : Nat) : (resizeLine o id s).pending = s.pending := by unfold resizeLine; (try dsimp only); (repeat' split) <;> simp

/-! ### cancelLine -/

@[simp] theorem cancelLine_library (s : State) (id : Nat) : (cancelLine id s).library = s.library := by unfold cancelLine; (try dsimp only); (repeat' split) <;> simp
@[simp] theorem cancelLine_hides (s : State) (id : Nat) : (cancelLine id s).hides = s.hides := by unfold cancelLine; (try dsimp only); (repeat' split) <;> simp
@[simp] theorem cancelLine_grid (s : State) (id : Nat) : (cancelLine id s).grid = s.grid := by unfold cancelLine; (try dsimp only); (repeat' split) <;> simp
@[simp] theorem cancelLine_engine (s : State) (id : Nat) : (cancelLine id s).engine = s.engine := by unfold cancelLine; (try dsimp only); (repeat' split) <;> simp
@[simp] theorem cancelLine_arbiter (s : State) (id : Nat) : (cancelLine id s).arbiter = s.arbiter := by unfold cancelLine; (try dsimp only); (repeat' split) <;> simp
@[simp] theorem cancelLine_chans (s : State) (id : Nat) : (cancelLine id s).chans = s.chans := by unfold cancelLine; (try dsimp only); (repeat' split) <;> simp
@[simp] theorem cancelLine_profile (s : State) (id : Nat) : (cancelLine id s).profile = s.profile := by unfold cancelLine; (try dsimp only); (repeat' split) <;> simp
@[simp] theorem cancelLine_links (s : State) (id : Nat) : (cancelLine id s).links = s.links := by unfold cancelLine; (try dsimp only); (repeat' split) <;> simp
@[simp] theorem cancelLine_tape (s : State) (id : Nat) : (cancelLine id s).tape = s.tape := by unfold cancelLine; (try dsimp only); (repeat' split) <;> simp
@[simp] theorem cancelLine_sent (s : State) (id : Nat) : (cancelLine id s).sent = s.sent := by unfold cancelLine; (try dsimp only); (repeat' split) <;> simp
@[simp] theorem cancelLine_pending (s : State) (id : Nat) : (cancelLine id s).pending = s.pending := by unfold cancelLine; (try dsimp only); (repeat' split) <;> simp

end Sys2Proof.Laws
end

