-- ==== Sys2Proof/Laws/Sweep.lean ====
section
/-! SUPPORT. What the fit test, the strike, the sweep and the application of a flaw leave as it was. -/

namespace Sys2Proof.Laws

open Sys2Proof.Machine

/-! ### testCell -/

@[simp] theorem testCell_book (s : State) (r : Bool) (slot : Nat) (band : Option (Nat × Nat)) (h : Hide) (z x y : Nat) : ((testCell r slot band h z x y s).1).book = s.book := by unfold testCell; (try dsimp only); (repeat' split) <;> simp
@[simp] theorem testCell_library (s : State) (r : Bool) (slot : Nat) (band : Option (Nat × Nat)) (h : Hide) (z x y : Nat) : ((testCell r slot band h z x y s).1).library = s.library := by unfold testCell; (try dsimp only); (repeat' split) <;> simp
@[simp] theorem testCell_engine (s : State) (r : Bool) (slot : Nat) (band : Option (Nat × Nat)) (h : Hide) (z x y : Nat) : ((testCell r slot band h z x y s).1).engine = s.engine := by unfold testCell; (try dsimp only); (repeat' split) <;> simp
@[simp] theorem testCell_arbiter (s : State) (r : Bool) (slot : Nat) (band : Option (Nat × Nat)) (h : Hide) (z x y : Nat) : ((testCell r slot band h z x y s).1).arbiter = s.arbiter := by unfold testCell; (try dsimp only); (repeat' split) <;> simp
@[simp] theorem testCell_chans (s : State) (r : Bool) (slot : Nat) (band : Option (Nat × Nat)) (h : Hide) (z x y : Nat) : ((testCell r slot band h z x y s).1).chans = s.chans := by unfold testCell; (try dsimp only); (repeat' split) <;> simp
@[simp] theorem testCell_profile (s : State) (r : Bool) (slot : Nat) (band : Option (Nat × Nat)) (h : Hide) (z x y : Nat) : ((testCell r slot band h z x y s).1).profile = s.profile := by unfold testCell; (try dsimp only); (repeat' split) <;> simp
@[simp] theorem testCell_links (s : State) (r : Bool) (slot : Nat) (band : Option (Nat × Nat)) (h : Hide) (z x y : Nat) : ((testCell r slot band h z x y s).1).links = s.links := by unfold testCell; (try dsimp only); (repeat' split) <;> simp
@[simp] theorem testCell_sent (s : State) (r : Bool) (slot : Nat) (band : Option (Nat × Nat)) (h : Hide) (z x y : Nat) : ((testCell r slot band h z x y s).1).sent = s.sent := by unfold testCell; (try dsimp only); (repeat' split) <;> simp
@[simp] theorem testCell_pending (s : State) (r : Bool) (slot : Nat) (band : Option (Nat × Nat)) (h : Hide) (z x y : Nat) : ((testCell r slot band h z x y s).1).pending = s.pending := by unfold testCell; (try dsimp only); (repeat' split) <;> simp

/-! ### testCells -/

@[simp] theorem testCells_book (s : State) (r : Bool) (slot : Nat) (band : Option (Nat × Nat)) (h : Hide) (x y : Nat) (cs : List BodyCell) : ((testCells r slot band h x y cs s).1).book = s.book := by
  induction cs generalizing s with
  | nil => rfl
  | cons c cs ih =>
    unfold testCells
    dsimp only
    split <;> simp [ih]
@[simp] theorem testCells_library (s : State) (r : Bool) (slot : Nat) (band : Option (Nat × Nat)) (h : Hide) (x y : Nat) (cs : List BodyCell) : ((testCells r slot band h x y cs s).1).library = s.library := by
  induction cs generalizing s with
  | nil => rfl
  | cons c cs ih =>
    unfold testCells
    dsimp only
    split <;> simp [ih]
@[simp] theorem testCells_engine (s : State) (r : Bool) (slot : Nat) (band : Option (Nat × Nat)) (h : Hide) (x y : Nat) (cs : List BodyCell) : ((testCells r slot band h x y cs s).1).engine = s.engine := by
  induction cs generalizing s with
  | nil => rfl
  | cons c cs ih =>
    unfold testCells
    dsimp only
    split <;> simp [ih]
@[simp] theorem testCells_arbiter (s : State) (r : Bool) (slot : Nat) (band : Option (Nat × Nat)) (h : Hide) (x y : Nat) (cs : List BodyCell) : ((testCells r slot band h x y cs s).1).arbiter = s.arbiter := by
  induction cs generalizing s with
  | nil => rfl
  | cons c cs ih =>
    unfold testCells
    dsimp only
    split <;> simp [ih]
@[simp] theorem testCells_chans (s : State) (r : Bool) (slot : Nat) (band : Option (Nat × Nat)) (h : Hide) (x y : Nat) (cs : List BodyCell) : ((testCells r slot band h x y cs s).1).chans = s.chans := by
  induction cs generalizing s with
  | nil => rfl
  | cons c cs ih =>
    unfold testCells
    dsimp only
    split <;> simp [ih]
@[simp] theorem testCells_profile (s : State) (r : Bool) (slot : Nat) (band : Option (Nat × Nat)) (h : Hide) (x y : Nat) (cs : List BodyCell) : ((testCells r slot band h x y cs s).1).profile = s.profile := by
  induction cs generalizing s with
  | nil => rfl
  | cons c cs ih =>
    unfold testCells
    dsimp only
    split <;> simp [ih]
@[simp] theorem testCells_links (s : State) (r : Bool) (slot : Nat) (band : Option (Nat × Nat)) (h : Hide) (x y : Nat) (cs : List BodyCell) : ((testCells r slot band h x y cs s).1).links = s.links := by
  induction cs generalizing s with
  | nil => rfl
  | cons c cs ih =>
    unfold testCells
    dsimp only
    split <;> simp [ih]
@[simp] theorem testCells_sent (s : State) (r : Bool) (slot : Nat) (band : Option (Nat × Nat)) (h : Hide) (x y : Nat) (cs : List BodyCell) : ((testCells r slot band h x y cs s).1).sent = s.sent := by
  induction cs generalizing s with
  | nil => rfl
  | cons c cs ih =>
    unfold testCells
    dsimp only
    split <;> simp [ih]
@[simp] theorem testCells_pending (s : State) (r : Bool) (slot : Nat) (band : Option (Nat × Nat)) (h : Hide) (x y : Nat) (cs : List BodyCell) : ((testCells r slot band h x y cs s).1).pending = s.pending := by
  induction cs generalizing s with
  | nil => rfl
  | cons c cs ih =>
    unfold testCells
    dsimp only
    split <;> simp [ih]

/-! ### fitTest -/

@[simp] theorem fitTest_book (s : State) (r : Bool) (slot : Nat) (band : Option (Nat × Nat)) (v : Variant) (x y : Nat) : ((fitTest r slot band v x y s).1).book = s.book := by unfold fitTest; (try dsimp only); (repeat' split) <;> simp
@[simp] theorem fitTest_library (s : State) (r : Bool) (slot : Nat) (band : Option (Nat × Nat)) (v : Variant) (x y : Nat) : ((fitTest r slot band v x y s).1).library = s.library := by unfold fitTest; (try dsimp only); (repeat' split) <;> simp
@[simp] theorem fitTest_engine (s : State) (r : Bool) (slot : Nat) (band : Option (Nat × Nat)) (v : Variant) (x y : Nat) : ((fitTest r slot band v x y s).1).engine = s.engine := by unfold fitTest; (try dsimp only); (repeat' split) <;> simp
@[simp] theorem fitTest_arbiter (s : State) (r : Bool) (slot : Nat) (band : Option (Nat × Nat)) (v : Variant) (x y : Nat) : ((fitTest r slot band v x y s).1).arbiter = s.arbiter := by unfold fitTest; (try dsimp only); (repeat' split) <;> simp
@[simp] theorem fitTest_chans (s : State) (r : Bool) (slot : Nat) (band : Option (Nat × Nat)) (v : Variant) (x y : Nat) : ((fitTest r slot band v x y s).1).chans = s.chans := by unfold fitTest; (try dsimp only); (repeat' split) <;> simp
@[simp] theorem fitTest_profile (s : State) (r : Bool) (slot : Nat) (band : Option (Nat × Nat)) (v : Variant) (x y : Nat) : ((fitTest r slot band v x y s).1).profile = s.profile := by unfold fitTest; (try dsimp only); (repeat' split) <;> simp
@[simp] theorem fitTest_links (s : State) (r : Bool) (slot : Nat) (band : Option (Nat × Nat)) (v : Variant) (x y : Nat) : ((fitTest r slot band v x y s).1).links = s.links := by unfold fitTest; (try dsimp only); (repeat' split) <;> simp
@[simp] theorem fitTest_sent (s : State) (r : Bool) (slot : Nat) (band : Option (Nat × Nat)) (v : Variant) (x y : Nat) : ((fitTest r slot band v x y s).1).sent = s.sent := by unfold fitTest; (try dsimp only); (repeat' split) <;> simp
@[simp] theorem fitTest_pending (s : State) (r : Bool) (slot : Nat) (band : Option (Nat × Nat)) (v : Variant) (x y : Nat) : ((fitTest r slot band v x y s).1).pending = s.pending := by unfold fitTest; (try dsimp only); (repeat' split) <;> simp

/-! ### strikeOne -/

@[simp] theorem strikeOne_library (s : State) (slot i : Nat) : (s.strikeOne slot i).library = s.library := by unfold State.strikeOne; (try dsimp only); (repeat' split) <;> simp
@[simp] theorem strikeOne_engine (s : State) (slot i : Nat) : (s.strikeOne slot i).engine = s.engine := by unfold State.strikeOne; (try dsimp only); (repeat' split) <;> simp
@[simp] theorem strikeOne_arbiter (s : State) (slot i : Nat) : (s.strikeOne slot i).arbiter = s.arbiter := by unfold State.strikeOne; (try dsimp only); (repeat' split) <;> simp
@[simp] theorem strikeOne_chans (s : State) (slot i : Nat) : (s.strikeOne slot i).chans = s.chans := by unfold State.strikeOne; (try dsimp only); (repeat' split) <;> simp
@[simp] theorem strikeOne_profile (s : State) (slot i : Nat) : (s.strikeOne slot i).profile = s.profile := by unfold State.strikeOne; (try dsimp only); (repeat' split) <;> simp
@[simp] theorem strikeOne_links (s : State) (slot i : Nat) : (s.strikeOne slot i).links = s.links := by unfold State.strikeOne; (try dsimp only); (repeat' split) <;> simp
@[simp] theorem strikeOne_tape (s : State) (slot i : Nat) : (s.strikeOne slot i).tape = s.tape := by unfold State.strikeOne; (try dsimp only); (repeat' split) <;> simp
@[simp] theorem strikeOne_sent (s : State) (slot i : Nat) : (s.strikeOne slot i).sent = s.sent := by unfold State.strikeOne; (try dsimp only); (repeat' split) <;> simp
@[simp] theorem strikeOne_pending (s : State) (slot i : Nat) : (s.strikeOne slot i).pending = s.pending := by unfold State.strikeOne; (try dsimp only); (repeat' split) <;> simp

/-! ### strike -/

@[simp] theorem strike_library (s : State) (slot i : Nat) : (s.strike slot i).library = s.library := by unfold State.strike; (try dsimp only); (repeat' split) <;> simp
@[simp] theorem strike_engine (s : State) (slot i : Nat) : (s.strike slot i).engine = s.engine := by unfold State.strike; (try dsimp only); (repeat' split) <;> simp
@[simp] theorem strike_arbiter (s : State) (slot i : Nat) : (s.strike slot i).arbiter = s.arbiter := by unfold State.strike; (try dsimp only); (repeat' split) <;> simp
@[simp] theorem strike_chans (s : State) (slot i : Nat) : (s.strike slot i).chans = s.chans := by unfold State.strike; (try dsimp only); (repeat' split) <;> simp
@[simp] theorem strike_profile (s : State) (slot i : Nat) : (s.strike slot i).profile = s.profile := by unfold State.strike; (try dsimp only); (repeat' split) <;> simp
@[simp] theorem strike_links (s : State) (slot i : Nat) : (s.strike slot i).links = s.links := by unfold State.strike; (try dsimp only); (repeat' split) <;> simp
@[simp] theorem strike_tape (s : State) (slot i : Nat) : (s.strike slot i).tape = s.tape := by unfold State.strike; (try dsimp only); (repeat' split) <;> simp
@[simp] theorem strike_sent (s : State) (slot i : Nat) : (s.strike slot i).sent = s.sent := by unfold State.strike; (try dsimp only); (repeat' split) <;> simp
@[simp] theorem strike_pending (s : State) (slot i : Nat) : (s.strike slot i).pending = s.pending := by unfold State.strike; (try dsimp only); (repeat' split) <;> simp

/-! ### retest -/

@[simp] theorem retest_library (w : Sweep) (slot i : Nat) : ((Sweep.retest slot w i).s).library = w.s.library := by unfold Sweep.retest; (try dsimp only); (repeat' split) <;> simp
@[simp] theorem retest_engine (w : Sweep) (slot i : Nat) : ((Sweep.retest slot w i).s).engine = w.s.engine := by unfold Sweep.retest; (try dsimp only); (repeat' split) <;> simp
@[simp] theorem retest_arbiter (w : Sweep) (slot i : Nat) : ((Sweep.retest slot w i).s).arbiter = w.s.arbiter := by unfold Sweep.retest; (try dsimp only); (repeat' split) <;> simp
@[simp] theorem retest_chans (w : Sweep) (slot i : Nat) : ((Sweep.retest slot w i).s).chans = w.s.chans := by unfold Sweep.retest; (try dsimp only); (repeat' split) <;> simp
@[simp] theorem retest_profile (w : Sweep) (slot i : Nat) : ((Sweep.retest slot w i).s).profile = w.s.profile := by unfold Sweep.retest; (try dsimp only); (repeat' split) <;> simp
@[simp] theorem retest_links (w : Sweep) (slot i : Nat) : ((Sweep.retest slot w i).s).links = w.s.links := by unfold Sweep.retest; (try dsimp only); (repeat' split) <;> simp
@[simp] theorem retest_sent (w : Sweep) (slot i : Nat) : ((Sweep.retest slot w i).s).sent = w.s.sent := by unfold Sweep.retest; (try dsimp only); (repeat' split) <;> simp
@[simp] theorem retest_pending (w : Sweep) (slot i : Nat) : ((Sweep.retest slot w i).s).pending = w.s.pending := by unfold Sweep.retest; (try dsimp only); (repeat' split) <;> simp

/-! ### mark -/

@[simp] theorem mark_library (w : Sweep) (slot i : Nat) : ((Sweep.mark slot w i).s).library = w.s.library := by simp [Sweep.mark]
@[simp] theorem mark_engine (w : Sweep) (slot i : Nat) : ((Sweep.mark slot w i).s).engine = w.s.engine := by simp [Sweep.mark]
@[simp] theorem mark_arbiter (w : Sweep) (slot i : Nat) : ((Sweep.mark slot w i).s).arbiter = w.s.arbiter := by simp [Sweep.mark]
@[simp] theorem mark_chans (w : Sweep) (slot i : Nat) : ((Sweep.mark slot w i).s).chans = w.s.chans := by simp [Sweep.mark]
@[simp] theorem mark_profile (w : Sweep) (slot i : Nat) : ((Sweep.mark slot w i).s).profile = w.s.profile := by simp [Sweep.mark]
@[simp] theorem mark_links (w : Sweep) (slot i : Nat) : ((Sweep.mark slot w i).s).links = w.s.links := by simp [Sweep.mark]
@[simp] theorem mark_sent (w : Sweep) (slot i : Nat) : ((Sweep.mark slot w i).s).sent = w.s.sent := by simp [Sweep.mark]
@[simp] theorem mark_pending (w : Sweep) (slot i : Nat) : ((Sweep.mark slot w i).s).pending = w.s.pending := by simp [Sweep.mark]

/-! ### round -/

@[simp] theorem round_library (w : Sweep) (slot : Nat) (a c : Nat → Nat → Bool) : ((w.round slot a c).s).library = w.s.library := by
  unfold Sweep.round
  dsimp only
  rw [foldl_keeps (Sweep.mark slot) (fun w => w.s.library) (fun a b => by simp),
    foldl_keeps (Sweep.retest slot) (fun w => w.s.library) (fun a b => by simp)]
@[simp] theorem round_engine (w : Sweep) (slot : Nat) (a c : Nat → Nat → Bool) : ((w.round slot a c).s).engine = w.s.engine := by
  unfold Sweep.round
  dsimp only
  rw [foldl_keeps (Sweep.mark slot) (fun w => w.s.engine) (fun a b => by simp),
    foldl_keeps (Sweep.retest slot) (fun w => w.s.engine) (fun a b => by simp)]
@[simp] theorem round_arbiter (w : Sweep) (slot : Nat) (a c : Nat → Nat → Bool) : ((w.round slot a c).s).arbiter = w.s.arbiter := by
  unfold Sweep.round
  dsimp only
  rw [foldl_keeps (Sweep.mark slot) (fun w => w.s.arbiter) (fun a b => by simp),
    foldl_keeps (Sweep.retest slot) (fun w => w.s.arbiter) (fun a b => by simp)]
@[simp] theorem round_chans (w : Sweep) (slot : Nat) (a c : Nat → Nat → Bool) : ((w.round slot a c).s).chans = w.s.chans := by
  unfold Sweep.round
  dsimp only
  rw [foldl_keeps (Sweep.mark slot) (fun w => w.s.chans) (fun a b => by simp),
    foldl_keeps (Sweep.retest slot) (fun w => w.s.chans) (fun a b => by simp)]
@[simp] theorem round_profile (w : Sweep) (slot : Nat) (a c : Nat → Nat → Bool) : ((w.round slot a c).s).profile = w.s.profile := by
  unfold Sweep.round
  dsimp only
  rw [foldl_keeps (Sweep.mark slot) (fun w => w.s.profile) (fun a b => by simp),
    foldl_keeps (Sweep.retest slot) (fun w => w.s.profile) (fun a b => by simp)]
@[simp] theorem round_links (w : Sweep) (slot : Nat) (a c : Nat → Nat → Bool) : ((w.round slot a c).s).links = w.s.links := by
  unfold Sweep.round
  dsimp only
  rw [foldl_keeps (Sweep.mark slot) (fun w => w.s.links) (fun a b => by simp),
    foldl_keeps (Sweep.retest slot) (fun w => w.s.links) (fun a b => by simp)]
@[simp] theorem round_sent (w : Sweep) (slot : Nat) (a c : Nat → Nat → Bool) : ((w.round slot a c).s).sent = w.s.sent := by
  unfold Sweep.round
  dsimp only
  rw [foldl_keeps (Sweep.mark slot) (fun w => w.s.sent) (fun a b => by simp),
    foldl_keeps (Sweep.retest slot) (fun w => w.s.sent) (fun a b => by simp)]
@[simp] theorem round_pending (w : Sweep) (slot : Nat) (a c : Nat → Nat → Bool) : ((w.round slot a c).s).pending = w.s.pending := by
  unfold Sweep.round
  dsimp only
  rw [foldl_keeps (Sweep.mark slot) (fun w => w.s.pending) (fun a b => by simp),
    foldl_keeps (Sweep.retest slot) (fun w => w.s.pending) (fun a b => by simp)]

/-! ### rounds -/

@[simp] theorem rounds_library (w : Sweep) (slot cols fuel : Nat) : ((w.rounds slot cols fuel).s).library = w.s.library := by
  induction fuel generalizing w with
  | zero => rfl
  | succ n ih =>
    unfold Sweep.rounds
    split
    · rfl
    · rw [ih, round_library]
@[simp] theorem rounds_engine (w : Sweep) (slot cols fuel : Nat) : ((w.rounds slot cols fuel).s).engine = w.s.engine := by
  induction fuel generalizing w with
  | zero => rfl
  | succ n ih =>
    unfold Sweep.rounds
    split
    · rfl
    · rw [ih, round_engine]
@[simp] theorem rounds_arbiter (w : Sweep) (slot cols fuel : Nat) : ((w.rounds slot cols fuel).s).arbiter = w.s.arbiter := by
  induction fuel generalizing w with
  | zero => rfl
  | succ n ih =>
    unfold Sweep.rounds
    split
    · rfl
    · rw [ih, round_arbiter]
@[simp] theorem rounds_chans (w : Sweep) (slot cols fuel : Nat) : ((w.rounds slot cols fuel).s).chans = w.s.chans := by
  induction fuel generalizing w with
  | zero => rfl
  | succ n ih =>
    unfold Sweep.rounds
    split
    · rfl
    · rw [ih, round_chans]
@[simp] theorem rounds_profile (w : Sweep) (slot cols fuel : Nat) : ((w.rounds slot cols fuel).s).profile = w.s.profile := by
  induction fuel generalizing w with
  | zero => rfl
  | succ n ih =>
    unfold Sweep.rounds
    split
    · rfl
    · rw [ih, round_profile]
@[simp] theorem rounds_links (w : Sweep) (slot cols fuel : Nat) : ((w.rounds slot cols fuel).s).links = w.s.links := by
  induction fuel generalizing w with
  | zero => rfl
  | succ n ih =>
    unfold Sweep.rounds
    split
    · rfl
    · rw [ih, round_links]
@[simp] theorem rounds_sent (w : Sweep) (slot cols fuel : Nat) : ((w.rounds slot cols fuel).s).sent = w.s.sent := by
  induction fuel generalizing w with
  | zero => rfl
  | succ n ih =>
    unfold Sweep.rounds
    split
    · rfl
    · rw [ih, round_sent]
@[simp] theorem rounds_pending (w : Sweep) (slot cols fuel : Nat) : ((w.rounds slot cols fuel).s).pending = w.s.pending := by
  induction fuel generalizing w with
  | zero => rfl
  | succ n ih =>
    unfold Sweep.rounds
    split
    · rfl
    · rw [ih, round_pending]

/-! ### sweep -/

@[simp] theorem sweep_library (s : State) (slot : Nat) (a c : Nat → Nat → Bool) : ((s.sweep slot a c).s).library = s.library := by simp [State.sweep]
@[simp] theorem sweep_engine (s : State) (slot : Nat) (a c : Nat → Nat → Bool) : ((s.sweep slot a c).s).engine = s.engine := by simp [State.sweep]
@[simp] theorem sweep_arbiter (s : State) (slot : Nat) (a c : Nat → Nat → Bool) : ((s.sweep slot a c).s).arbiter = s.arbiter := by simp [State.sweep]
@[simp] theorem sweep_chans (s : State) (slot : Nat) (a c : Nat → Nat → Bool) : ((s.sweep slot a c).s).chans = s.chans := by simp [State.sweep]
@[simp] theorem sweep_profile (s : State) (slot : Nat) (a c : Nat → Nat → Bool) : ((s.sweep slot a c).s).profile = s.profile := by simp [State.sweep]
@[simp] theorem sweep_links (s : State) (slot : Nat) (a c : Nat → Nat → Bool) : ((s.sweep slot a c).s).links = s.links := by simp [State.sweep]
@[simp] theorem sweep_sent (s : State) (slot : Nat) (a c : Nat → Nat → Bool) : ((s.sweep slot a c).s).sent = s.sent := by simp [State.sweep]
@[simp] theorem sweep_pending (s : State) (slot : Nat) (a c : Nat → Nat → Bool) : ((s.sweep slot a c).s).pending = s.pending := by simp [State.sweep]

/-! ### sweepTile -/

@[simp] theorem sweepTile_library (s : State) (slot tile : Nat) : ((s.sweepTile slot tile).s).library = s.library := by simp [State.sweepTile]
@[simp] theorem sweepTile_engine (s : State) (slot tile : Nat) : ((s.sweepTile slot tile).s).engine = s.engine := by simp [State.sweepTile]
@[simp] theorem sweepTile_arbiter (s : State) (slot tile : Nat) : ((s.sweepTile slot tile).s).arbiter = s.arbiter := by simp [State.sweepTile]
@[simp] theorem sweepTile_chans (s : State) (slot tile : Nat) : ((s.sweepTile slot tile).s).chans = s.chans := by simp [State.sweepTile]
@[simp] theorem sweepTile_profile (s : State) (slot tile : Nat) : ((s.sweepTile slot tile).s).profile = s.profile := by simp [State.sweepTile]
@[simp] theorem sweepTile_links (s : State) (slot tile : Nat) : ((s.sweepTile slot tile).s).links = s.links := by simp [State.sweepTile]
@[simp] theorem sweepTile_sent (s : State) (slot tile : Nat) : ((s.sweepTile slot tile).s).sent = s.sent := by simp [State.sweepTile]
@[simp] theorem sweepTile_pending (s : State) (slot tile : Nat) : ((s.sweepTile slot tile).s).pending = s.pending := by simp [State.sweepTile]

/-! ### writeGrade -/

@[simp] theorem writeGrade_book (s : State) (slot x y : Nat) (g : Grade) : (writeGrade slot x y g s).book = s.book := by unfold writeGrade; (try dsimp only); (repeat' split) <;> simp
@[simp] theorem writeGrade_library (s : State) (slot x y : Nat) (g : Grade) : (writeGrade slot x y g s).library = s.library := by unfold writeGrade; (try dsimp only); (repeat' split) <;> simp
@[simp] theorem writeGrade_hides (s : State) (slot x y : Nat) (g : Grade) : (writeGrade slot x y g s).hides = s.hides := by unfold writeGrade; (try dsimp only); (repeat' split) <;> simp
@[simp] theorem writeGrade_engine (s : State) (slot x y : Nat) (g : Grade) : (writeGrade slot x y g s).engine = s.engine := by unfold writeGrade; (try dsimp only); (repeat' split) <;> simp
@[simp] theorem writeGrade_arbiter (s : State) (slot x y : Nat) (g : Grade) : (writeGrade slot x y g s).arbiter = s.arbiter := by unfold writeGrade; (try dsimp only); (repeat' split) <;> simp
@[simp] theorem writeGrade_chans (s : State) (slot x y : Nat) (g : Grade) : (writeGrade slot x y g s).chans = s.chans := by unfold writeGrade; (try dsimp only); (repeat' split) <;> simp
@[simp] theorem writeGrade_attn (s : State) (slot x y : Nat) (g : Grade) : (writeGrade slot x y g s).attn = s.attn := by unfold writeGrade; (try dsimp only); (repeat' split) <;> simp
@[simp] theorem writeGrade_profile (s : State) (slot x y : Nat) (g : Grade) : (writeGrade slot x y g s).profile = s.profile := by unfold writeGrade; (try dsimp only); (repeat' split) <;> simp
@[simp] theorem writeGrade_links (s : State) (slot x y : Nat) (g : Grade) : (writeGrade slot x y g s).links = s.links := by unfold writeGrade; (try dsimp only); (repeat' split) <;> simp
@[simp] theorem writeGrade_tape (s : State) (slot x y : Nat) (g : Grade) : (writeGrade slot x y g s).tape = s.tape := by unfold writeGrade; (try dsimp only); (repeat' split) <;> simp
@[simp] theorem writeGrade_sent (s : State) (slot x y : Nat) (g : Grade) : (writeGrade slot x y g s).sent = s.sent := by unfold writeGrade; (try dsimp only); (repeat' split) <;> simp
@[simp] theorem writeGrade_pending (s : State) (slot x y : Nat) (g : Grade) : (writeGrade slot x y g s).pending = s.pending := by unfold writeGrade; (try dsimp only); (repeat' split) <;> simp

/-! ### applyCell -/

@[simp] theorem applyCell_book (a : Applied) (slot cols : Nat) (g : Grade) (c : Nat × Nat) : ((applyCell slot cols g a c).s).book = a.s.book := by unfold applyCell; (try dsimp only); (repeat' split) <;> simp
@[simp] theorem applyCell_library (a : Applied) (slot cols : Nat) (g : Grade) (c : Nat × Nat) : ((applyCell slot cols g a c).s).library = a.s.library := by unfold applyCell; (try dsimp only); (repeat' split) <;> simp
@[simp] theorem applyCell_engine (a : Applied) (slot cols : Nat) (g : Grade) (c : Nat × Nat) : ((applyCell slot cols g a c).s).engine = a.s.engine := by unfold applyCell; (try dsimp only); (repeat' split) <;> simp
@[simp] theorem applyCell_arbiter (a : Applied) (slot cols : Nat) (g : Grade) (c : Nat × Nat) : ((applyCell slot cols g a c).s).arbiter = a.s.arbiter := by unfold applyCell; (try dsimp only); (repeat' split) <;> simp
@[simp] theorem applyCell_chans (a : Applied) (slot cols : Nat) (g : Grade) (c : Nat × Nat) : ((applyCell slot cols g a c).s).chans = a.s.chans := by unfold applyCell; (try dsimp only); (repeat' split) <;> simp
@[simp] theorem applyCell_profile (a : Applied) (slot cols : Nat) (g : Grade) (c : Nat × Nat) : ((applyCell slot cols g a c).s).profile = a.s.profile := by unfold applyCell; (try dsimp only); (repeat' split) <;> simp
@[simp] theorem applyCell_links (a : Applied) (slot cols : Nat) (g : Grade) (c : Nat × Nat) : ((applyCell slot cols g a c).s).links = a.s.links := by unfold applyCell; (try dsimp only); (repeat' split) <;> simp
@[simp] theorem applyCell_sent (a : Applied) (slot cols : Nat) (g : Grade) (c : Nat × Nat) : ((applyCell slot cols g a c).s).sent = a.s.sent := by unfold applyCell; (try dsimp only); (repeat' split) <;> simp
@[simp] theorem applyCell_pending (a : Applied) (slot cols : Nat) (g : Grade) (c : Nat × Nat) : ((applyCell slot cols g a c).s).pending = a.s.pending := by unfold applyCell; (try dsimp only); (repeat' split) <;> simp

/-! ### applyFlaw -/

@[simp] theorem applyFlaw_book (s : State) (slot : Nat) (x : Flaw) : ((applyFlaw slot x s).s).book = s.book := by
  unfold applyFlaw
  split
  · rfl
  · rw [foldl_keeps (applyCell slot _ _) (fun a => a.s.book) (fun a b => by simp)]
@[simp] theorem applyFlaw_library (s : State) (slot : Nat) (x : Flaw) : ((applyFlaw slot x s).s).library = s.library := by
  unfold applyFlaw
  split
  · rfl
  · rw [foldl_keeps (applyCell slot _ _) (fun a => a.s.library) (fun a b => by simp)]
@[simp] theorem applyFlaw_engine (s : State) (slot : Nat) (x : Flaw) : ((applyFlaw slot x s).s).engine = s.engine := by
  unfold applyFlaw
  split
  · rfl
  · rw [foldl_keeps (applyCell slot _ _) (fun a => a.s.engine) (fun a b => by simp)]
@[simp] theorem applyFlaw_arbiter (s : State) (slot : Nat) (x : Flaw) : ((applyFlaw slot x s).s).arbiter = s.arbiter := by
  unfold applyFlaw
  split
  · rfl
  · rw [foldl_keeps (applyCell slot _ _) (fun a => a.s.arbiter) (fun a b => by simp)]
@[simp] theorem applyFlaw_chans (s : State) (slot : Nat) (x : Flaw) : ((applyFlaw slot x s).s).chans = s.chans := by
  unfold applyFlaw
  split
  · rfl
  · rw [foldl_keeps (applyCell slot _ _) (fun a => a.s.chans) (fun a b => by simp)]
@[simp] theorem applyFlaw_profile (s : State) (slot : Nat) (x : Flaw) : ((applyFlaw slot x s).s).profile = s.profile := by
  unfold applyFlaw
  split
  · rfl
  · rw [foldl_keeps (applyCell slot _ _) (fun a => a.s.profile) (fun a b => by simp)]
@[simp] theorem applyFlaw_links (s : State) (slot : Nat) (x : Flaw) : ((applyFlaw slot x s).s).links = s.links := by
  unfold applyFlaw
  split
  · rfl
  · rw [foldl_keeps (applyCell slot _ _) (fun a => a.s.links) (fun a b => by simp)]
@[simp] theorem applyFlaw_sent (s : State) (slot : Nat) (x : Flaw) : ((applyFlaw slot x s).s).sent = s.sent := by
  unfold applyFlaw
  split
  · rfl
  · rw [foldl_keeps (applyCell slot _ _) (fun a => a.s.sent) (fun a b => by simp)]
@[simp] theorem applyFlaw_pending (s : State) (slot : Nat) (x : Flaw) : ((applyFlaw slot x s).s).pending = s.pending := by
  unfold applyFlaw
  split
  · rfl
  · rw [foldl_keeps (applyCell slot _ _) (fun a => a.s.pending) (fun a b => by simp)]

/-! ### sweepFlaw -/

@[simp] theorem sweepFlaw_library (a : Applied) (slot : Nat) (r : Rect) : ((sweepFlaw slot r a).s).library = a.s.library := by simp [sweepFlaw]
@[simp] theorem sweepFlaw_engine (a : Applied) (slot : Nat) (r : Rect) : ((sweepFlaw slot r a).s).engine = a.s.engine := by simp [sweepFlaw]
@[simp] theorem sweepFlaw_arbiter (a : Applied) (slot : Nat) (r : Rect) : ((sweepFlaw slot r a).s).arbiter = a.s.arbiter := by simp [sweepFlaw]
@[simp] theorem sweepFlaw_chans (a : Applied) (slot : Nat) (r : Rect) : ((sweepFlaw slot r a).s).chans = a.s.chans := by simp [sweepFlaw]
@[simp] theorem sweepFlaw_profile (a : Applied) (slot : Nat) (r : Rect) : ((sweepFlaw slot r a).s).profile = a.s.profile := by simp [sweepFlaw]
@[simp] theorem sweepFlaw_links (a : Applied) (slot : Nat) (r : Rect) : ((sweepFlaw slot r a).s).links = a.s.links := by simp [sweepFlaw]
@[simp] theorem sweepFlaw_sent (a : Applied) (slot : Nat) (r : Rect) : ((sweepFlaw slot r a).s).sent = a.s.sent := by simp [sweepFlaw]
@[simp] theorem sweepFlaw_pending (a : Applied) (slot : Nat) (r : Rect) : ((sweepFlaw slot r a).s).pending = a.s.pending := by simp [sweepFlaw]

end Sys2Proof.Laws
end

