-- ==== Sys2Proof/Laws/Arbiter.lean ====
section
/-! SUPPORT. What the arbiter, the settling of a hide and the completion of a discard leave as it was. -/

namespace Sys2Proof.Laws

open Sys2Proof.Machine

/-! ### grant -/

@[simp] theorem grant_book (s : State) (slot : Nat) (c : Fin 4) (r : Nat) : (s.grant slot c r).book = s.book := by simp [State.grant]
@[simp] theorem grant_library (s : State) (slot : Nat) (c : Fin 4) (r : Nat) : (s.grant slot c r).library = s.library := by simp [State.grant]
@[simp] theorem grant_grid (s : State) (slot : Nat) (c : Fin 4) (r : Nat) : (s.grant slot c r).grid = s.grid := by simp [State.grant]
@[simp] theorem grant_engine (s : State) (slot : Nat) (c : Fin 4) (r : Nat) : (s.grant slot c r).engine = s.engine := by simp [State.grant]
@[simp] theorem grant_attn (s : State) (slot : Nat) (c : Fin 4) (r : Nat) : (s.grant slot c r).attn = s.attn := by simp [State.grant]
@[simp] theorem grant_profile (s : State) (slot : Nat) (c : Fin 4) (r : Nat) : (s.grant slot c r).profile = s.profile := by simp [State.grant]
@[simp] theorem grant_links (s : State) (slot : Nat) (c : Fin 4) (r : Nat) : (s.grant slot c r).links = s.links := by simp [State.grant]
@[simp] theorem grant_tape (s : State) (slot : Nat) (c : Fin 4) (r : Nat) : (s.grant slot c r).tape = s.tape := by simp [State.grant]
@[simp] theorem grant_sent (s : State) (slot : Nat) (c : Fin 4) (r : Nat) : (s.grant slot c r).sent = s.sent := by simp [State.grant]
@[simp] theorem grant_pending (s : State) (slot : Nat) (c : Fin 4) (r : Nat) : (s.grant slot c r).pending = s.pending := by simp [State.grant]

/-! ### nextGrant -/

/-- What one pass of an evaluation grants (R136 to R138). -/
theorem nextGrant_some {s t : State} (h : s.nextGrant = some t) :
    s.arbiter.state = .run ∧ ∃ slot r c, s.choice = some (slot, r) ∧ s.pickChannel slot = some c ∧ t = s.grant slot c r := by
  unfold State.nextGrant at h
  split at h
  · cases h
  · next hr =>
    split at h
    · cases h
    · next slot r hc =>
      cases hp : s.pickChannel slot with
      | none => simp [hp] at h
      | some c => exact ⟨hr, slot, r, c, hc, hp, by simpa [hp] using h.symm⟩

theorem nextGrant_book (s : State) {t : State} (h : s.nextGrant = some t) : t.book = s.book := by
  obtain ⟨_, _, _, _, _, _, rfl⟩ := nextGrant_some h; simp
theorem nextGrant_library (s : State) {t : State} (h : s.nextGrant = some t) : t.library = s.library := by
  obtain ⟨_, _, _, _, _, _, rfl⟩ := nextGrant_some h; simp
theorem nextGrant_grid (s : State) {t : State} (h : s.nextGrant = some t) : t.grid = s.grid := by
  obtain ⟨_, _, _, _, _, _, rfl⟩ := nextGrant_some h; simp
theorem nextGrant_engine (s : State) {t : State} (h : s.nextGrant = some t) : t.engine = s.engine := by
  obtain ⟨_, _, _, _, _, _, rfl⟩ := nextGrant_some h; simp
theorem nextGrant_attn (s : State) {t : State} (h : s.nextGrant = some t) : t.attn = s.attn := by
  obtain ⟨_, _, _, _, _, _, rfl⟩ := nextGrant_some h; simp
theorem nextGrant_profile (s : State) {t : State} (h : s.nextGrant = some t) : t.profile = s.profile := by
  obtain ⟨_, _, _, _, _, _, rfl⟩ := nextGrant_some h; simp
theorem nextGrant_links (s : State) {t : State} (h : s.nextGrant = some t) : t.links = s.links := by
  obtain ⟨_, _, _, _, _, _, rfl⟩ := nextGrant_some h; simp
theorem nextGrant_tape (s : State) {t : State} (h : s.nextGrant = some t) : t.tape = s.tape := by
  obtain ⟨_, _, _, _, _, _, rfl⟩ := nextGrant_some h; simp
theorem nextGrant_sent (s : State) {t : State} (h : s.nextGrant = some t) : t.sent = s.sent := by
  obtain ⟨_, _, _, _, _, _, rfl⟩ := nextGrant_some h; simp
theorem nextGrant_pending (s : State) {t : State} (h : s.nextGrant = some t) : t.pending = s.pending := by
  obtain ⟨_, _, _, _, _, _, rfl⟩ := nextGrant_some h; simp

/-! ### grants -/

@[simp] theorem grants_book (s : State) (fuel : Nat) : ((s.grants fuel).1).book = s.book := by
  induction fuel generalizing s with
  | zero => rfl
  | succ n ih =>
    unfold State.grants
    split
    · rfl
    · next t ht => simpa [ih] using nextGrant_book s ht
@[simp] theorem grants_library (s : State) (fuel : Nat) : ((s.grants fuel).1).library = s.library := by
  induction fuel generalizing s with
  | zero => rfl
  | succ n ih =>
    unfold State.grants
    split
    · rfl
    · next t ht => simpa [ih] using nextGrant_library s ht
@[simp] theorem grants_grid (s : State) (fuel : Nat) : ((s.grants fuel).1).grid = s.grid := by
  induction fuel generalizing s with
  | zero => rfl
  | succ n ih =>
    unfold State.grants
    split
    · rfl
    · next t ht => simpa [ih] using nextGrant_grid s ht
@[simp] theorem grants_engine (s : State) (fuel : Nat) : ((s.grants fuel).1).engine = s.engine := by
  induction fuel generalizing s with
  | zero => rfl
  | succ n ih =>
    unfold State.grants
    split
    · rfl
    · next t ht => simpa [ih] using nextGrant_engine s ht
@[simp] theorem grants_attn (s : State) (fuel : Nat) : ((s.grants fuel).1).attn = s.attn := by
  induction fuel generalizing s with
  | zero => rfl
  | succ n ih =>
    unfold State.grants
    split
    · rfl
    · next t ht => simpa [ih] using nextGrant_attn s ht
@[simp] theorem grants_profile (s : State) (fuel : Nat) : ((s.grants fuel).1).profile = s.profile := by
  induction fuel generalizing s with
  | zero => rfl
  | succ n ih =>
    unfold State.grants
    split
    · rfl
    · next t ht => simpa [ih] using nextGrant_profile s ht
@[simp] theorem grants_links (s : State) (fuel : Nat) : ((s.grants fuel).1).links = s.links := by
  induction fuel generalizing s with
  | zero => rfl
  | succ n ih =>
    unfold State.grants
    split
    · rfl
    · next t ht => simpa [ih] using nextGrant_links s ht
@[simp] theorem grants_tape (s : State) (fuel : Nat) : ((s.grants fuel).1).tape = s.tape := by
  induction fuel generalizing s with
  | zero => rfl
  | succ n ih =>
    unfold State.grants
    split
    · rfl
    · next t ht => simpa [ih] using nextGrant_tape s ht
@[simp] theorem grants_sent (s : State) (fuel : Nat) : ((s.grants fuel).1).sent = s.sent := by
  induction fuel generalizing s with
  | zero => rfl
  | succ n ih =>
    unfold State.grants
    split
    · rfl
    · next t ht => simpa [ih] using nextGrant_sent s ht
@[simp] theorem grants_pending (s : State) (fuel : Nat) : ((s.grants fuel).1).pending = s.pending := by
  induction fuel generalizing s with
  | zero => rfl
  | succ n ih =>
    unfold State.grants
    split
    · rfl
    · next t ht => simpa [ih] using nextGrant_pending s ht

/-! ### evaluate -/

@[simp] theorem evaluate_book (s : State) : (s.evaluate).book = s.book := by simp [State.evaluate]
@[simp] theorem evaluate_library (s : State) : (s.evaluate).library = s.library := by simp [State.evaluate]
@[simp] theorem evaluate_grid (s : State) : (s.evaluate).grid = s.grid := by simp [State.evaluate]
@[simp] theorem evaluate_engine (s : State) : (s.evaluate).engine = s.engine := by simp [State.evaluate]
@[simp] theorem evaluate_attn (s : State) : (s.evaluate).attn = s.attn := by simp [State.evaluate]
@[simp] theorem evaluate_profile (s : State) : (s.evaluate).profile = s.profile := by simp [State.evaluate]
@[simp] theorem evaluate_links (s : State) : (s.evaluate).links = s.links := by simp [State.evaluate]
@[simp] theorem evaluate_tape (s : State) : (s.evaluate).tape = s.tape := by simp [State.evaluate]
@[simp] theorem evaluate_sent (s : State) : (s.evaluate).sent = s.sent := by simp [State.evaluate]
@[simp] theorem evaluate_pending (s : State) : (s.evaluate).pending = s.pending := by simp [State.evaluate]

/-! ### joinWaiting -/

@[simp] theorem joinWaiting_book (s : State) (slot : Nat) : (s.joinWaiting slot).book = s.book := rfl
@[simp] theorem joinWaiting_library (s : State) (slot : Nat) : (s.joinWaiting slot).library = s.library := rfl
@[simp] theorem joinWaiting_hides (s : State) (slot : Nat) : (s.joinWaiting slot).hides = s.hides := rfl
@[simp] theorem joinWaiting_grid (s : State) (slot : Nat) : (s.joinWaiting slot).grid = s.grid := rfl
@[simp] theorem joinWaiting_engine (s : State) (slot : Nat) : (s.joinWaiting slot).engine = s.engine := rfl
@[simp] theorem joinWaiting_chans (s : State) (slot : Nat) : (s.joinWaiting slot).chans = s.chans := rfl
@[simp] theorem joinWaiting_attn (s : State) (slot : Nat) : (s.joinWaiting slot).attn = s.attn := rfl
@[simp] theorem joinWaiting_profile (s : State) (slot : Nat) : (s.joinWaiting slot).profile = s.profile := rfl
@[simp] theorem joinWaiting_links (s : State) (slot : Nat) : (s.joinWaiting slot).links = s.links := rfl
@[simp] theorem joinWaiting_tape (s : State) (slot : Nat) : (s.joinWaiting slot).tape = s.tape := rfl
@[simp] theorem joinWaiting_sent (s : State) (slot : Nat) : (s.joinWaiting slot).sent = s.sent := rfl
@[simp] theorem joinWaiting_pending (s : State) (slot : Nat) : (s.joinWaiting slot).pending = s.pending := rfl

/-! ### leaveWaiting -/

@[simp] theorem leaveWaiting_book (s : State) (slot : Nat) : (s.leaveWaiting slot).book = s.book := rfl
@[simp] theorem leaveWaiting_library (s : State) (slot : Nat) : (s.leaveWaiting slot).library = s.library := rfl
@[simp] theorem leaveWaiting_hides (s : State) (slot : Nat) : (s.leaveWaiting slot).hides = s.hides := rfl
@[simp] theorem leaveWaiting_grid (s : State) (slot : Nat) : (s.leaveWaiting slot).grid = s.grid := rfl
@[simp] theorem leaveWaiting_engine (s : State) (slot : Nat) : (s.leaveWaiting slot).engine = s.engine := rfl
@[simp] theorem leaveWaiting_chans (s : State) (slot : Nat) : (s.leaveWaiting slot).chans = s.chans := rfl
@[simp] theorem leaveWaiting_attn (s : State) (slot : Nat) : (s.leaveWaiting slot).attn = s.attn := rfl
@[simp] theorem leaveWaiting_profile (s : State) (slot : Nat) : (s.leaveWaiting slot).profile = s.profile := rfl
@[simp] theorem leaveWaiting_links (s : State) (slot : Nat) : (s.leaveWaiting slot).links = s.links := rfl
@[simp] theorem leaveWaiting_tape (s : State) (slot : Nat) : (s.leaveWaiting slot).tape = s.tape := rfl
@[simp] theorem leaveWaiting_sent (s : State) (slot : Nat) : (s.leaveWaiting slot).sent = s.sent := rfl
@[simp] theorem leaveWaiting_pending (s : State) (slot : Nat) : (s.leaveWaiting slot).pending = s.pending := rfl

/-! ### makeDone -/

@[simp] theorem makeDone_book (s : State) (slot : Nat) : (s.makeDone slot).book = s.book := by simp [State.makeDone]
@[simp] theorem makeDone_library (s : State) (slot : Nat) : (s.makeDone slot).library = s.library := by simp [State.makeDone]
@[simp] theorem makeDone_grid (s : State) (slot : Nat) : (s.makeDone slot).grid = s.grid := by simp [State.makeDone]
@[simp] theorem makeDone_engine (s : State) (slot : Nat) : (s.makeDone slot).engine = s.engine := by simp [State.makeDone]
@[simp] theorem makeDone_arbiter (s : State) (slot : Nat) : (s.makeDone slot).arbiter = s.arbiter := by simp [State.makeDone]
@[simp] theorem makeDone_chans (s : State) (slot : Nat) : (s.makeDone slot).chans = s.chans := by simp [State.makeDone]
@[simp] theorem makeDone_profile (s : State) (slot : Nat) : (s.makeDone slot).profile = s.profile := by simp [State.makeDone]
@[simp] theorem makeDone_links (s : State) (slot : Nat) : (s.makeDone slot).links = s.links := by simp [State.makeDone]
@[simp] theorem makeDone_tape (s : State) (slot : Nat) : (s.makeDone slot).tape = s.tape := by simp [State.makeDone]
@[simp] theorem makeDone_sent (s : State) (slot : Nat) : (s.makeDone slot).sent = s.sent := by simp [State.makeDone]
@[simp] theorem makeDone_pending (s : State) (slot : Nat) : (s.makeDone slot).pending = s.pending := by simp [State.makeDone]

/-! ### settle -/

@[simp] theorem settle_book (s : State) (slot : Nat) : (s.settle slot).book = s.book := by unfold State.settle; (try dsimp only); (repeat' split) <;> simp
@[simp] theorem settle_library (s : State) (slot : Nat) : (s.settle slot).library = s.library := by unfold State.settle; (try dsimp only); (repeat' split) <;> simp
@[simp] theorem settle_grid (s : State) (slot : Nat) : (s.settle slot).grid = s.grid := by unfold State.settle; (try dsimp only); (repeat' split) <;> simp
@[simp] theorem settle_engine (s : State) (slot : Nat) : (s.settle slot).engine = s.engine := by unfold State.settle; (try dsimp only); (repeat' split) <;> simp
@[simp] theorem settle_profile (s : State) (slot : Nat) : (s.settle slot).profile = s.profile := by unfold State.settle; (try dsimp only); (repeat' split) <;> simp
@[simp] theorem settle_links (s : State) (slot : Nat) : (s.settle slot).links = s.links := by unfold State.settle; (try dsimp only); (repeat' split) <;> simp
@[simp] theorem settle_tape (s : State) (slot : Nat) : (s.settle slot).tape = s.tape := by unfold State.settle; (try dsimp only); (repeat' split) <;> simp
@[simp] theorem settle_sent (s : State) (slot : Nat) : (s.settle slot).sent = s.sent := by unfold State.settle; (try dsimp only); (repeat' split) <;> simp
@[simp] theorem settle_pending (s : State) (slot : Nat) : (s.settle slot).pending = s.pending := by unfold State.settle; (try dsimp only); (repeat' split) <;> simp

/-! ### handPoison -/

@[simp] theorem handPoison_library (s : State) (slot tile : Nat) : (s.handPoison slot tile).library = s.library := by unfold State.handPoison; (try dsimp only); (repeat' split) <;> simp
@[simp] theorem handPoison_engine (s : State) (slot tile : Nat) : (s.handPoison slot tile).engine = s.engine := by unfold State.handPoison; (try dsimp only); (repeat' split) <;> simp
@[simp] theorem handPoison_profile (s : State) (slot tile : Nat) : (s.handPoison slot tile).profile = s.profile := by unfold State.handPoison; (try dsimp only); (repeat' split) <;> simp
@[simp] theorem handPoison_links (s : State) (slot tile : Nat) : (s.handPoison slot tile).links = s.links := by unfold State.handPoison; (try dsimp only); (repeat' split) <;> simp
@[simp] theorem handPoison_sent (s : State) (slot tile : Nat) : (s.handPoison slot tile).sent = s.sent := by unfold State.handPoison; (try dsimp only); (repeat' split) <;> simp
@[simp] theorem handPoison_pending (s : State) (slot tile : Nat) : (s.handPoison slot tile).pending = s.pending := by unfold State.handPoison; (try dsimp only); (repeat' split) <;> simp

/-! ### handFresh -/

@[simp] theorem handFresh_library (s : State) (slot : Nat) (fresh : Option Nat) : (s.handFresh slot fresh).library = s.library := by unfold State.handFresh; (try dsimp only); (repeat' split) <;> simp
@[simp] theorem handFresh_engine (s : State) (slot : Nat) (fresh : Option Nat) : (s.handFresh slot fresh).engine = s.engine := by unfold State.handFresh; (try dsimp only); (repeat' split) <;> simp
@[simp] theorem handFresh_profile (s : State) (slot : Nat) (fresh : Option Nat) : (s.handFresh slot fresh).profile = s.profile := by unfold State.handFresh; (try dsimp only); (repeat' split) <;> simp
@[simp] theorem handFresh_links (s : State) (slot : Nat) (fresh : Option Nat) : (s.handFresh slot fresh).links = s.links := by unfold State.handFresh; (try dsimp only); (repeat' split) <;> simp
@[simp] theorem handFresh_sent (s : State) (slot : Nat) (fresh : Option Nat) : (s.handFresh slot fresh).sent = s.sent := by unfold State.handFresh; (try dsimp only); (repeat' split) <;> simp
@[simp] theorem handFresh_pending (s : State) (slot : Nat) (fresh : Option Nat) : (s.handFresh slot fresh).pending = s.pending := by unfold State.handFresh; (try dsimp only); (repeat' split) <;> simp

/-! ### withdraw -/

@[simp] theorem withdraw_library (s : State) (slot i : Nat) : (State.withdraw slot s i).library = s.library := by unfold State.withdraw; (try dsimp only); (repeat' split) <;> simp
@[simp] theorem withdraw_engine (s : State) (slot i : Nat) : (State.withdraw slot s i).engine = s.engine := by unfold State.withdraw; (try dsimp only); (repeat' split) <;> simp
@[simp] theorem withdraw_arbiter (s : State) (slot i : Nat) : (State.withdraw slot s i).arbiter = s.arbiter := by unfold State.withdraw; (try dsimp only); (repeat' split) <;> simp
@[simp] theorem withdraw_chans (s : State) (slot i : Nat) : (State.withdraw slot s i).chans = s.chans := by unfold State.withdraw; (try dsimp only); (repeat' split) <;> simp
@[simp] theorem withdraw_profile (s : State) (slot i : Nat) : (State.withdraw slot s i).profile = s.profile := by unfold State.withdraw; (try dsimp only); (repeat' split) <;> simp
@[simp] theorem withdraw_links (s : State) (slot i : Nat) : (State.withdraw slot s i).links = s.links := by unfold State.withdraw; (try dsimp only); (repeat' split) <;> simp
@[simp] theorem withdraw_tape (s : State) (slot i : Nat) : (State.withdraw slot s i).tape = s.tape := by unfold State.withdraw; (try dsimp only); (repeat' split) <;> simp
@[simp] theorem withdraw_sent (s : State) (slot i : Nat) : (State.withdraw slot s i).sent = s.sent := by unfold State.withdraw; (try dsimp only); (repeat' split) <;> simp
@[simp] theorem withdraw_pending (s : State) (slot i : Nat) : (State.withdraw slot s i).pending = s.pending := by unfold State.withdraw; (try dsimp only); (repeat' split) <;> simp

/-! ### withdrawAll -/

@[simp] theorem withdrawAll_library (s : State) (slot : Nat) : (s.withdrawAll slot).library = s.library := by
  unfold State.withdrawAll
  split
  · rfl
  · rw [foldl_keeps (State.withdraw slot) State.library (fun a b => by simp)]
@[simp] theorem withdrawAll_engine (s : State) (slot : Nat) : (s.withdrawAll slot).engine = s.engine := by
  unfold State.withdrawAll
  split
  · rfl
  · rw [foldl_keeps (State.withdraw slot) State.engine (fun a b => by simp)]
@[simp] theorem withdrawAll_arbiter (s : State) (slot : Nat) : (s.withdrawAll slot).arbiter = s.arbiter := by
  unfold State.withdrawAll
  split
  · rfl
  · rw [foldl_keeps (State.withdraw slot) State.arbiter (fun a b => by simp)]
@[simp] theorem withdrawAll_chans (s : State) (slot : Nat) : (s.withdrawAll slot).chans = s.chans := by
  unfold State.withdrawAll
  split
  · rfl
  · rw [foldl_keeps (State.withdraw slot) State.chans (fun a b => by simp)]
@[simp] theorem withdrawAll_profile (s : State) (slot : Nat) : (s.withdrawAll slot).profile = s.profile := by
  unfold State.withdrawAll
  split
  · rfl
  · rw [foldl_keeps (State.withdraw slot) State.profile (fun a b => by simp)]
@[simp] theorem withdrawAll_links (s : State) (slot : Nat) : (s.withdrawAll slot).links = s.links := by
  unfold State.withdrawAll
  split
  · rfl
  · rw [foldl_keeps (State.withdraw slot) State.links (fun a b => by simp)]
@[simp] theorem withdrawAll_tape (s : State) (slot : Nat) : (s.withdrawAll slot).tape = s.tape := by
  unfold State.withdrawAll
  split
  · rfl
  · rw [foldl_keeps (State.withdraw slot) State.tape (fun a b => by simp)]
@[simp] theorem withdrawAll_sent (s : State) (slot : Nat) : (s.withdrawAll slot).sent = s.sent := by
  unfold State.withdrawAll
  split
  · rfl
  · rw [foldl_keeps (State.withdraw slot) State.sent (fun a b => by simp)]
@[simp] theorem withdrawAll_pending (s : State) (slot : Nat) : (s.withdrawAll slot).pending = s.pending := by
  unfold State.withdrawAll
  split
  · rfl
  · rw [foldl_keeps (State.withdraw slot) State.pending (fun a b => by simp)]

/-! ### setStack -/

@[simp] theorem setStack_book (s : State) (st : List Entry) : (s.setStack st).book = s.book := rfl
@[simp] theorem setStack_library (s : State) (st : List Entry) : (s.setStack st).library = s.library := rfl
@[simp] theorem setStack_hides (s : State) (st : List Entry) : (s.setStack st).hides = s.hides := rfl
@[simp] theorem setStack_grid (s : State) (st : List Entry) : (s.setStack st).grid = s.grid := rfl
@[simp] theorem setStack_arbiter (s : State) (st : List Entry) : (s.setStack st).arbiter = s.arbiter := rfl
@[simp] theorem setStack_chans (s : State) (st : List Entry) : (s.setStack st).chans = s.chans := rfl
@[simp] theorem setStack_attn (s : State) (st : List Entry) : (s.setStack st).attn = s.attn := rfl
@[simp] theorem setStack_profile (s : State) (st : List Entry) : (s.setStack st).profile = s.profile := rfl
@[simp] theorem setStack_links (s : State) (st : List Entry) : (s.setStack st).links = s.links := rfl
@[simp] theorem setStack_tape (s : State) (st : List Entry) : (s.setStack st).tape = s.tape := rfl
@[simp] theorem setStack_sent (s : State) (st : List Entry) : (s.setStack st).sent = s.sent := rfl
@[simp] theorem setStack_pending (s : State) (st : List Entry) : (s.setStack st).pending = s.pending := rfl

/-! ### popEntry -/

@[simp] theorem popEntry_library (s : State) (slot : Nat) (e : Entry) : (State.popEntry slot s e).library = s.library := by simp [State.popEntry]
@[simp] theorem popEntry_hides (s : State) (slot : Nat) (e : Entry) : (State.popEntry slot s e).hides = s.hides := by simp [State.popEntry]
@[simp] theorem popEntry_engine (s : State) (slot : Nat) (e : Entry) : (State.popEntry slot s e).engine = s.engine := by simp [State.popEntry]
@[simp] theorem popEntry_arbiter (s : State) (slot : Nat) (e : Entry) : (State.popEntry slot s e).arbiter = s.arbiter := by simp [State.popEntry]
@[simp] theorem popEntry_chans (s : State) (slot : Nat) (e : Entry) : (State.popEntry slot s e).chans = s.chans := by simp [State.popEntry]
@[simp] theorem popEntry_profile (s : State) (slot : Nat) (e : Entry) : (State.popEntry slot s e).profile = s.profile := by simp [State.popEntry]
@[simp] theorem popEntry_links (s : State) (slot : Nat) (e : Entry) : (State.popEntry slot s e).links = s.links := by simp [State.popEntry]
@[simp] theorem popEntry_tape (s : State) (slot : Nat) (e : Entry) : (State.popEntry slot s e).tape = s.tape := by simp [State.popEntry]
@[simp] theorem popEntry_sent (s : State) (slot : Nat) (e : Entry) : (State.popEntry slot s e).sent = s.sent := by simp [State.popEntry]
@[simp] theorem popEntry_pending (s : State) (slot : Nat) (e : Entry) : (State.popEntry slot s e).pending = s.pending := by simp [State.popEntry]

/-! ### popAll -/

@[simp] theorem popAll_library (s : State) (slot : Nat) : (s.popAll slot).library = s.library := by
  unfold State.popAll
  split
  · rfl
  · simp [foldl_keeps (State.popEntry slot) State.library (fun a b => by simp)]
@[simp] theorem popAll_hides (s : State) (slot : Nat) : (s.popAll slot).hides = s.hides := by
  unfold State.popAll
  split
  · rfl
  · simp [foldl_keeps (State.popEntry slot) State.hides (fun a b => by simp)]
@[simp] theorem popAll_arbiter (s : State) (slot : Nat) : (s.popAll slot).arbiter = s.arbiter := by
  unfold State.popAll
  split
  · rfl
  · simp [foldl_keeps (State.popEntry slot) State.arbiter (fun a b => by simp)]
@[simp] theorem popAll_chans (s : State) (slot : Nat) : (s.popAll slot).chans = s.chans := by
  unfold State.popAll
  split
  · rfl
  · simp [foldl_keeps (State.popEntry slot) State.chans (fun a b => by simp)]
@[simp] theorem popAll_profile (s : State) (slot : Nat) : (s.popAll slot).profile = s.profile := by
  unfold State.popAll
  split
  · rfl
  · simp [foldl_keeps (State.popEntry slot) State.profile (fun a b => by simp)]
@[simp] theorem popAll_links (s : State) (slot : Nat) : (s.popAll slot).links = s.links := by
  unfold State.popAll
  split
  · rfl
  · simp [foldl_keeps (State.popEntry slot) State.links (fun a b => by simp)]
@[simp] theorem popAll_tape (s : State) (slot : Nat) : (s.popAll slot).tape = s.tape := by
  unfold State.popAll
  split
  · rfl
  · simp [foldl_keeps (State.popEntry slot) State.tape (fun a b => by simp)]
@[simp] theorem popAll_sent (s : State) (slot : Nat) : (s.popAll slot).sent = s.sent := by
  unfold State.popAll
  split
  · rfl
  · simp [foldl_keeps (State.popEntry slot) State.sent (fun a b => by simp)]
@[simp] theorem popAll_pending (s : State) (slot : Nat) : (s.popAll slot).pending = s.pending := by
  unfold State.popAll
  split
  · rfl
  · simp [foldl_keeps (State.popEntry slot) State.pending (fun a b => by simp)]

/-! ### leaveQueue -/

@[simp] theorem leaveQueue_book (s : State) (slot : Nat) : (s.leaveQueue slot).book = s.book := rfl
@[simp] theorem leaveQueue_library (s : State) (slot : Nat) : (s.leaveQueue slot).library = s.library := rfl
@[simp] theorem leaveQueue_hides (s : State) (slot : Nat) : (s.leaveQueue slot).hides = s.hides := rfl
@[simp] theorem leaveQueue_grid (s : State) (slot : Nat) : (s.leaveQueue slot).grid = s.grid := rfl
@[simp] theorem leaveQueue_arbiter (s : State) (slot : Nat) : (s.leaveQueue slot).arbiter = s.arbiter := rfl
@[simp] theorem leaveQueue_chans (s : State) (slot : Nat) : (s.leaveQueue slot).chans = s.chans := rfl
@[simp] theorem leaveQueue_attn (s : State) (slot : Nat) : (s.leaveQueue slot).attn = s.attn := rfl
@[simp] theorem leaveQueue_profile (s : State) (slot : Nat) : (s.leaveQueue slot).profile = s.profile := rfl
@[simp] theorem leaveQueue_links (s : State) (slot : Nat) : (s.leaveQueue slot).links = s.links := rfl
@[simp] theorem leaveQueue_tape (s : State) (slot : Nat) : (s.leaveQueue slot).tape = s.tape := rfl
@[simp] theorem leaveQueue_sent (s : State) (slot : Nat) : (s.leaveQueue slot).sent = s.sent := rfl
@[simp] theorem leaveQueue_pending (s : State) (slot : Nat) : (s.leaveQueue slot).pending = s.pending := rfl

/-! ### completeDiscard -/

@[simp] theorem completeDiscard_library (s : State) (slot : Nat) : (s.completeDiscard slot).library = s.library := by simp [State.completeDiscard]
@[simp] theorem completeDiscard_chans (s : State) (slot : Nat) : (s.completeDiscard slot).chans = s.chans := by simp [State.completeDiscard]
@[simp] theorem completeDiscard_profile (s : State) (slot : Nat) : (s.completeDiscard slot).profile = s.profile := by simp [State.completeDiscard]
@[simp] theorem completeDiscard_links (s : State) (slot : Nat) : (s.completeDiscard slot).links = s.links := by simp [State.completeDiscard]
@[simp] theorem completeDiscard_tape (s : State) (slot : Nat) : (s.completeDiscard slot).tape = s.tape := by simp [State.completeDiscard]
@[simp] theorem completeDiscard_sent (s : State) (slot : Nat) : (s.completeDiscard slot).sent = s.sent := by simp [State.completeDiscard]
@[simp] theorem completeDiscard_pending (s : State) (slot : Nat) : (s.completeDiscard slot).pending = s.pending := by simp [State.completeDiscard]

/-! ### beginDiscard -/

@[simp] theorem beginDiscard_book (s : State) (slot : Nat) (r : Route) : (s.beginDiscard slot r).book = s.book := by simp [State.beginDiscard]
@[simp] theorem beginDiscard_library (s : State) (slot : Nat) (r : Route) : (s.beginDiscard slot r).library = s.library := by simp [State.beginDiscard]
@[simp] theorem beginDiscard_grid (s : State) (slot : Nat) (r : Route) : (s.beginDiscard slot r).grid = s.grid := by simp [State.beginDiscard]
@[simp] theorem beginDiscard_engine (s : State) (slot : Nat) (r : Route) : (s.beginDiscard slot r).engine = s.engine := by simp [State.beginDiscard]
@[simp] theorem beginDiscard_arbiter (s : State) (slot : Nat) (r : Route) : (s.beginDiscard slot r).arbiter = s.arbiter := by simp [State.beginDiscard]
@[simp] theorem beginDiscard_chans (s : State) (slot : Nat) (r : Route) : (s.beginDiscard slot r).chans = s.chans := by simp [State.beginDiscard]
@[simp] theorem beginDiscard_attn (s : State) (slot : Nat) (r : Route) : (s.beginDiscard slot r).attn = s.attn := by simp [State.beginDiscard]
@[simp] theorem beginDiscard_profile (s : State) (slot : Nat) (r : Route) : (s.beginDiscard slot r).profile = s.profile := by simp [State.beginDiscard]
@[simp] theorem beginDiscard_links (s : State) (slot : Nat) (r : Route) : (s.beginDiscard slot r).links = s.links := by simp [State.beginDiscard]
@[simp] theorem beginDiscard_tape (s : State) (slot : Nat) (r : Route) : (s.beginDiscard slot r).tape = s.tape := by simp [State.beginDiscard]
@[simp] theorem beginDiscard_sent (s : State) (slot : Nat) (r : Route) : (s.beginDiscard slot r).sent = s.sent := by simp [State.beginDiscard]
@[simp] theorem beginDiscard_pending (s : State) (slot : Nat) (r : Route) : (s.beginDiscard slot r).pending = s.pending := by simp [State.beginDiscard]

/-! ### abortChannel -/

@[simp] theorem abortChannel_book (s : State) (c : Option (Fin 4)) : (s.abortChannel c).book = s.book := by unfold State.abortChannel; (try dsimp only); (repeat' split) <;> simp
@[simp] theorem abortChannel_library (s : State) (c : Option (Fin 4)) : (s.abortChannel c).library = s.library := by unfold State.abortChannel; (try dsimp only); (repeat' split) <;> simp
@[simp] theorem abortChannel_hides (s : State) (c : Option (Fin 4)) : (s.abortChannel c).hides = s.hides := by unfold State.abortChannel; (try dsimp only); (repeat' split) <;> simp
@[simp] theorem abortChannel_grid (s : State) (c : Option (Fin 4)) : (s.abortChannel c).grid = s.grid := by unfold State.abortChannel; (try dsimp only); (repeat' split) <;> simp
@[simp] theorem abortChannel_engine (s : State) (c : Option (Fin 4)) : (s.abortChannel c).engine = s.engine := by unfold State.abortChannel; (try dsimp only); (repeat' split) <;> simp
@[simp] theorem abortChannel_arbiter (s : State) (c : Option (Fin 4)) : (s.abortChannel c).arbiter = s.arbiter := by unfold State.abortChannel; (try dsimp only); (repeat' split) <;> simp
@[simp] theorem abortChannel_attn (s : State) (c : Option (Fin 4)) : (s.abortChannel c).attn = s.attn := by unfold State.abortChannel; (try dsimp only); (repeat' split) <;> simp
@[simp] theorem abortChannel_profile (s : State) (c : Option (Fin 4)) : (s.abortChannel c).profile = s.profile := by unfold State.abortChannel; (try dsimp only); (repeat' split) <;> simp
@[simp] theorem abortChannel_links (s : State) (c : Option (Fin 4)) : (s.abortChannel c).links = s.links := by unfold State.abortChannel; (try dsimp only); (repeat' split) <;> simp
@[simp] theorem abortChannel_tape (s : State) (c : Option (Fin 4)) : (s.abortChannel c).tape = s.tape := by unfold State.abortChannel; (try dsimp only); (repeat' split) <;> simp
@[simp] theorem abortChannel_sent (s : State) (c : Option (Fin 4)) : (s.abortChannel c).sent = s.sent := by unfold State.abortChannel; (try dsimp only); (repeat' split) <;> simp
@[simp] theorem abortChannel_pending (s : State) (c : Option (Fin 4)) : (s.abortChannel c).pending = s.pending := by unfold State.abortChannel; (try dsimp only); (repeat' split) <;> simp

end Sys2Proof.Laws
end

