-- ==== Sys2Proof/Laws/Pass.lean ====
section
/-! SUPPORT. What the commit, manual placing and the events of a pass leave as they were. -/

namespace Sys2Proof.Laws

open Sys2Proof.Machine

/-! ### findInside -/

@[simp] theorem findInside_book (s : State) (slot : Nat) (cs : List (Nat × Nat)) : ((findInside slot cs s).1).book = s.book := by
  induction cs generalizing s with
  | nil => rfl
  | cons c cs ih =>
    unfold findInside
    dsimp only
    split <;> simp [ih]
@[simp] theorem findInside_library (s : State) (slot : Nat) (cs : List (Nat × Nat)) : ((findInside slot cs s).1).library = s.library := by
  induction cs generalizing s with
  | nil => rfl
  | cons c cs ih =>
    unfold findInside
    dsimp only
    split <;> simp [ih]
@[simp] theorem findInside_engine (s : State) (slot : Nat) (cs : List (Nat × Nat)) : ((findInside slot cs s).1).engine = s.engine := by
  induction cs generalizing s with
  | nil => rfl
  | cons c cs ih =>
    unfold findInside
    dsimp only
    split <;> simp [ih]
@[simp] theorem findInside_arbiter (s : State) (slot : Nat) (cs : List (Nat × Nat)) : ((findInside slot cs s).1).arbiter = s.arbiter := by
  induction cs generalizing s with
  | nil => rfl
  | cons c cs ih =>
    unfold findInside
    dsimp only
    split <;> simp [ih]
@[simp] theorem findInside_chans (s : State) (slot : Nat) (cs : List (Nat × Nat)) : ((findInside slot cs s).1).chans = s.chans := by
  induction cs generalizing s with
  | nil => rfl
  | cons c cs ih =>
    unfold findInside
    dsimp only
    split <;> simp [ih]
@[simp] theorem findInside_profile (s : State) (slot : Nat) (cs : List (Nat × Nat)) : ((findInside slot cs s).1).profile = s.profile := by
  induction cs generalizing s with
  | nil => rfl
  | cons c cs ih =>
    unfold findInside
    dsimp only
    split <;> simp [ih]
@[simp] theorem findInside_links (s : State) (slot : Nat) (cs : List (Nat × Nat)) : ((findInside slot cs s).1).links = s.links := by
  induction cs generalizing s with
  | nil => rfl
  | cons c cs ih =>
    unfold findInside
    dsimp only
    split <;> simp [ih]
@[simp] theorem findInside_sent (s : State) (slot : Nat) (cs : List (Nat × Nat)) : ((findInside slot cs s).1).sent = s.sent := by
  induction cs generalizing s with
  | nil => rfl
  | cons c cs ih =>
    unfold findInside
    dsimp only
    split <;> simp [ih]
@[simp] theorem findInside_pending (s : State) (slot : Nat) (cs : List (Nat × Nat)) : ((findInside slot cs s).1).pending = s.pending := by
  induction cs generalizing s with
  | nil => rfl
  | cons c cs ih =>
    unfold findInside
    dsimp only
    split <;> simp [ih]

/-! ### findOffHide -/

@[simp] theorem findOffHide_book (s : State) (slot k : Nat) (fs : List Flaw) : ((findOffHide slot k fs s).1).book = s.book := by
  induction fs generalizing s k with
  | nil => rfl
  | cons x fs ih => simp [findOffHide, ih]
@[simp] theorem findOffHide_library (s : State) (slot k : Nat) (fs : List Flaw) : ((findOffHide slot k fs s).1).library = s.library := by
  induction fs generalizing s k with
  | nil => rfl
  | cons x fs ih => simp [findOffHide, ih]
@[simp] theorem findOffHide_engine (s : State) (slot k : Nat) (fs : List Flaw) : ((findOffHide slot k fs s).1).engine = s.engine := by
  induction fs generalizing s k with
  | nil => rfl
  | cons x fs ih => simp [findOffHide, ih]
@[simp] theorem findOffHide_arbiter (s : State) (slot k : Nat) (fs : List Flaw) : ((findOffHide slot k fs s).1).arbiter = s.arbiter := by
  induction fs generalizing s k with
  | nil => rfl
  | cons x fs ih => simp [findOffHide, ih]
@[simp] theorem findOffHide_chans (s : State) (slot k : Nat) (fs : List Flaw) : ((findOffHide slot k fs s).1).chans = s.chans := by
  induction fs generalizing s k with
  | nil => rfl
  | cons x fs ih => simp [findOffHide, ih]
@[simp] theorem findOffHide_profile (s : State) (slot k : Nat) (fs : List Flaw) : ((findOffHide slot k fs s).1).profile = s.profile := by
  induction fs generalizing s k with
  | nil => rfl
  | cons x fs ih => simp [findOffHide, ih]
@[simp] theorem findOffHide_links (s : State) (slot k : Nat) (fs : List Flaw) : ((findOffHide slot k fs s).1).links = s.links := by
  induction fs generalizing s k with
  | nil => rfl
  | cons x fs ih => simp [findOffHide, ih]
@[simp] theorem findOffHide_sent (s : State) (slot k : Nat) (fs : List Flaw) : ((findOffHide slot k fs s).1).sent = s.sent := by
  induction fs generalizing s k with
  | nil => rfl
  | cons x fs ih => simp [findOffHide, ih]
@[simp] theorem findOffHide_pending (s : State) (slot k : Nat) (fs : List Flaw) : ((findOffHide slot k fs s).1).pending = s.pending := by
  induction fs generalizing s k with
  | nil => rfl
  | cons x fs ih => simp [findOffHide, ih]

/-! ### applyStaged -/

@[simp] theorem applyStaged_book (s : State) (slot : Nat) (fs : List Flaw) : (applyStaged slot fs s).book = s.book := by
  unfold applyStaged
  rw [foldl_keeps _ State.book (fun a b => by simp)]
@[simp] theorem applyStaged_library (s : State) (slot : Nat) (fs : List Flaw) : (applyStaged slot fs s).library = s.library := by
  unfold applyStaged
  rw [foldl_keeps _ State.library (fun a b => by simp)]
@[simp] theorem applyStaged_engine (s : State) (slot : Nat) (fs : List Flaw) : (applyStaged slot fs s).engine = s.engine := by
  unfold applyStaged
  rw [foldl_keeps _ State.engine (fun a b => by simp)]
@[simp] theorem applyStaged_arbiter (s : State) (slot : Nat) (fs : List Flaw) : (applyStaged slot fs s).arbiter = s.arbiter := by
  unfold applyStaged
  rw [foldl_keeps _ State.arbiter (fun a b => by simp)]
@[simp] theorem applyStaged_chans (s : State) (slot : Nat) (fs : List Flaw) : (applyStaged slot fs s).chans = s.chans := by
  unfold applyStaged
  rw [foldl_keeps _ State.chans (fun a b => by simp)]
@[simp] theorem applyStaged_profile (s : State) (slot : Nat) (fs : List Flaw) : (applyStaged slot fs s).profile = s.profile := by
  unfold applyStaged
  rw [foldl_keeps _ State.profile (fun a b => by simp)]
@[simp] theorem applyStaged_links (s : State) (slot : Nat) (fs : List Flaw) : (applyStaged slot fs s).links = s.links := by
  unfold applyStaged
  rw [foldl_keeps _ State.links (fun a b => by simp)]
@[simp] theorem applyStaged_sent (s : State) (slot : Nat) (fs : List Flaw) : (applyStaged slot fs s).sent = s.sent := by
  unfold applyStaged
  rw [foldl_keeps _ State.sent (fun a b => by simp)]
@[simp] theorem applyStaged_pending (s : State) (slot : Nat) (fs : List Flaw) : (applyStaged slot fs s).pending = s.pending := by
  unfold applyStaged
  rw [foldl_keeps _ State.pending (fun a b => by simp)]

/-! ### completeCommit -/

@[simp] theorem completeCommit_book (s : State) (slot : Nat) (h : Hide) : (completeCommit slot h s).book = s.book := by
  unfold completeCommit
  dsimp only
  split <;> simp
@[simp] theorem completeCommit_library (s : State) (slot : Nat) (h : Hide) : (completeCommit slot h s).library = s.library := by
  unfold completeCommit
  dsimp only
  split <;> simp
@[simp] theorem completeCommit_engine (s : State) (slot : Nat) (h : Hide) : (completeCommit slot h s).engine = s.engine := by
  unfold completeCommit
  dsimp only
  split <;> simp
@[simp] theorem completeCommit_arbiter (s : State) (slot : Nat) (h : Hide) : (completeCommit slot h s).arbiter = s.arbiter := by
  unfold completeCommit
  dsimp only
  split <;> simp
@[simp] theorem completeCommit_chans (s : State) (slot : Nat) (h : Hide) : (completeCommit slot h s).chans = s.chans := by
  unfold completeCommit
  dsimp only
  split <;> simp
@[simp] theorem completeCommit_profile (s : State) (slot : Nat) (h : Hide) : (completeCommit slot h s).profile = s.profile := by
  unfold completeCommit
  dsimp only
  split <;> simp
@[simp] theorem completeCommit_links (s : State) (slot : Nat) (h : Hide) : (completeCommit slot h s).links = s.links := by
  unfold completeCommit
  dsimp only
  split <;> simp
@[simp] theorem completeCommit_sent (s : State) (slot : Nat) (h : Hide) : (completeCommit slot h s).sent = s.sent := by
  unfold completeCommit
  dsimp only
  split <;> simp
@[simp] theorem completeCommit_pending (s : State) (slot : Nat) (h : Hide) : (completeCommit slot h s).pending = s.pending := by
  unfold completeCommit
  dsimp only
  split <;> simp

/-! ### tryFit -/

@[simp] theorem tryFit_book (s : State) (slot ps o x y : Nat) : ((tryFit slot ps o x y s).1).book = s.book := by unfold tryFit; (try dsimp only); (repeat' split) <;> simp
@[simp] theorem tryFit_library (s : State) (slot ps o x y : Nat) : ((tryFit slot ps o x y s).1).library = s.library := by unfold tryFit; (try dsimp only); (repeat' split) <;> simp
@[simp] theorem tryFit_engine (s : State) (slot ps o x y : Nat) : ((tryFit slot ps o x y s).1).engine = s.engine := by unfold tryFit; (try dsimp only); (repeat' split) <;> simp
@[simp] theorem tryFit_arbiter (s : State) (slot ps o x y : Nat) : ((tryFit slot ps o x y s).1).arbiter = s.arbiter := by unfold tryFit; (try dsimp only); (repeat' split) <;> simp
@[simp] theorem tryFit_chans (s : State) (slot ps o x y : Nat) : ((tryFit slot ps o x y s).1).chans = s.chans := by unfold tryFit; (try dsimp only); (repeat' split) <;> simp
@[simp] theorem tryFit_profile (s : State) (slot ps o x y : Nat) : ((tryFit slot ps o x y s).1).profile = s.profile := by unfold tryFit; (try dsimp only); (repeat' split) <;> simp
@[simp] theorem tryFit_links (s : State) (slot ps o x y : Nat) : ((tryFit slot ps o x y s).1).links = s.links := by unfold tryFit; (try dsimp only); (repeat' split) <;> simp
@[simp] theorem tryFit_sent (s : State) (slot ps o x y : Nat) : ((tryFit slot ps o x y s).1).sent = s.sent := by unfold tryFit; (try dsimp only); (repeat' split) <;> simp
@[simp] theorem tryFit_pending (s : State) (slot ps o x y : Nat) : ((tryFit slot ps o x y s).1).pending = s.pending := by unfold tryFit; (try dsimp only); (repeat' split) <;> simp

/-! ### coverFor -/

@[simp] theorem coverFor_book (s : State) (slot ps o x y : Nat) : (s.coverFor slot ps o x y).book = s.book := by unfold State.coverFor; (try dsimp only); (repeat' split) <;> simp
@[simp] theorem coverFor_library (s : State) (slot ps o x y : Nat) : (s.coverFor slot ps o x y).library = s.library := by unfold State.coverFor; (try dsimp only); (repeat' split) <;> simp
@[simp] theorem coverFor_hides (s : State) (slot ps o x y : Nat) : (s.coverFor slot ps o x y).hides = s.hides := by unfold State.coverFor; (try dsimp only); (repeat' split) <;> simp
@[simp] theorem coverFor_engine (s : State) (slot ps o x y : Nat) : (s.coverFor slot ps o x y).engine = s.engine := by unfold State.coverFor; (try dsimp only); (repeat' split) <;> simp
@[simp] theorem coverFor_arbiter (s : State) (slot ps o x y : Nat) : (s.coverFor slot ps o x y).arbiter = s.arbiter := by unfold State.coverFor; (try dsimp only); (repeat' split) <;> simp
@[simp] theorem coverFor_chans (s : State) (slot ps o x y : Nat) : (s.coverFor slot ps o x y).chans = s.chans := by unfold State.coverFor; (try dsimp only); (repeat' split) <;> simp
@[simp] theorem coverFor_attn (s : State) (slot ps o x y : Nat) : (s.coverFor slot ps o x y).attn = s.attn := by unfold State.coverFor; (try dsimp only); (repeat' split) <;> simp
@[simp] theorem coverFor_profile (s : State) (slot ps o x y : Nat) : (s.coverFor slot ps o x y).profile = s.profile := by unfold State.coverFor; (try dsimp only); (repeat' split) <;> simp
@[simp] theorem coverFor_links (s : State) (slot ps o x y : Nat) : (s.coverFor slot ps o x y).links = s.links := by unfold State.coverFor; (try dsimp only); (repeat' split) <;> simp
@[simp] theorem coverFor_tape (s : State) (slot ps o x y : Nat) : (s.coverFor slot ps o x y).tape = s.tape := by unfold State.coverFor; (try dsimp only); (repeat' split) <;> simp
@[simp] theorem coverFor_sent (s : State) (slot ps o x y : Nat) : (s.coverFor slot ps o x y).sent = s.sent := by unfold State.coverFor; (try dsimp only); (repeat' split) <;> simp
@[simp] theorem coverFor_pending (s : State) (slot ps o x y : Nat) : (s.coverFor slot ps o x y).pending = s.pending := by unfold State.coverFor; (try dsimp only); (repeat' split) <;> simp

/-! ### commitManual -/

@[simp] theorem commitManual_book (s : State) (slot : Nat) (ps : List Placement) : (s.commitManual slot ps).book = s.book := by simp [State.commitManual]
@[simp] theorem commitManual_library (s : State) (slot : Nat) (ps : List Placement) : (s.commitManual slot ps).library = s.library := by simp [State.commitManual]
@[simp] theorem commitManual_grid (s : State) (slot : Nat) (ps : List Placement) : (s.commitManual slot ps).grid = s.grid := by simp [State.commitManual]
@[simp] theorem commitManual_engine (s : State) (slot : Nat) (ps : List Placement) : (s.commitManual slot ps).engine = s.engine := by simp [State.commitManual]
@[simp] theorem commitManual_arbiter (s : State) (slot : Nat) (ps : List Placement) : (s.commitManual slot ps).arbiter = s.arbiter := by simp [State.commitManual]
@[simp] theorem commitManual_chans (s : State) (slot : Nat) (ps : List Placement) : (s.commitManual slot ps).chans = s.chans := by simp [State.commitManual]
@[simp] theorem commitManual_attn (s : State) (slot : Nat) (ps : List Placement) : (s.commitManual slot ps).attn = s.attn := by simp [State.commitManual]
@[simp] theorem commitManual_profile (s : State) (slot : Nat) (ps : List Placement) : (s.commitManual slot ps).profile = s.profile := by simp [State.commitManual]
@[simp] theorem commitManual_links (s : State) (slot : Nat) (ps : List Placement) : (s.commitManual slot ps).links = s.links := by simp [State.commitManual]
@[simp] theorem commitManual_tape (s : State) (slot : Nat) (ps : List Placement) : (s.commitManual slot ps).tape = s.tape := by simp [State.commitManual]
@[simp] theorem commitManual_sent (s : State) (slot : Nat) (ps : List Placement) : (s.commitManual slot ps).sent = s.sent := by simp [State.commitManual]
@[simp] theorem commitManual_pending (s : State) (slot : Nat) (ps : List Placement) : (s.commitManual slot ps).pending = s.pending := by simp [State.commitManual]

/-! ### putPass -/

@[simp] theorem putPass_book (s : State) (p : Option Pass) : (s.putPass p).book = s.book := rfl
@[simp] theorem putPass_library (s : State) (p : Option Pass) : (s.putPass p).library = s.library := rfl
@[simp] theorem putPass_hides (s : State) (p : Option Pass) : (s.putPass p).hides = s.hides := rfl
@[simp] theorem putPass_grid (s : State) (p : Option Pass) : (s.putPass p).grid = s.grid := rfl
@[simp] theorem putPass_arbiter (s : State) (p : Option Pass) : (s.putPass p).arbiter = s.arbiter := rfl
@[simp] theorem putPass_chans (s : State) (p : Option Pass) : (s.putPass p).chans = s.chans := rfl
@[simp] theorem putPass_attn (s : State) (p : Option Pass) : (s.putPass p).attn = s.attn := rfl
@[simp] theorem putPass_profile (s : State) (p : Option Pass) : (s.putPass p).profile = s.profile := rfl
@[simp] theorem putPass_links (s : State) (p : Option Pass) : (s.putPass p).links = s.links := rfl
@[simp] theorem putPass_tape (s : State) (p : Option Pass) : (s.putPass p).tape = s.tape := rfl
@[simp] theorem putPass_sent (s : State) (p : Option Pass) : (s.putPass p).sent = s.sent := rfl
@[simp] theorem putPass_pending (s : State) (p : Option Pass) : (s.putPass p).pending = s.pending := rfl

/-! ### setPhase -/

@[simp] theorem setPhase_book (s : State) (ph : Phase) : (s.setPhase ph).book = s.book := rfl
@[simp] theorem setPhase_library (s : State) (ph : Phase) : (s.setPhase ph).library = s.library := rfl
@[simp] theorem setPhase_hides (s : State) (ph : Phase) : (s.setPhase ph).hides = s.hides := rfl
@[simp] theorem setPhase_grid (s : State) (ph : Phase) : (s.setPhase ph).grid = s.grid := rfl
@[simp] theorem setPhase_arbiter (s : State) (ph : Phase) : (s.setPhase ph).arbiter = s.arbiter := rfl
@[simp] theorem setPhase_chans (s : State) (ph : Phase) : (s.setPhase ph).chans = s.chans := rfl
@[simp] theorem setPhase_attn (s : State) (ph : Phase) : (s.setPhase ph).attn = s.attn := rfl
@[simp] theorem setPhase_profile (s : State) (ph : Phase) : (s.setPhase ph).profile = s.profile := rfl
@[simp] theorem setPhase_links (s : State) (ph : Phase) : (s.setPhase ph).links = s.links := rfl
@[simp] theorem setPhase_tape (s : State) (ph : Phase) : (s.setPhase ph).tape = s.tape := rfl
@[simp] theorem setPhase_sent (s : State) (ph : Phase) : (s.setPhase ph).sent = s.sent := rfl
@[simp] theorem setPhase_pending (s : State) (ph : Phase) : (s.setPhase ph).pending = s.pending := rfl

/-! ### takeHide -/

@[simp] theorem takeHide_book (s : State) : (takeHide s).book = s.book := by unfold takeHide; (try dsimp only); (repeat' split) <;> simp
@[simp] theorem takeHide_library (s : State) : (takeHide s).library = s.library := by unfold takeHide; (try dsimp only); (repeat' split) <;> simp
@[simp] theorem takeHide_grid (s : State) : (takeHide s).grid = s.grid := by unfold takeHide; (try dsimp only); (repeat' split) <;> simp
@[simp] theorem takeHide_arbiter (s : State) : (takeHide s).arbiter = s.arbiter := by unfold takeHide; (try dsimp only); (repeat' split) <;> simp
@[simp] theorem takeHide_chans (s : State) : (takeHide s).chans = s.chans := by unfold takeHide; (try dsimp only); (repeat' split) <;> simp
@[simp] theorem takeHide_attn (s : State) : (takeHide s).attn = s.attn := by unfold takeHide; (try dsimp only); (repeat' split) <;> simp
@[simp] theorem takeHide_profile (s : State) : (takeHide s).profile = s.profile := by unfold takeHide; (try dsimp only); (repeat' split) <;> simp
@[simp] theorem takeHide_links (s : State) : (takeHide s).links = s.links := by unfold takeHide; (try dsimp only); (repeat' split) <;> simp
@[simp] theorem takeHide_tape (s : State) : (takeHide s).tape = s.tape := by unfold takeHide; (try dsimp only); (repeat' split) <;> simp
@[simp] theorem takeHide_sent (s : State) : (takeHide s).sent = s.sent := by unfold takeHide; (try dsimp only); (repeat' split) <;> simp
@[simp] theorem takeHide_pending (s : State) : (takeHide s).pending = s.pending := by unfold takeHide; (try dsimp only); (repeat' split) <;> simp

/-! ### stopChecks -/

@[simp] theorem stopChecks_book (s : State) : (stopChecks s).book = s.book := by unfold stopChecks; (try dsimp only); (repeat' split) <;> simp
@[simp] theorem stopChecks_library (s : State) : (stopChecks s).library = s.library := by unfold stopChecks; (try dsimp only); (repeat' split) <;> simp
@[simp] theorem stopChecks_hides (s : State) : (stopChecks s).hides = s.hides := by unfold stopChecks; (try dsimp only); (repeat' split) <;> simp
@[simp] theorem stopChecks_grid (s : State) : (stopChecks s).grid = s.grid := by unfold stopChecks; (try dsimp only); (repeat' split) <;> simp
@[simp] theorem stopChecks_arbiter (s : State) : (stopChecks s).arbiter = s.arbiter := by unfold stopChecks; (try dsimp only); (repeat' split) <;> simp
@[simp] theorem stopChecks_chans (s : State) : (stopChecks s).chans = s.chans := by unfold stopChecks; (try dsimp only); (repeat' split) <;> simp
@[simp] theorem stopChecks_attn (s : State) : (stopChecks s).attn = s.attn := by unfold stopChecks; (try dsimp only); (repeat' split) <;> simp
@[simp] theorem stopChecks_profile (s : State) : (stopChecks s).profile = s.profile := by unfold stopChecks; (try dsimp only); (repeat' split) <;> simp
@[simp] theorem stopChecks_links (s : State) : (stopChecks s).links = s.links := by unfold stopChecks; (try dsimp only); (repeat' split) <;> simp
@[simp] theorem stopChecks_tape (s : State) : (stopChecks s).tape = s.tape := by unfold stopChecks; (try dsimp only); (repeat' split) <;> simp
@[simp] theorem stopChecks_sent (s : State) : (stopChecks s).sent = s.sent := by unfold stopChecks; (try dsimp only); (repeat' split) <;> simp
@[simp] theorem stopChecks_pending (s : State) : (stopChecks s).pending = s.pending := by unfold stopChecks; (try dsimp only); (repeat' split) <;> simp

/-! ### searchTest -/

@[simp] theorem searchTest_library (s : State) (p : Pass) (q : Search) (h : Hide) : (searchTest p q h s).library = s.library := by unfold searchTest; (try dsimp only); (repeat' split) <;> simp
@[simp] theorem searchTest_profile (s : State) (p : Pass) (q : Search) (h : Hide) : (searchTest p q h s).profile = s.profile := by unfold searchTest; (try dsimp only); (repeat' split) <;> simp
@[simp] theorem searchTest_links (s : State) (p : Pass) (q : Search) (h : Hide) : (searchTest p q h s).links = s.links := by unfold searchTest; (try dsimp only); (repeat' split) <;> simp
@[simp] theorem searchTest_sent (s : State) (p : Pass) (q : Search) (h : Hide) : (searchTest p q h s).sent = s.sent := by unfold searchTest; (try dsimp only); (repeat' split) <;> simp
@[simp] theorem searchTest_pending (s : State) (p : Pass) (q : Search) (h : Hide) : (searchTest p q h s).pending = s.pending := by unfold searchTest; (try dsimp only); (repeat' split) <;> simp

/-! ### fitTestEvent -/

@[simp] theorem fitTestEvent_library (s : State) : (fitTestEvent s).library = s.library := by unfold fitTestEvent; (try dsimp only); (repeat' split) <;> simp
@[simp] theorem fitTestEvent_profile (s : State) : (fitTestEvent s).profile = s.profile := by unfold fitTestEvent; (try dsimp only); (repeat' split) <;> simp
@[simp] theorem fitTestEvent_links (s : State) : (fitTestEvent s).links = s.links := by unfold fitTestEvent; (try dsimp only); (repeat' split) <;> simp
@[simp] theorem fitTestEvent_sent (s : State) : (fitTestEvent s).sent = s.sent := by unfold fitTestEvent; (try dsimp only); (repeat' split) <;> simp
@[simp] theorem fitTestEvent_pending (s : State) : (fitTestEvent s).pending = s.pending := by unfold fitTestEvent; (try dsimp only); (repeat' split) <;> simp

/-! ### pushEntry -/

@[simp] theorem pushEntry_book (s : State) (e : Entry) : (s.pushEntry e).book = s.book := rfl
@[simp] theorem pushEntry_library (s : State) (e : Entry) : (s.pushEntry e).library = s.library := rfl
@[simp] theorem pushEntry_hides (s : State) (e : Entry) : (s.pushEntry e).hides = s.hides := rfl
@[simp] theorem pushEntry_grid (s : State) (e : Entry) : (s.pushEntry e).grid = s.grid := rfl
@[simp] theorem pushEntry_arbiter (s : State) (e : Entry) : (s.pushEntry e).arbiter = s.arbiter := rfl
@[simp] theorem pushEntry_chans (s : State) (e : Entry) : (s.pushEntry e).chans = s.chans := rfl
@[simp] theorem pushEntry_attn (s : State) (e : Entry) : (s.pushEntry e).attn = s.attn := rfl
@[simp] theorem pushEntry_profile (s : State) (e : Entry) : (s.pushEntry e).profile = s.profile := rfl
@[simp] theorem pushEntry_links (s : State) (e : Entry) : (s.pushEntry e).links = s.links := rfl
@[simp] theorem pushEntry_tape (s : State) (e : Entry) : (s.pushEntry e).tape = s.tape := rfl
@[simp] theorem pushEntry_sent (s : State) (e : Entry) : (s.pushEntry e).sent = s.sent := rfl
@[simp] theorem pushEntry_pending (s : State) (e : Entry) : (s.pushEntry e).pending = s.pending := rfl

/-! ### countUnit -/

@[simp] theorem countUnit_book (s : State) : (s.countUnit).book = s.book := rfl
@[simp] theorem countUnit_library (s : State) : (s.countUnit).library = s.library := rfl
@[simp] theorem countUnit_hides (s : State) : (s.countUnit).hides = s.hides := rfl
@[simp] theorem countUnit_grid (s : State) : (s.countUnit).grid = s.grid := rfl
@[simp] theorem countUnit_arbiter (s : State) : (s.countUnit).arbiter = s.arbiter := rfl
@[simp] theorem countUnit_chans (s : State) : (s.countUnit).chans = s.chans := rfl
@[simp] theorem countUnit_attn (s : State) : (s.countUnit).attn = s.attn := rfl
@[simp] theorem countUnit_profile (s : State) : (s.countUnit).profile = s.profile := rfl
@[simp] theorem countUnit_links (s : State) : (s.countUnit).links = s.links := rfl
@[simp] theorem countUnit_tape (s : State) : (s.countUnit).tape = s.tape := rfl
@[simp] theorem countUnit_sent (s : State) : (s.countUnit).sent = s.sent := rfl
@[simp] theorem countUnit_pending (s : State) : (s.countUnit).pending = s.pending := rfl

/-! ### popTop -/

@[simp] theorem popTop_library (s : State) (slot : Nat) : (s.popTop slot).library = s.library := by unfold State.popTop; (try dsimp only); (repeat' split) <;> simp
@[simp] theorem popTop_hides (s : State) (slot : Nat) : (s.popTop slot).hides = s.hides := by unfold State.popTop; (try dsimp only); (repeat' split) <;> simp
@[simp] theorem popTop_arbiter (s : State) (slot : Nat) : (s.popTop slot).arbiter = s.arbiter := by unfold State.popTop; (try dsimp only); (repeat' split) <;> simp
@[simp] theorem popTop_chans (s : State) (slot : Nat) : (s.popTop slot).chans = s.chans := by unfold State.popTop; (try dsimp only); (repeat' split) <;> simp
@[simp] theorem popTop_profile (s : State) (slot : Nat) : (s.popTop slot).profile = s.profile := by unfold State.popTop; (try dsimp only); (repeat' split) <;> simp
@[simp] theorem popTop_links (s : State) (slot : Nat) : (s.popTop slot).links = s.links := by unfold State.popTop; (try dsimp only); (repeat' split) <;> simp
@[simp] theorem popTop_tape (s : State) (slot : Nat) : (s.popTop slot).tape = s.tape := by unfold State.popTop; (try dsimp only); (repeat' split) <;> simp
@[simp] theorem popTop_sent (s : State) (slot : Nat) : (s.popTop slot).sent = s.sent := by unfold State.popTop; (try dsimp only); (repeat' split) <;> simp
@[simp] theorem popTop_pending (s : State) (slot : Nat) : (s.popTop slot).pending = s.pending := by unfold State.popTop; (try dsimp only); (repeat' split) <;> simp

/-! ### afterPush -/

@[simp] theorem afterPush_book (s : State) (p : Pass) (r : Role) : (afterPush p r s).book = s.book := by unfold afterPush; (try dsimp only); (repeat' split) <;> simp
@[simp] theorem afterPush_library (s : State) (p : Pass) (r : Role) : (afterPush p r s).library = s.library := by unfold afterPush; (try dsimp only); (repeat' split) <;> simp
@[simp] theorem afterPush_hides (s : State) (p : Pass) (r : Role) : (afterPush p r s).hides = s.hides := by unfold afterPush; (try dsimp only); (repeat' split) <;> simp
@[simp] theorem afterPush_grid (s : State) (p : Pass) (r : Role) : (afterPush p r s).grid = s.grid := by unfold afterPush; (try dsimp only); (repeat' split) <;> simp
@[simp] theorem afterPush_arbiter (s : State) (p : Pass) (r : Role) : (afterPush p r s).arbiter = s.arbiter := by unfold afterPush; (try dsimp only); (repeat' split) <;> simp
@[simp] theorem afterPush_chans (s : State) (p : Pass) (r : Role) : (afterPush p r s).chans = s.chans := by unfold afterPush; (try dsimp only); (repeat' split) <;> simp
@[simp] theorem afterPush_attn (s : State) (p : Pass) (r : Role) : (afterPush p r s).attn = s.attn := by unfold afterPush; (try dsimp only); (repeat' split) <;> simp
@[simp] theorem afterPush_profile (s : State) (p : Pass) (r : Role) : (afterPush p r s).profile = s.profile := by unfold afterPush; (try dsimp only); (repeat' split) <;> simp
@[simp] theorem afterPush_links (s : State) (p : Pass) (r : Role) : (afterPush p r s).links = s.links := by unfold afterPush; (try dsimp only); (repeat' split) <;> simp
@[simp] theorem afterPush_tape (s : State) (p : Pass) (r : Role) : (afterPush p r s).tape = s.tape := by unfold afterPush; (try dsimp only); (repeat' split) <;> simp
@[simp] theorem afterPush_sent (s : State) (p : Pass) (r : Role) : (afterPush p r s).sent = s.sent := by unfold afterPush; (try dsimp only); (repeat' split) <;> simp
@[simp] theorem afterPush_pending (s : State) (p : Pass) (r : Role) : (afterPush p r s).pending = s.pending := by unfold afterPush; (try dsimp only); (repeat' split) <;> simp

/-! ### reserveFound and coverFound -/

/-- A reserve of a fit is a reserve of the search's line. -/
theorem reserveFound_some {s t : State} {q : Search} (h : reserveFound q s = some t) :
    stillNamed s q = true ∧ s.claimReserve q.line = some t := by
  unfold reserveFound at h
  split at h
  · next hn => exact ⟨hn, h⟩
  · cases h

@[simp] theorem coverFound_book (s : State) (slot : Nat) (q : Search) (o x y : Nat) : (coverFound slot q o x y s).book = s.book := by unfold coverFound; split <;> simp
@[simp] theorem coverFound_library (s : State) (slot : Nat) (q : Search) (o x y : Nat) : (coverFound slot q o x y s).library = s.library := by unfold coverFound; split <;> simp
@[simp] theorem coverFound_hides (s : State) (slot : Nat) (q : Search) (o x y : Nat) : (coverFound slot q o x y s).hides = s.hides := by unfold coverFound; split <;> simp
@[simp] theorem coverFound_engine (s : State) (slot : Nat) (q : Search) (o x y : Nat) : (coverFound slot q o x y s).engine = s.engine := by unfold coverFound; split <;> simp
@[simp] theorem coverFound_arbiter (s : State) (slot : Nat) (q : Search) (o x y : Nat) : (coverFound slot q o x y s).arbiter = s.arbiter := by unfold coverFound; split <;> simp
@[simp] theorem coverFound_chans (s : State) (slot : Nat) (q : Search) (o x y : Nat) : (coverFound slot q o x y s).chans = s.chans := by unfold coverFound; split <;> simp
@[simp] theorem coverFound_attn (s : State) (slot : Nat) (q : Search) (o x y : Nat) : (coverFound slot q o x y s).attn = s.attn := by unfold coverFound; split <;> simp
@[simp] theorem coverFound_profile (s : State) (slot : Nat) (q : Search) (o x y : Nat) : (coverFound slot q o x y s).profile = s.profile := by unfold coverFound; split <;> simp
@[simp] theorem coverFound_links (s : State) (slot : Nat) (q : Search) (o x y : Nat) : (coverFound slot q o x y s).links = s.links := by unfold coverFound; split <;> simp
@[simp] theorem coverFound_tape (s : State) (slot : Nat) (q : Search) (o x y : Nat) : (coverFound slot q o x y s).tape = s.tape := by unfold coverFound; split <;> simp
@[simp] theorem coverFound_sent (s : State) (slot : Nat) (q : Search) (o x y : Nat) : (coverFound slot q o x y s).sent = s.sent := by unfold coverFound; split <;> simp
@[simp] theorem coverFound_pending (s : State) (slot : Nat) (q : Search) (o x y : Nat) : (coverFound slot q o x y s).pending = s.pending := by unfold coverFound; split <;> simp

/-! ### pushFound -/

@[simp] theorem pushFound_library (s : State) (p : Pass) (q : Search) (o x y : Nat) : (pushFound p q o x y s).library = s.library := by
  unfold pushFound
  split
  · split <;> simp
  · next t ht => simpa using claimReserve_library (reserveFound_some ht).2
@[simp] theorem pushFound_hides (s : State) (p : Pass) (q : Search) (o x y : Nat) : (pushFound p q o x y s).hides = s.hides := by
  unfold pushFound
  split
  · split <;> simp
  · next t ht => simpa using claimReserve_hides (reserveFound_some ht).2
@[simp] theorem pushFound_arbiter (s : State) (p : Pass) (q : Search) (o x y : Nat) : (pushFound p q o x y s).arbiter = s.arbiter := by
  unfold pushFound
  split
  · split <;> simp
  · next t ht => simpa using claimReserve_arbiter (reserveFound_some ht).2
@[simp] theorem pushFound_chans (s : State) (p : Pass) (q : Search) (o x y : Nat) : (pushFound p q o x y s).chans = s.chans := by
  unfold pushFound
  split
  · split <;> simp
  · next t ht => simpa using claimReserve_chans (reserveFound_some ht).2
@[simp] theorem pushFound_profile (s : State) (p : Pass) (q : Search) (o x y : Nat) : (pushFound p q o x y s).profile = s.profile := by
  unfold pushFound
  split
  · split <;> simp
  · next t ht => simpa using claimReserve_profile (reserveFound_some ht).2
@[simp] theorem pushFound_links (s : State) (p : Pass) (q : Search) (o x y : Nat) : (pushFound p q o x y s).links = s.links := by
  unfold pushFound
  split
  · split <;> simp
  · next t ht => simpa using claimReserve_links (reserveFound_some ht).2
@[simp] theorem pushFound_tape (s : State) (p : Pass) (q : Search) (o x y : Nat) : (pushFound p q o x y s).tape = s.tape := by
  unfold pushFound
  split
  · split <;> simp
  · next t ht => simpa using claimReserve_tape (reserveFound_some ht).2
@[simp] theorem pushFound_sent (s : State) (p : Pass) (q : Search) (o x y : Nat) : (pushFound p q o x y s).sent = s.sent := by
  unfold pushFound
  split
  · split <;> simp
  · next t ht => simpa using claimReserve_sent (reserveFound_some ht).2
@[simp] theorem pushFound_pending (s : State) (p : Pass) (q : Search) (o x y : Nat) : (pushFound p q o x y s).pending = s.pending := by
  unfold pushFound
  split
  · split <;> simp
  · next t ht => simpa using claimReserve_pending (reserveFound_some ht).2

/-! ### unitPush -/

@[simp] theorem unitPush_library (s : State) : (unitPush s).library = s.library := by unfold unitPush; (try dsimp only); (repeat' split) <;> simp
@[simp] theorem unitPush_hides (s : State) : (unitPush s).hides = s.hides := by unfold unitPush; (try dsimp only); (repeat' split) <;> simp
@[simp] theorem unitPush_arbiter (s : State) : (unitPush s).arbiter = s.arbiter := by unfold unitPush; (try dsimp only); (repeat' split) <;> simp
@[simp] theorem unitPush_chans (s : State) : (unitPush s).chans = s.chans := by unfold unitPush; (try dsimp only); (repeat' split) <;> simp
@[simp] theorem unitPush_profile (s : State) : (unitPush s).profile = s.profile := by unfold unitPush; (try dsimp only); (repeat' split) <;> simp
@[simp] theorem unitPush_links (s : State) : (unitPush s).links = s.links := by unfold unitPush; (try dsimp only); (repeat' split) <;> simp
@[simp] theorem unitPush_tape (s : State) : (unitPush s).tape = s.tape := by unfold unitPush; (try dsimp only); (repeat' split) <;> simp
@[simp] theorem unitPush_sent (s : State) : (unitPush s).sent = s.sent := by unfold unitPush; (try dsimp only); (repeat' split) <;> simp
@[simp] theorem unitPush_pending (s : State) : (unitPush s).pending = s.pending := by unfold unitPush; (try dsimp only); (repeat' split) <;> simp

/-! ### commitStack -/

@[simp] theorem commitStack_book (s : State) (slot : Nat) (es : List Entry) : (commitStack slot es s).book = s.book := by simp [commitStack]
@[simp] theorem commitStack_library (s : State) (slot : Nat) (es : List Entry) : (commitStack slot es s).library = s.library := by simp [commitStack]
@[simp] theorem commitStack_grid (s : State) (slot : Nat) (es : List Entry) : (commitStack slot es s).grid = s.grid := by simp [commitStack]
@[simp] theorem commitStack_engine (s : State) (slot : Nat) (es : List Entry) : (commitStack slot es s).engine = s.engine := by simp [commitStack]
@[simp] theorem commitStack_arbiter (s : State) (slot : Nat) (es : List Entry) : (commitStack slot es s).arbiter = s.arbiter := by simp [commitStack]
@[simp] theorem commitStack_chans (s : State) (slot : Nat) (es : List Entry) : (commitStack slot es s).chans = s.chans := by simp [commitStack]
@[simp] theorem commitStack_attn (s : State) (slot : Nat) (es : List Entry) : (commitStack slot es s).attn = s.attn := by simp [commitStack]
@[simp] theorem commitStack_profile (s : State) (slot : Nat) (es : List Entry) : (commitStack slot es s).profile = s.profile := by simp [commitStack]
@[simp] theorem commitStack_links (s : State) (slot : Nat) (es : List Entry) : (commitStack slot es s).links = s.links := by simp [commitStack]
@[simp] theorem commitStack_tape (s : State) (slot : Nat) (es : List Entry) : (commitStack slot es s).tape = s.tape := by simp [commitStack]
@[simp] theorem commitStack_sent (s : State) (slot : Nat) (es : List Entry) : (commitStack slot es s).sent = s.sent := by simp [commitStack]
@[simp] theorem commitStack_pending (s : State) (slot : Nat) (es : List Entry) : (commitStack slot es s).pending = s.pending := by simp [commitStack]

/-! ### endStep -/

@[simp] theorem endStep_library (s : State) (p : Pass) (k : PlanStep) (r : EndReason) : (endStep p k r s).library = s.library := by unfold endStep; (try dsimp only); (repeat' split) <;> simp
@[simp] theorem endStep_arbiter (s : State) (p : Pass) (k : PlanStep) (r : EndReason) : (endStep p k r s).arbiter = s.arbiter := by unfold endStep; (try dsimp only); (repeat' split) <;> simp
@[simp] theorem endStep_chans (s : State) (p : Pass) (k : PlanStep) (r : EndReason) : (endStep p k r s).chans = s.chans := by unfold endStep; (try dsimp only); (repeat' split) <;> simp
@[simp] theorem endStep_profile (s : State) (p : Pass) (k : PlanStep) (r : EndReason) : (endStep p k r s).profile = s.profile := by unfold endStep; (try dsimp only); (repeat' split) <;> simp
@[simp] theorem endStep_links (s : State) (p : Pass) (k : PlanStep) (r : EndReason) : (endStep p k r s).links = s.links := by unfold endStep; (try dsimp only); (repeat' split) <;> simp
@[simp] theorem endStep_tape (s : State) (p : Pass) (k : PlanStep) (r : EndReason) : (endStep p k r s).tape = s.tape := by unfold endStep; (try dsimp only); (repeat' split) <;> simp
@[simp] theorem endStep_sent (s : State) (p : Pass) (k : PlanStep) (r : EndReason) : (endStep p k r s).sent = s.sent := by unfold endStep; (try dsimp only); (repeat' split) <;> simp
@[simp] theorem endStep_pending (s : State) (p : Pass) (k : PlanStep) (r : EndReason) : (endStep p k r s).pending = s.pending := by unfold endStep; (try dsimp only); (repeat' split) <;> simp

/-! ### stepEnd -/

@[simp] theorem stepEnd_library (s : State) : (stepEnd s).library = s.library := by unfold stepEnd; (try dsimp only); (repeat' split) <;> simp
@[simp] theorem stepEnd_arbiter (s : State) : (stepEnd s).arbiter = s.arbiter := by unfold stepEnd; (try dsimp only); (repeat' split) <;> simp
@[simp] theorem stepEnd_chans (s : State) : (stepEnd s).chans = s.chans := by unfold stepEnd; (try dsimp only); (repeat' split) <;> simp
@[simp] theorem stepEnd_profile (s : State) : (stepEnd s).profile = s.profile := by unfold stepEnd; (try dsimp only); (repeat' split) <;> simp
@[simp] theorem stepEnd_links (s : State) : (stepEnd s).links = s.links := by unfold stepEnd; (try dsimp only); (repeat' split) <;> simp
@[simp] theorem stepEnd_tape (s : State) : (stepEnd s).tape = s.tape := by unfold stepEnd; (try dsimp only); (repeat' split) <;> simp
@[simp] theorem stepEnd_sent (s : State) : (stepEnd s).sent = s.sent := by unfold stepEnd; (try dsimp only); (repeat' split) <;> simp
@[simp] theorem stepEnd_pending (s : State) : (stepEnd s).pending = s.pending := by unfold stepEnd; (try dsimp only); (repeat' split) <;> simp

/-! ### deferredFlaw -/

@[simp] theorem deferredFlaw_library (s : State) (slot : Nat) (x : Flaw) : (deferredFlaw slot s x).library = s.library := by unfold deferredFlaw; (try dsimp only); (repeat' split) <;> simp
@[simp] theorem deferredFlaw_engine (s : State) (slot : Nat) (x : Flaw) : (deferredFlaw slot s x).engine = s.engine := by unfold deferredFlaw; (try dsimp only); (repeat' split) <;> simp
@[simp] theorem deferredFlaw_arbiter (s : State) (slot : Nat) (x : Flaw) : (deferredFlaw slot s x).arbiter = s.arbiter := by unfold deferredFlaw; (try dsimp only); (repeat' split) <;> simp
@[simp] theorem deferredFlaw_chans (s : State) (slot : Nat) (x : Flaw) : (deferredFlaw slot s x).chans = s.chans := by unfold deferredFlaw; (try dsimp only); (repeat' split) <;> simp
@[simp] theorem deferredFlaw_profile (s : State) (slot : Nat) (x : Flaw) : (deferredFlaw slot s x).profile = s.profile := by unfold deferredFlaw; (try dsimp only); (repeat' split) <;> simp
@[simp] theorem deferredFlaw_links (s : State) (slot : Nat) (x : Flaw) : (deferredFlaw slot s x).links = s.links := by unfold deferredFlaw; (try dsimp only); (repeat' split) <;> simp
@[simp] theorem deferredFlaw_sent (s : State) (slot : Nat) (x : Flaw) : (deferredFlaw slot s x).sent = s.sent := by unfold deferredFlaw; (try dsimp only); (repeat' split) <;> simp
@[simp] theorem deferredFlaw_pending (s : State) (slot : Nat) (x : Flaw) : (deferredFlaw slot s x).pending = s.pending := by unfold deferredFlaw; (try dsimp only); (repeat' split) <;> simp

/-! ### deferredTile -/

@[simp] theorem deferredTile_library (s : State) (slot tile : Nat) : (deferredTile slot s tile).library = s.library := by simp [deferredTile]
@[simp] theorem deferredTile_engine (s : State) (slot tile : Nat) : (deferredTile slot s tile).engine = s.engine := by simp [deferredTile]
@[simp] theorem deferredTile_arbiter (s : State) (slot tile : Nat) : (deferredTile slot s tile).arbiter = s.arbiter := by simp [deferredTile]
@[simp] theorem deferredTile_chans (s : State) (slot tile : Nat) : (deferredTile slot s tile).chans = s.chans := by simp [deferredTile]
@[simp] theorem deferredTile_profile (s : State) (slot tile : Nat) : (deferredTile slot s tile).profile = s.profile := by simp [deferredTile]
@[simp] theorem deferredTile_links (s : State) (slot tile : Nat) : (deferredTile slot s tile).links = s.links := by simp [deferredTile]
@[simp] theorem deferredTile_sent (s : State) (slot tile : Nat) : (deferredTile slot s tile).sent = s.sent := by simp [deferredTile]
@[simp] theorem deferredTile_pending (s : State) (slot tile : Nat) : (deferredTile slot s tile).pending = s.pending := by simp [deferredTile]

/-! ### endPass -/

@[simp] theorem endPass_library (s : State) (slot : Nat) (h : Hide) : (endPass slot h s).library = s.library := by
  simp [endPass, foldl_keeps (deferredTile slot) State.library (fun a b => by simp),
    foldl_keeps (deferredFlaw slot) State.library (fun a b => by simp)]
@[simp] theorem endPass_arbiter (s : State) (slot : Nat) (h : Hide) : (endPass slot h s).arbiter = s.arbiter := by
  simp [endPass, foldl_keeps (deferredTile slot) State.arbiter (fun a b => by simp),
    foldl_keeps (deferredFlaw slot) State.arbiter (fun a b => by simp)]
@[simp] theorem endPass_chans (s : State) (slot : Nat) (h : Hide) : (endPass slot h s).chans = s.chans := by
  simp [endPass, foldl_keeps (deferredTile slot) State.chans (fun a b => by simp),
    foldl_keeps (deferredFlaw slot) State.chans (fun a b => by simp)]
@[simp] theorem endPass_profile (s : State) (slot : Nat) (h : Hide) : (endPass slot h s).profile = s.profile := by
  simp [endPass, foldl_keeps (deferredTile slot) State.profile (fun a b => by simp),
    foldl_keeps (deferredFlaw slot) State.profile (fun a b => by simp)]
@[simp] theorem endPass_links (s : State) (slot : Nat) (h : Hide) : (endPass slot h s).links = s.links := by
  simp [endPass, foldl_keeps (deferredTile slot) State.links (fun a b => by simp),
    foldl_keeps (deferredFlaw slot) State.links (fun a b => by simp)]
@[simp] theorem endPass_sent (s : State) (slot : Nat) (h : Hide) : (endPass slot h s).sent = s.sent := by
  simp [endPass, foldl_keeps (deferredTile slot) State.sent (fun a b => by simp),
    foldl_keeps (deferredFlaw slot) State.sent (fun a b => by simp)]
@[simp] theorem endPass_pending (s : State) (slot : Nat) (h : Hide) : (endPass slot h s).pending = s.pending := by
  simp [endPass, foldl_keeps (deferredTile slot) State.pending (fun a b => by simp),
    foldl_keeps (deferredFlaw slot) State.pending (fun a b => by simp)]

/-! ### passEndEvent -/

@[simp] theorem passEndEvent_library (s : State) : (passEndEvent s).library = s.library := by unfold passEndEvent; (try dsimp only); (repeat' split) <;> simp
@[simp] theorem passEndEvent_arbiter (s : State) : (passEndEvent s).arbiter = s.arbiter := by unfold passEndEvent; (try dsimp only); (repeat' split) <;> simp
@[simp] theorem passEndEvent_chans (s : State) : (passEndEvent s).chans = s.chans := by unfold passEndEvent; (try dsimp only); (repeat' split) <;> simp
@[simp] theorem passEndEvent_profile (s : State) : (passEndEvent s).profile = s.profile := by unfold passEndEvent; (try dsimp only); (repeat' split) <;> simp
@[simp] theorem passEndEvent_links (s : State) : (passEndEvent s).links = s.links := by unfold passEndEvent; (try dsimp only); (repeat' split) <;> simp
@[simp] theorem passEndEvent_sent (s : State) : (passEndEvent s).sent = s.sent := by unfold passEndEvent; (try dsimp only); (repeat' split) <;> simp
@[simp] theorem passEndEvent_pending (s : State) : (passEndEvent s).pending = s.pending := by unfold passEndEvent; (try dsimp only); (repeat' split) <;> simp

/-! ### passAbort -/

@[simp] theorem passAbort_library (s : State) : (passAbort s).library = s.library := by unfold passAbort; (try dsimp only); (repeat' split) <;> simp
@[simp] theorem passAbort_chans (s : State) : (passAbort s).chans = s.chans := by unfold passAbort; (try dsimp only); (repeat' split) <;> simp
@[simp] theorem passAbort_profile (s : State) : (passAbort s).profile = s.profile := by unfold passAbort; (try dsimp only); (repeat' split) <;> simp
@[simp] theorem passAbort_links (s : State) : (passAbort s).links = s.links := by unfold passAbort; (try dsimp only); (repeat' split) <;> simp
@[simp] theorem passAbort_tape (s : State) : (passAbort s).tape = s.tape := by unfold passAbort; (try dsimp only); (repeat' split) <;> simp
@[simp] theorem passAbort_sent (s : State) : (passAbort s).sent = s.sent := by unfold passAbort; (try dsimp only); (repeat' split) <;> simp
@[simp] theorem passAbort_pending (s : State) : (passAbort s).pending = s.pending := by unfold passAbort; (try dsimp only); (repeat' split) <;> simp

end Sys2Proof.Laws
end

