-- ==== Sys2Proof/Laws/Channels.lean ====
section
/-! SUPPORT. What the operations of the channels and of the Profile Store leave as it was. -/

namespace Sys2Proof.Laws

open Sys2Proof.Machine

/-! ### dropDeadline -/

@[simp] theorem dropDeadline_book (s : State) (c : Fin 4) (t : TicketRef) : (s.dropDeadline c t).book = s.book := rfl
@[simp] theorem dropDeadline_library (s : State) (c : Fin 4) (t : TicketRef) : (s.dropDeadline c t).library = s.library := rfl
@[simp] theorem dropDeadline_hides (s : State) (c : Fin 4) (t : TicketRef) : (s.dropDeadline c t).hides = s.hides := rfl
@[simp] theorem dropDeadline_grid (s : State) (c : Fin 4) (t : TicketRef) : (s.dropDeadline c t).grid = s.grid := rfl
@[simp] theorem dropDeadline_engine (s : State) (c : Fin 4) (t : TicketRef) : (s.dropDeadline c t).engine = s.engine := rfl
@[simp] theorem dropDeadline_arbiter (s : State) (c : Fin 4) (t : TicketRef) : (s.dropDeadline c t).arbiter = s.arbiter := rfl
@[simp] theorem dropDeadline_attn (s : State) (c : Fin 4) (t : TicketRef) : (s.dropDeadline c t).attn = s.attn := rfl
@[simp] theorem dropDeadline_profile (s : State) (c : Fin 4) (t : TicketRef) : (s.dropDeadline c t).profile = s.profile := rfl
@[simp] theorem dropDeadline_links (s : State) (c : Fin 4) (t : TicketRef) : (s.dropDeadline c t).links = s.links := rfl
@[simp] theorem dropDeadline_tape (s : State) (c : Fin 4) (t : TicketRef) : (s.dropDeadline c t).tape = s.tape := rfl
@[simp] theorem dropDeadline_sent (s : State) (c : Fin 4) (t : TicketRef) : (s.dropDeadline c t).sent = s.sent := rfl
@[simp] theorem dropDeadline_pending (s : State) (c : Fin 4) (t : TicketRef) : (s.dropDeadline c t).pending = s.pending := rfl

/-! ### enterService -/

@[simp] theorem enterService_book (s : State) (c : Fin 4) : (s.enterService c).book = s.book := by unfold State.enterService; (try dsimp only); (repeat' split) <;> simp
@[simp] theorem enterService_library (s : State) (c : Fin 4) : (s.enterService c).library = s.library := by unfold State.enterService; (try dsimp only); (repeat' split) <;> simp
@[simp] theorem enterService_grid (s : State) (c : Fin 4) : (s.enterService c).grid = s.grid := by unfold State.enterService; (try dsimp only); (repeat' split) <;> simp
@[simp] theorem enterService_engine (s : State) (c : Fin 4) : (s.enterService c).engine = s.engine := by unfold State.enterService; (try dsimp only); (repeat' split) <;> simp
@[simp] theorem enterService_attn (s : State) (c : Fin 4) : (s.enterService c).attn = s.attn := by unfold State.enterService; (try dsimp only); (repeat' split) <;> simp
@[simp] theorem enterService_profile (s : State) (c : Fin 4) : (s.enterService c).profile = s.profile := by unfold State.enterService; (try dsimp only); (repeat' split) <;> simp
@[simp] theorem enterService_links (s : State) (c : Fin 4) : (s.enterService c).links = s.links := by unfold State.enterService; (try dsimp only); (repeat' split) <;> simp
@[simp] theorem enterService_tape (s : State) (c : Fin 4) : (s.enterService c).tape = s.tape := by unfold State.enterService; (try dsimp only); (repeat' split) <;> simp
@[simp] theorem enterService_sent (s : State) (c : Fin 4) : (s.enterService c).sent = s.sent := by unfold State.enterService; (try dsimp only); (repeat' split) <;> simp
@[simp] theorem enterService_pending (s : State) (c : Fin 4) : (s.enterService c).pending = s.pending := by unfold State.enterService; (try dsimp only); (repeat' split) <;> simp

/-! ### returnPlacement -/

@[simp] theorem returnPlacement_book (s : State) (c : Fin 4) (slot i : Nat) : (s.returnPlacement c slot i).book = s.book := by simp [State.returnPlacement]
@[simp] theorem returnPlacement_library (s : State) (c : Fin 4) (slot i : Nat) : (s.returnPlacement c slot i).library = s.library := by simp [State.returnPlacement]
@[simp] theorem returnPlacement_grid (s : State) (c : Fin 4) (slot i : Nat) : (s.returnPlacement c slot i).grid = s.grid := by simp [State.returnPlacement]
@[simp] theorem returnPlacement_engine (s : State) (c : Fin 4) (slot i : Nat) : (s.returnPlacement c slot i).engine = s.engine := by simp [State.returnPlacement]
@[simp] theorem returnPlacement_arbiter (s : State) (c : Fin 4) (slot i : Nat) : (s.returnPlacement c slot i).arbiter = s.arbiter := by simp [State.returnPlacement]
@[simp] theorem returnPlacement_chans (s : State) (c : Fin 4) (slot i : Nat) : (s.returnPlacement c slot i).chans = s.chans := by simp [State.returnPlacement]
@[simp] theorem returnPlacement_attn (s : State) (c : Fin 4) (slot i : Nat) : (s.returnPlacement c slot i).attn = s.attn := by simp [State.returnPlacement]
@[simp] theorem returnPlacement_profile (s : State) (c : Fin 4) (slot i : Nat) : (s.returnPlacement c slot i).profile = s.profile := by simp [State.returnPlacement]
@[simp] theorem returnPlacement_links (s : State) (c : Fin 4) (slot i : Nat) : (s.returnPlacement c slot i).links = s.links := by simp [State.returnPlacement]
@[simp] theorem returnPlacement_tape (s : State) (c : Fin 4) (slot i : Nat) : (s.returnPlacement c slot i).tape = s.tape := by simp [State.returnPlacement]
@[simp] theorem returnPlacement_sent (s : State) (c : Fin 4) (slot i : Nat) : (s.returnPlacement c slot i).sent = s.sent := by simp [State.returnPlacement]
@[simp] theorem returnPlacement_pending (s : State) (c : Fin 4) (slot i : Nat) : (s.returnPlacement c slot i).pending = s.pending := by simp [State.returnPlacement]

/-! ### returnCheck -/

@[simp] theorem returnCheck_library (w : Sweep) (slot i : Nat) : ((returnCheck slot w i).s).library = w.s.library := by unfold returnCheck; (try dsimp only); (repeat' split) <;> simp
@[simp] theorem returnCheck_engine (w : Sweep) (slot i : Nat) : ((returnCheck slot w i).s).engine = w.s.engine := by unfold returnCheck; (try dsimp only); (repeat' split) <;> simp
@[simp] theorem returnCheck_arbiter (w : Sweep) (slot i : Nat) : ((returnCheck slot w i).s).arbiter = w.s.arbiter := by unfold returnCheck; (try dsimp only); (repeat' split) <;> simp
@[simp] theorem returnCheck_chans (w : Sweep) (slot i : Nat) : ((returnCheck slot w i).s).chans = w.s.chans := by unfold returnCheck; (try dsimp only); (repeat' split) <;> simp
@[simp] theorem returnCheck_profile (w : Sweep) (slot i : Nat) : ((returnCheck slot w i).s).profile = w.s.profile := by unfold returnCheck; (try dsimp only); (repeat' split) <;> simp
@[simp] theorem returnCheck_links (w : Sweep) (slot i : Nat) : ((returnCheck slot w i).s).links = w.s.links := by unfold returnCheck; (try dsimp only); (repeat' split) <;> simp
@[simp] theorem returnCheck_sent (w : Sweep) (slot i : Nat) : ((returnCheck slot w i).s).sent = w.s.sent := by unfold returnCheck; (try dsimp only); (repeat' split) <;> simp
@[simp] theorem returnCheck_pending (w : Sweep) (slot i : Nat) : ((returnCheck slot w i).s).pending = w.s.pending := by unfold returnCheck; (try dsimp only); (repeat' split) <;> simp

/-! ### returnChecks -/

@[simp] theorem returnChecks_library (s : State) (slot : Nat) (is : List Nat) : (s.returnChecks slot is).library = s.library := by
  simp [State.returnChecks, foldl_keeps (returnCheck slot) (fun w => w.s.library) (fun a b => by simp)]
@[simp] theorem returnChecks_engine (s : State) (slot : Nat) (is : List Nat) : (s.returnChecks slot is).engine = s.engine := by
  simp [State.returnChecks, foldl_keeps (returnCheck slot) (fun w => w.s.engine) (fun a b => by simp)]
@[simp] theorem returnChecks_arbiter (s : State) (slot : Nat) (is : List Nat) : (s.returnChecks slot is).arbiter = s.arbiter := by
  simp [State.returnChecks, foldl_keeps (returnCheck slot) (fun w => w.s.arbiter) (fun a b => by simp)]
@[simp] theorem returnChecks_chans (s : State) (slot : Nat) (is : List Nat) : (s.returnChecks slot is).chans = s.chans := by
  simp [State.returnChecks, foldl_keeps (returnCheck slot) (fun w => w.s.chans) (fun a b => by simp)]
@[simp] theorem returnChecks_profile (s : State) (slot : Nat) (is : List Nat) : (s.returnChecks slot is).profile = s.profile := by
  simp [State.returnChecks, foldl_keeps (returnCheck slot) (fun w => w.s.profile) (fun a b => by simp)]
@[simp] theorem returnChecks_links (s : State) (slot : Nat) (is : List Nat) : (s.returnChecks slot is).links = s.links := by
  simp [State.returnChecks, foldl_keeps (returnCheck slot) (fun w => w.s.links) (fun a b => by simp)]
@[simp] theorem returnChecks_sent (s : State) (slot : Nat) (is : List Nat) : (s.returnChecks slot is).sent = s.sent := by
  simp [State.returnChecks, foldl_keeps (returnCheck slot) (fun w => w.s.sent) (fun a b => by simp)]
@[simp] theorem returnChecks_pending (s : State) (slot : Nat) (is : List Nat) : (s.returnChecks slot is).pending = s.pending := by
  simp [State.returnChecks, foldl_keeps (returnCheck slot) (fun w => w.s.pending) (fun a b => by simp)]

/-! ### returnAll -/

@[simp] theorem returnAll_library (s : State) (c : Fin 4) (slot : Nat) : (s.returnAll c slot).library = s.library := by
  simp [State.returnAll, foldl_keeps (fun t i => State.returnPlacement c slot i t) State.library (fun a b => by simp)]
@[simp] theorem returnAll_engine (s : State) (c : Fin 4) (slot : Nat) : (s.returnAll c slot).engine = s.engine := by
  simp [State.returnAll, foldl_keeps (fun t i => State.returnPlacement c slot i t) State.engine (fun a b => by simp)]
@[simp] theorem returnAll_arbiter (s : State) (c : Fin 4) (slot : Nat) : (s.returnAll c slot).arbiter = s.arbiter := by
  simp [State.returnAll, foldl_keeps (fun t i => State.returnPlacement c slot i t) State.arbiter (fun a b => by simp)]
@[simp] theorem returnAll_chans (s : State) (c : Fin 4) (slot : Nat) : (s.returnAll c slot).chans = s.chans := by
  simp [State.returnAll, foldl_keeps (fun t i => State.returnPlacement c slot i t) State.chans (fun a b => by simp)]
@[simp] theorem returnAll_profile (s : State) (c : Fin 4) (slot : Nat) : (s.returnAll c slot).profile = s.profile := by
  simp [State.returnAll, foldl_keeps (fun t i => State.returnPlacement c slot i t) State.profile (fun a b => by simp)]
@[simp] theorem returnAll_links (s : State) (c : Fin 4) (slot : Nat) : (s.returnAll c slot).links = s.links := by
  simp [State.returnAll, foldl_keeps (fun t i => State.returnPlacement c slot i t) State.links (fun a b => by simp)]
@[simp] theorem returnAll_sent (s : State) (c : Fin 4) (slot : Nat) : (s.returnAll c slot).sent = s.sent := by
  simp [State.returnAll, foldl_keeps (fun t i => State.returnPlacement c slot i t) State.sent (fun a b => by simp)]
@[simp] theorem returnAll_pending (s : State) (c : Fin 4) (slot : Nat) : (s.returnAll c slot).pending = s.pending := by
  simp [State.returnAll, foldl_keeps (fun t i => State.returnPlacement c slot i t) State.pending (fun a b => by simp)]

/-! ### giveBack -/

@[simp] theorem giveBack_book (s : State) (slot : Nat) : (s.giveBack slot).book = s.book := by unfold State.giveBack; (try dsimp only); (repeat' split) <;> simp
@[simp] theorem giveBack_library (s : State) (slot : Nat) : (s.giveBack slot).library = s.library := by unfold State.giveBack; (try dsimp only); (repeat' split) <;> simp
@[simp] theorem giveBack_grid (s : State) (slot : Nat) : (s.giveBack slot).grid = s.grid := by unfold State.giveBack; (try dsimp only); (repeat' split) <;> simp
@[simp] theorem giveBack_engine (s : State) (slot : Nat) : (s.giveBack slot).engine = s.engine := by unfold State.giveBack; (try dsimp only); (repeat' split) <;> simp
@[simp] theorem giveBack_chans (s : State) (slot : Nat) : (s.giveBack slot).chans = s.chans := by unfold State.giveBack; (try dsimp only); (repeat' split) <;> simp
@[simp] theorem giveBack_profile (s : State) (slot : Nat) : (s.giveBack slot).profile = s.profile := by unfold State.giveBack; (try dsimp only); (repeat' split) <;> simp
@[simp] theorem giveBack_links (s : State) (slot : Nat) : (s.giveBack slot).links = s.links := by unfold State.giveBack; (try dsimp only); (repeat' split) <;> simp
@[simp] theorem giveBack_tape (s : State) (slot : Nat) : (s.giveBack slot).tape = s.tape := by unfold State.giveBack; (try dsimp only); (repeat' split) <;> simp
@[simp] theorem giveBack_sent (s : State) (slot : Nat) : (s.giveBack slot).sent = s.sent := by unfold State.giveBack; (try dsimp only); (repeat' split) <;> simp
@[simp] theorem giveBack_pending (s : State) (slot : Nat) : (s.giveBack slot).pending = s.pending := by unfold State.giveBack; (try dsimp only); (repeat' split) <;> simp

/-! ### clearWork -/

@[simp] theorem clearWork_book (s : State) (c : Fin 4) (st : ChannelState) : (s.clearWork c st).book = s.book := rfl
@[simp] theorem clearWork_library (s : State) (c : Fin 4) (st : ChannelState) : (s.clearWork c st).library = s.library := rfl
@[simp] theorem clearWork_hides (s : State) (c : Fin 4) (st : ChannelState) : (s.clearWork c st).hides = s.hides := rfl
@[simp] theorem clearWork_grid (s : State) (c : Fin 4) (st : ChannelState) : (s.clearWork c st).grid = s.grid := rfl
@[simp] theorem clearWork_engine (s : State) (c : Fin 4) (st : ChannelState) : (s.clearWork c st).engine = s.engine := rfl
@[simp] theorem clearWork_arbiter (s : State) (c : Fin 4) (st : ChannelState) : (s.clearWork c st).arbiter = s.arbiter := rfl
@[simp] theorem clearWork_attn (s : State) (c : Fin 4) (st : ChannelState) : (s.clearWork c st).attn = s.attn := rfl
@[simp] theorem clearWork_profile (s : State) (c : Fin 4) (st : ChannelState) : (s.clearWork c st).profile = s.profile := rfl
@[simp] theorem clearWork_links (s : State) (c : Fin 4) (st : ChannelState) : (s.clearWork c st).links = s.links := rfl
@[simp] theorem clearWork_tape (s : State) (c : Fin 4) (st : ChannelState) : (s.clearWork c st).tape = s.tape := rfl
@[simp] theorem clearWork_sent (s : State) (c : Fin 4) (st : ChannelState) : (s.clearWork c st).sent = s.sent := rfl
@[simp] theorem clearWork_pending (s : State) (c : Fin 4) (st : ChannelState) : (s.clearWork c st).pending = s.pending := rfl

/-! ### recordFault -/

@[simp] theorem recordFault_book (s : State) (c : Fin 4) (k : FaultCause) (n : Nat) : (s.recordFault c k n).book = s.book := rfl
@[simp] theorem recordFault_library (s : State) (c : Fin 4) (k : FaultCause) (n : Nat) : (s.recordFault c k n).library = s.library := rfl
@[simp] theorem recordFault_hides (s : State) (c : Fin 4) (k : FaultCause) (n : Nat) : (s.recordFault c k n).hides = s.hides := rfl
@[simp] theorem recordFault_grid (s : State) (c : Fin 4) (k : FaultCause) (n : Nat) : (s.recordFault c k n).grid = s.grid := rfl
@[simp] theorem recordFault_engine (s : State) (c : Fin 4) (k : FaultCause) (n : Nat) : (s.recordFault c k n).engine = s.engine := rfl
@[simp] theorem recordFault_arbiter (s : State) (c : Fin 4) (k : FaultCause) (n : Nat) : (s.recordFault c k n).arbiter = s.arbiter := rfl
@[simp] theorem recordFault_attn (s : State) (c : Fin 4) (k : FaultCause) (n : Nat) : (s.recordFault c k n).attn = s.attn := rfl
@[simp] theorem recordFault_profile (s : State) (c : Fin 4) (k : FaultCause) (n : Nat) : (s.recordFault c k n).profile = s.profile := rfl
@[simp] theorem recordFault_links (s : State) (c : Fin 4) (k : FaultCause) (n : Nat) : (s.recordFault c k n).links = s.links := rfl
@[simp] theorem recordFault_tape (s : State) (c : Fin 4) (k : FaultCause) (n : Nat) : (s.recordFault c k n).tape = s.tape := rfl
@[simp] theorem recordFault_sent (s : State) (c : Fin 4) (k : FaultCause) (n : Nat) : (s.recordFault c k n).sent = s.sent := rfl
@[simp] theorem recordFault_pending (s : State) (c : Fin 4) (k : FaultCause) (n : Nat) : (s.recordFault c k n).pending = s.pending := rfl

/-! ### letGo -/

@[simp] theorem letGo_library (s : State) (c : Fin 4) : (s.letGo c).library = s.library := by unfold State.letGo; (try dsimp only); (repeat' split) <;> simp
@[simp] theorem letGo_chans (s : State) (c : Fin 4) : (s.letGo c).chans = s.chans := by unfold State.letGo; (try dsimp only); (repeat' split) <;> simp
@[simp] theorem letGo_profile (s : State) (c : Fin 4) : (s.letGo c).profile = s.profile := by unfold State.letGo; (try dsimp only); (repeat' split) <;> simp
@[simp] theorem letGo_links (s : State) (c : Fin 4) : (s.letGo c).links = s.links := by unfold State.letGo; (try dsimp only); (repeat' split) <;> simp
@[simp] theorem letGo_sent (s : State) (c : Fin 4) : (s.letGo c).sent = s.sent := by unfold State.letGo; (try dsimp only); (repeat' split) <;> simp
@[simp] theorem letGo_pending (s : State) (c : Fin 4) : (s.letGo c).pending = s.pending := by unfold State.letGo; (try dsimp only); (repeat' split) <;> simp

/-! ### channelFault -/

@[simp] theorem channelFault_library (s : State) (c : Fin 4) (k : FaultCause) (n : Nat) : (s.channelFault c k n).library = s.library := by
  unfold State.channelFault
  dsimp only
  split <;> simp
@[simp] theorem channelFault_profile (s : State) (c : Fin 4) (k : FaultCause) (n : Nat) : (s.channelFault c k n).profile = s.profile := by
  unfold State.channelFault
  dsimp only
  split <;> simp
@[simp] theorem channelFault_links (s : State) (c : Fin 4) (k : FaultCause) (n : Nat) : (s.channelFault c k n).links = s.links := by
  unfold State.channelFault
  dsimp only
  split <;> simp
@[simp] theorem channelFault_sent (s : State) (c : Fin 4) (k : FaultCause) (n : Nat) : (s.channelFault c k n).sent = s.sent := by
  unfold State.channelFault
  dsimp only
  split <;> simp
@[simp] theorem channelFault_pending (s : State) (c : Fin 4) (k : FaultCause) (n : Nat) : (s.channelFault c k n).pending = s.pending := by
  unfold State.channelFault
  dsimp only
  split <;> simp

/-! ### cutterReset -/

@[simp] theorem cutterReset_library (s : State) (c : Fin 4) : (s.cutterReset c).library = s.library := by
  unfold State.cutterReset
  dsimp only
  split <;> simp
@[simp] theorem cutterReset_profile (s : State) (c : Fin 4) : (s.cutterReset c).profile = s.profile := by
  unfold State.cutterReset
  dsimp only
  split <;> simp
@[simp] theorem cutterReset_links (s : State) (c : Fin 4) : (s.cutterReset c).links = s.links := by
  unfold State.cutterReset
  dsimp only
  split <;> simp
@[simp] theorem cutterReset_sent (s : State) (c : Fin 4) : (s.cutterReset c).sent = s.sent := by
  unfold State.cutterReset
  dsimp only
  split <;> simp
@[simp] theorem cutterReset_pending (s : State) (c : Fin 4) : (s.cutterReset c).pending = s.pending := by
  unfold State.cutterReset
  dsimp only
  split <;> simp

/-! ### resolve -/

@[simp] theorem resolve_library (s : State) (slot i : Nat) (o : CutOutcome) (r : Nat × Nat) : (s.resolve slot i o r).library = s.library := by
  unfold State.resolve
  (repeat' split) <;> simp [State.resolveCut, State.resolveSpoiled, State.resolveSkipped]
@[simp] theorem resolve_engine (s : State) (slot i : Nat) (o : CutOutcome) (r : Nat × Nat) : (s.resolve slot i o r).engine = s.engine := by
  unfold State.resolve
  (repeat' split) <;> simp [State.resolveCut, State.resolveSpoiled, State.resolveSkipped]
@[simp] theorem resolve_arbiter (s : State) (slot i : Nat) (o : CutOutcome) (r : Nat × Nat) : (s.resolve slot i o r).arbiter = s.arbiter := by
  unfold State.resolve
  (repeat' split) <;> simp [State.resolveCut, State.resolveSpoiled, State.resolveSkipped]
@[simp] theorem resolve_chans (s : State) (slot i : Nat) (o : CutOutcome) (r : Nat × Nat) : (s.resolve slot i o r).chans = s.chans := by
  unfold State.resolve
  (repeat' split) <;> simp [State.resolveCut, State.resolveSpoiled, State.resolveSkipped]
@[simp] theorem resolve_profile (s : State) (slot i : Nat) (o : CutOutcome) (r : Nat × Nat) : (s.resolve slot i o r).profile = s.profile := by
  unfold State.resolve
  (repeat' split) <;> simp [State.resolveCut, State.resolveSpoiled, State.resolveSkipped]
@[simp] theorem resolve_links (s : State) (slot i : Nat) (o : CutOutcome) (r : Nat × Nat) : (s.resolve slot i o r).links = s.links := by
  unfold State.resolve
  (repeat' split) <;> simp [State.resolveCut, State.resolveSpoiled, State.resolveSkipped]
@[simp] theorem resolve_tape (s : State) (slot i : Nat) (o : CutOutcome) (r : Nat × Nat) : (s.resolve slot i o r).tape = s.tape := by
  unfold State.resolve
  (repeat' split) <;> simp [State.resolveCut, State.resolveSpoiled, State.resolveSkipped]
@[simp] theorem resolve_sent (s : State) (slot i : Nat) (o : CutOutcome) (r : Nat × Nat) : (s.resolve slot i o r).sent = s.sent := by
  unfold State.resolve
  (repeat' split) <;> simp [State.resolveCut, State.resolveSpoiled, State.resolveSkipped]
@[simp] theorem resolve_pending (s : State) (slot i : Nat) (o : CutOutcome) (r : Nat × Nat) : (s.resolve slot i o r).pending = s.pending := by
  unfold State.resolve
  (repeat' split) <;> simp [State.resolveCut, State.resolveSpoiled, State.resolveSkipped]

/-! ### setCount -/

@[simp] theorem setCount_book (s : State) (c : Fin 4) (n : Nat) : (s.setCount c n).book = s.book := rfl
@[simp] theorem setCount_library (s : State) (c : Fin 4) (n : Nat) : (s.setCount c n).library = s.library := rfl
@[simp] theorem setCount_hides (s : State) (c : Fin 4) (n : Nat) : (s.setCount c n).hides = s.hides := rfl
@[simp] theorem setCount_grid (s : State) (c : Fin 4) (n : Nat) : (s.setCount c n).grid = s.grid := rfl
@[simp] theorem setCount_engine (s : State) (c : Fin 4) (n : Nat) : (s.setCount c n).engine = s.engine := rfl
@[simp] theorem setCount_arbiter (s : State) (c : Fin 4) (n : Nat) : (s.setCount c n).arbiter = s.arbiter := rfl
@[simp] theorem setCount_attn (s : State) (c : Fin 4) (n : Nat) : (s.setCount c n).attn = s.attn := rfl
@[simp] theorem setCount_profile (s : State) (c : Fin 4) (n : Nat) : (s.setCount c n).profile = s.profile := rfl
@[simp] theorem setCount_links (s : State) (c : Fin 4) (n : Nat) : (s.setCount c n).links = s.links := rfl
@[simp] theorem setCount_tape (s : State) (c : Fin 4) (n : Nat) : (s.setCount c n).tape = s.tape := rfl
@[simp] theorem setCount_sent (s : State) (c : Fin 4) (n : Nat) : (s.setCount c n).sent = s.sent := rfl
@[simp] theorem setCount_pending (s : State) (c : Fin 4) (n : Nat) : (s.setCount c n).pending = s.pending := rfl

/-! ### resolveReport -/

@[simp] theorem resolveReport_library (s : State) (c : Fin 4) (t : TicketRef) (slot : Nat) (o : CutOutcome) (r : Nat × Nat) : (s.resolveReport c t slot o r).library = s.library := by simp [State.resolveReport]
@[simp] theorem resolveReport_engine (s : State) (c : Fin 4) (t : TicketRef) (slot : Nat) (o : CutOutcome) (r : Nat × Nat) : (s.resolveReport c t slot o r).engine = s.engine := by simp [State.resolveReport]
@[simp] theorem resolveReport_profile (s : State) (c : Fin 4) (t : TicketRef) (slot : Nat) (o : CutOutcome) (r : Nat × Nat) : (s.resolveReport c t slot o r).profile = s.profile := by simp [State.resolveReport]
@[simp] theorem resolveReport_links (s : State) (c : Fin 4) (t : TicketRef) (slot : Nat) (o : CutOutcome) (r : Nat × Nat) : (s.resolveReport c t slot o r).links = s.links := by simp [State.resolveReport]
@[simp] theorem resolveReport_tape (s : State) (c : Fin 4) (t : TicketRef) (slot : Nat) (o : CutOutcome) (r : Nat × Nat) : (s.resolveReport c t slot o r).tape = s.tape := by simp [State.resolveReport]
@[simp] theorem resolveReport_sent (s : State) (c : Fin 4) (t : TicketRef) (slot : Nat) (o : CutOutcome) (r : Nat × Nat) : (s.resolveReport c t slot o r).sent = s.sent := by simp [State.resolveReport]
@[simp] theorem resolveReport_pending (s : State) (c : Fin 4) (t : TicketRef) (slot : Nat) (o : CutOutcome) (r : Nat × Nat) : (s.resolveReport c t slot o r).pending = s.pending := by simp [State.resolveReport]

/-! ### sendOwn -/

@[simp] theorem sendOwn_book (s : State) (c : Fin 4) (r : OwnRequest) (f : OutFrame) : (s.sendOwn c r f).book = s.book := rfl
@[simp] theorem sendOwn_library (s : State) (c : Fin 4) (r : OwnRequest) (f : OutFrame) : (s.sendOwn c r f).library = s.library := rfl
@[simp] theorem sendOwn_hides (s : State) (c : Fin 4) (r : OwnRequest) (f : OutFrame) : (s.sendOwn c r f).hides = s.hides := rfl
@[simp] theorem sendOwn_grid (s : State) (c : Fin 4) (r : OwnRequest) (f : OutFrame) : (s.sendOwn c r f).grid = s.grid := rfl
@[simp] theorem sendOwn_engine (s : State) (c : Fin 4) (r : OwnRequest) (f : OutFrame) : (s.sendOwn c r f).engine = s.engine := rfl
@[simp] theorem sendOwn_arbiter (s : State) (c : Fin 4) (r : OwnRequest) (f : OutFrame) : (s.sendOwn c r f).arbiter = s.arbiter := rfl
@[simp] theorem sendOwn_attn (s : State) (c : Fin 4) (r : OwnRequest) (f : OutFrame) : (s.sendOwn c r f).attn = s.attn := rfl
@[simp] theorem sendOwn_profile (s : State) (c : Fin 4) (r : OwnRequest) (f : OutFrame) : (s.sendOwn c r f).profile = s.profile := rfl
@[simp] theorem sendOwn_links (s : State) (c : Fin 4) (r : OwnRequest) (f : OutFrame) : (s.sendOwn c r f).links = s.links := rfl
@[simp] theorem sendOwn_tape (s : State) (c : Fin 4) (r : OwnRequest) (f : OutFrame) : (s.sendOwn c r f).tape = s.tape := rfl
@[simp] theorem sendOwn_pending (s : State) (c : Fin 4) (r : OwnRequest) (f : OutFrame) : (s.sendOwn c r f).pending = s.pending := rfl

/-! ### endOwn -/

@[simp] theorem endOwn_book (s : State) (c : Fin 4) : (s.endOwn c).book = s.book := rfl
@[simp] theorem endOwn_library (s : State) (c : Fin 4) : (s.endOwn c).library = s.library := rfl
@[simp] theorem endOwn_hides (s : State) (c : Fin 4) : (s.endOwn c).hides = s.hides := rfl
@[simp] theorem endOwn_grid (s : State) (c : Fin 4) : (s.endOwn c).grid = s.grid := rfl
@[simp] theorem endOwn_engine (s : State) (c : Fin 4) : (s.endOwn c).engine = s.engine := rfl
@[simp] theorem endOwn_arbiter (s : State) (c : Fin 4) : (s.endOwn c).arbiter = s.arbiter := rfl
@[simp] theorem endOwn_attn (s : State) (c : Fin 4) : (s.endOwn c).attn = s.attn := rfl
@[simp] theorem endOwn_profile (s : State) (c : Fin 4) : (s.endOwn c).profile = s.profile := rfl
@[simp] theorem endOwn_links (s : State) (c : Fin 4) : (s.endOwn c).links = s.links := rfl
@[simp] theorem endOwn_tape (s : State) (c : Fin 4) : (s.endOwn c).tape = s.tape := rfl
@[simp] theorem endOwn_sent (s : State) (c : Fin 4) : (s.endOwn c).sent = s.sent := rfl
@[simp] theorem endOwn_pending (s : State) (c : Fin 4) : (s.endOwn c).pending = s.pending := rfl

/-! ### sendTicket -/

@[simp] theorem sendTicket_book (s : State) (c : Fin 4) (slot : Nat) (h : Hide) (i : Nat) (p : Placement) : (sendTicket c slot h i p s).book = s.book := by simp [sendTicket]
@[simp] theorem sendTicket_library (s : State) (c : Fin 4) (slot : Nat) (h : Hide) (i : Nat) (p : Placement) : (sendTicket c slot h i p s).library = s.library := by simp [sendTicket]
@[simp] theorem sendTicket_grid (s : State) (c : Fin 4) (slot : Nat) (h : Hide) (i : Nat) (p : Placement) : (sendTicket c slot h i p s).grid = s.grid := by simp [sendTicket]
@[simp] theorem sendTicket_engine (s : State) (c : Fin 4) (slot : Nat) (h : Hide) (i : Nat) (p : Placement) : (sendTicket c slot h i p s).engine = s.engine := by simp [sendTicket]
@[simp] theorem sendTicket_profile (s : State) (c : Fin 4) (slot : Nat) (h : Hide) (i : Nat) (p : Placement) : (sendTicket c slot h i p s).profile = s.profile := by simp [sendTicket]
@[simp] theorem sendTicket_links (s : State) (c : Fin 4) (slot : Nat) (h : Hide) (i : Nat) (p : Placement) : (sendTicket c slot h i p s).links = s.links := by simp [sendTicket]
@[simp] theorem sendTicket_tape (s : State) (c : Fin 4) (slot : Nat) (h : Hide) (i : Nat) (p : Placement) : (sendTicket c slot h i p s).tape = s.tape := by simp [sendTicket]
@[simp] theorem sendTicket_pending (s : State) (c : Fin 4) (slot : Nat) (h : Hide) (i : Nat) (p : Placement) : (sendTicket c slot h i p s).pending = s.pending := by simp [sendTicket]

/-! ### ticketSend -/

@[simp] theorem ticketSend_book (s : State) (c : Fin 4) : (ticketSend c s).book = s.book := by unfold ticketSend; (try dsimp only); (repeat' split) <;> simp
@[simp] theorem ticketSend_library (s : State) (c : Fin 4) : (ticketSend c s).library = s.library := by unfold ticketSend; (try dsimp only); (repeat' split) <;> simp
@[simp] theorem ticketSend_grid (s : State) (c : Fin 4) : (ticketSend c s).grid = s.grid := by unfold ticketSend; (try dsimp only); (repeat' split) <;> simp
@[simp] theorem ticketSend_engine (s : State) (c : Fin 4) : (ticketSend c s).engine = s.engine := by unfold ticketSend; (try dsimp only); (repeat' split) <;> simp
@[simp] theorem ticketSend_profile (s : State) (c : Fin 4) : (ticketSend c s).profile = s.profile := by unfold ticketSend; (try dsimp only); (repeat' split) <;> simp
@[simp] theorem ticketSend_links (s : State) (c : Fin 4) : (ticketSend c s).links = s.links := by unfold ticketSend; (try dsimp only); (repeat' split) <;> simp
@[simp] theorem ticketSend_tape (s : State) (c : Fin 4) : (ticketSend c s).tape = s.tape := by unfold ticketSend; (try dsimp only); (repeat' split) <;> simp
@[simp] theorem ticketSend_pending (s : State) (c : Fin 4) : (ticketSend c s).pending = s.pending := by unfold ticketSend; (try dsimp only); (repeat' split) <;> simp

/-! ### ticketRefused -/

@[simp] theorem ticketRefused_library (s : State) (c : Fin 4) (t : TicketRef) (r : Nat × Nat) : (ticketRefused c t r s).library = s.library := by unfold ticketRefused; (try dsimp only); (repeat' split) <;> simp
@[simp] theorem ticketRefused_engine (s : State) (c : Fin 4) (t : TicketRef) (r : Nat × Nat) : (ticketRefused c t r s).engine = s.engine := by unfold ticketRefused; (try dsimp only); (repeat' split) <;> simp
@[simp] theorem ticketRefused_profile (s : State) (c : Fin 4) (t : TicketRef) (r : Nat × Nat) : (ticketRefused c t r s).profile = s.profile := by unfold ticketRefused; (try dsimp only); (repeat' split) <;> simp
@[simp] theorem ticketRefused_links (s : State) (c : Fin 4) (t : TicketRef) (r : Nat × Nat) : (ticketRefused c t r s).links = s.links := by unfold ticketRefused; (try dsimp only); (repeat' split) <;> simp
@[simp] theorem ticketRefused_tape (s : State) (c : Fin 4) (t : TicketRef) (r : Nat × Nat) : (ticketRefused c t r s).tape = s.tape := by unfold ticketRefused; (try dsimp only); (repeat' split) <;> simp
@[simp] theorem ticketRefused_sent (s : State) (c : Fin 4) (t : TicketRef) (r : Nat × Nat) : (ticketRefused c t r s).sent = s.sent := by unfold ticketRefused; (try dsimp only); (repeat' split) <;> simp
@[simp] theorem ticketRefused_pending (s : State) (c : Fin 4) (t : TicketRef) (r : Nat × Nat) : (ticketRefused c t r s).pending = s.pending := by unfold ticketRefused; (try dsimp only); (repeat' split) <;> simp

/-! ### ticketAnswer -/

@[simp] theorem ticketAnswer_library (s : State) (c : Fin 4) (tag : Nat) (a : PlainAnswer) : (ticketAnswer c tag a s).library = s.library := by unfold ticketAnswer; (try dsimp only); (repeat' split) <;> simp
@[simp] theorem ticketAnswer_engine (s : State) (c : Fin 4) (tag : Nat) (a : PlainAnswer) : (ticketAnswer c tag a s).engine = s.engine := by unfold ticketAnswer; (try dsimp only); (repeat' split) <;> simp
@[simp] theorem ticketAnswer_profile (s : State) (c : Fin 4) (tag : Nat) (a : PlainAnswer) : (ticketAnswer c tag a s).profile = s.profile := by unfold ticketAnswer; (try dsimp only); (repeat' split) <;> simp
@[simp] theorem ticketAnswer_links (s : State) (c : Fin 4) (tag : Nat) (a : PlainAnswer) : (ticketAnswer c tag a s).links = s.links := by unfold ticketAnswer; (try dsimp only); (repeat' split) <;> simp
@[simp] theorem ticketAnswer_tape (s : State) (c : Fin 4) (tag : Nat) (a : PlainAnswer) : (ticketAnswer c tag a s).tape = s.tape := by unfold ticketAnswer; (try dsimp only); (repeat' split) <;> simp
@[simp] theorem ticketAnswer_sent (s : State) (c : Fin 4) (tag : Nat) (a : PlainAnswer) : (ticketAnswer c tag a s).sent = s.sent := by unfold ticketAnswer; (try dsimp only); (repeat' split) <;> simp
@[simp] theorem ticketAnswer_pending (s : State) (c : Fin 4) (tag : Nat) (a : PlainAnswer) : (ticketAnswer c tag a s).pending = s.pending := by unfold ticketAnswer; (try dsimp only); (repeat' split) <;> simp

/-! ### ticketTimeout -/

@[simp] theorem ticketTimeout_book (s : State) (c : Fin 4) : (ticketTimeout c s).book = s.book := by unfold ticketTimeout; (try dsimp only); (repeat' split) <;> simp
@[simp] theorem ticketTimeout_library (s : State) (c : Fin 4) : (ticketTimeout c s).library = s.library := by unfold ticketTimeout; (try dsimp only); (repeat' split) <;> simp
@[simp] theorem ticketTimeout_hides (s : State) (c : Fin 4) : (ticketTimeout c s).hides = s.hides := by unfold ticketTimeout; (try dsimp only); (repeat' split) <;> simp
@[simp] theorem ticketTimeout_grid (s : State) (c : Fin 4) : (ticketTimeout c s).grid = s.grid := by unfold ticketTimeout; (try dsimp only); (repeat' split) <;> simp
@[simp] theorem ticketTimeout_engine (s : State) (c : Fin 4) : (ticketTimeout c s).engine = s.engine := by unfold ticketTimeout; (try dsimp only); (repeat' split) <;> simp
@[simp] theorem ticketTimeout_arbiter (s : State) (c : Fin 4) : (ticketTimeout c s).arbiter = s.arbiter := by unfold ticketTimeout; (try dsimp only); (repeat' split) <;> simp
@[simp] theorem ticketTimeout_attn (s : State) (c : Fin 4) : (ticketTimeout c s).attn = s.attn := by unfold ticketTimeout; (try dsimp only); (repeat' split) <;> simp
@[simp] theorem ticketTimeout_profile (s : State) (c : Fin 4) : (ticketTimeout c s).profile = s.profile := by unfold ticketTimeout; (try dsimp only); (repeat' split) <;> simp
@[simp] theorem ticketTimeout_links (s : State) (c : Fin 4) : (ticketTimeout c s).links = s.links := by unfold ticketTimeout; (try dsimp only); (repeat' split) <;> simp
@[simp] theorem ticketTimeout_tape (s : State) (c : Fin 4) : (ticketTimeout c s).tape = s.tape := by unfold ticketTimeout; (try dsimp only); (repeat' split) <;> simp
@[simp] theorem ticketTimeout_sent (s : State) (c : Fin 4) : (ticketTimeout c s).sent = s.sent := by unfold ticketTimeout; (try dsimp only); (repeat' split) <;> simp
@[simp] theorem ticketTimeout_pending (s : State) (c : Fin 4) : (ticketTimeout c s).pending = s.pending := by unfold ticketTimeout; (try dsimp only); (repeat' split) <;> simp

/-! ### ticketQuerySend -/

@[simp] theorem ticketQuerySend_book (s : State) (c : Fin 4) : (ticketQuerySend c s).book = s.book := by unfold ticketQuerySend; (try dsimp only); (repeat' split) <;> simp
@[simp] theorem ticketQuerySend_library (s : State) (c : Fin 4) : (ticketQuerySend c s).library = s.library := by unfold ticketQuerySend; (try dsimp only); (repeat' split) <;> simp
@[simp] theorem ticketQuerySend_hides (s : State) (c : Fin 4) : (ticketQuerySend c s).hides = s.hides := by unfold ticketQuerySend; (try dsimp only); (repeat' split) <;> simp
@[simp] theorem ticketQuerySend_grid (s : State) (c : Fin 4) : (ticketQuerySend c s).grid = s.grid := by unfold ticketQuerySend; (try dsimp only); (repeat' split) <;> simp
@[simp] theorem ticketQuerySend_engine (s : State) (c : Fin 4) : (ticketQuerySend c s).engine = s.engine := by unfold ticketQuerySend; (try dsimp only); (repeat' split) <;> simp
@[simp] theorem ticketQuerySend_arbiter (s : State) (c : Fin 4) : (ticketQuerySend c s).arbiter = s.arbiter := by unfold ticketQuerySend; (try dsimp only); (repeat' split) <;> simp
@[simp] theorem ticketQuerySend_attn (s : State) (c : Fin 4) : (ticketQuerySend c s).attn = s.attn := by unfold ticketQuerySend; (try dsimp only); (repeat' split) <;> simp
@[simp] theorem ticketQuerySend_profile (s : State) (c : Fin 4) : (ticketQuerySend c s).profile = s.profile := by unfold ticketQuerySend; (try dsimp only); (repeat' split) <;> simp
@[simp] theorem ticketQuerySend_links (s : State) (c : Fin 4) : (ticketQuerySend c s).links = s.links := by unfold ticketQuerySend; (try dsimp only); (repeat' split) <;> simp
@[simp] theorem ticketQuerySend_tape (s : State) (c : Fin 4) : (ticketQuerySend c s).tape = s.tape := by unfold ticketQuerySend; (try dsimp only); (repeat' split) <;> simp
@[simp] theorem ticketQuerySend_pending (s : State) (c : Fin 4) : (ticketQuerySend c s).pending = s.pending := by unfold ticketQuerySend; (try dsimp only); (repeat' split) <;> simp

/-! ### compareLimit -/

@[simp] theorem compareLimit_library (s : State) (c : Fin 4) (n : Nat) : (compareLimit c n s).library = s.library := by unfold compareLimit; (try dsimp only); (repeat' split) <;> simp
@[simp] theorem compareLimit_profile (s : State) (c : Fin 4) (n : Nat) : (compareLimit c n s).profile = s.profile := by unfold compareLimit; (try dsimp only); (repeat' split) <;> simp
@[simp] theorem compareLimit_links (s : State) (c : Fin 4) (n : Nat) : (compareLimit c n s).links = s.links := by unfold compareLimit; (try dsimp only); (repeat' split) <;> simp
@[simp] theorem compareLimit_sent (s : State) (c : Fin 4) (n : Nat) : (compareLimit c n s).sent = s.sent := by unfold compareLimit; (try dsimp only); (repeat' split) <;> simp
@[simp] theorem compareLimit_pending (s : State) (c : Fin 4) (n : Nat) : (compareLimit c n s).pending = s.pending := by unfold compareLimit; (try dsimp only); (repeat' split) <;> simp

/-! ### stillOut -/

@[simp] theorem stillOut_library (s : State) (c : Fin 4) (t : TicketRef) : (stillOut c t s).library = s.library := by unfold stillOut; (try dsimp only); (repeat' split) <;> simp
@[simp] theorem stillOut_profile (s : State) (c : Fin 4) (t : TicketRef) : (stillOut c t s).profile = s.profile := by unfold stillOut; (try dsimp only); (repeat' split) <;> simp
@[simp] theorem stillOut_links (s : State) (c : Fin 4) (t : TicketRef) : (stillOut c t s).links = s.links := by unfold stillOut; (try dsimp only); (repeat' split) <;> simp
@[simp] theorem stillOut_sent (s : State) (c : Fin 4) (t : TicketRef) : (stillOut c t s).sent = s.sent := by unfold stillOut; (try dsimp only); (repeat' split) <;> simp
@[simp] theorem stillOut_pending (s : State) (c : Fin 4) (t : TicketRef) : (stillOut c t s).pending = s.pending := by unfold stillOut; (try dsimp only); (repeat' split) <;> simp

/-! ### unknownTicket -/

@[simp] theorem unknownTicket_library (s : State) (c : Fin 4) (t : TicketRef) : (unknownTicket c t s).library = s.library := by unfold unknownTicket; (try dsimp only); (repeat' split) <;> simp
@[simp] theorem unknownTicket_profile (s : State) (c : Fin 4) (t : TicketRef) : (unknownTicket c t s).profile = s.profile := by unfold unknownTicket; (try dsimp only); (repeat' split) <;> simp
@[simp] theorem unknownTicket_links (s : State) (c : Fin 4) (t : TicketRef) : (unknownTicket c t s).links = s.links := by unfold unknownTicket; (try dsimp only); (repeat' split) <;> simp
@[simp] theorem unknownTicket_sent (s : State) (c : Fin 4) (t : TicketRef) : (unknownTicket c t s).sent = s.sent := by unfold unknownTicket; (try dsimp only); (repeat' split) <;> simp
@[simp] theorem unknownTicket_pending (s : State) (c : Fin 4) (t : TicketRef) : (unknownTicket c t s).pending = s.pending := by unfold unknownTicket; (try dsimp only); (repeat' split) <;> simp

/-! ### finishedTicket -/

@[simp] theorem finishedTicket_library (s : State) (c : Fin 4) (t : TicketRef) (o : CutOutcome) (r : Nat × Nat) : (finishedTicket c t o r s).library = s.library := by unfold finishedTicket; (try dsimp only); (repeat' split) <;> simp
@[simp] theorem finishedTicket_engine (s : State) (c : Fin 4) (t : TicketRef) (o : CutOutcome) (r : Nat × Nat) : (finishedTicket c t o r s).engine = s.engine := by unfold finishedTicket; (try dsimp only); (repeat' split) <;> simp
@[simp] theorem finishedTicket_profile (s : State) (c : Fin 4) (t : TicketRef) (o : CutOutcome) (r : Nat × Nat) : (finishedTicket c t o r s).profile = s.profile := by unfold finishedTicket; (try dsimp only); (repeat' split) <;> simp
@[simp] theorem finishedTicket_links (s : State) (c : Fin 4) (t : TicketRef) (o : CutOutcome) (r : Nat × Nat) : (finishedTicket c t o r s).links = s.links := by unfold finishedTicket; (try dsimp only); (repeat' split) <;> simp
@[simp] theorem finishedTicket_tape (s : State) (c : Fin 4) (t : TicketRef) (o : CutOutcome) (r : Nat × Nat) : (finishedTicket c t o r s).tape = s.tape := by unfold finishedTicket; (try dsimp only); (repeat' split) <;> simp
@[simp] theorem finishedTicket_sent (s : State) (c : Fin 4) (t : TicketRef) (o : CutOutcome) (r : Nat × Nat) : (finishedTicket c t o r s).sent = s.sent := by unfold finishedTicket; (try dsimp only); (repeat' split) <;> simp
@[simp] theorem finishedTicket_pending (s : State) (c : Fin 4) (t : TicketRef) (o : CutOutcome) (r : Nat × Nat) : (finishedTicket c t o r s).pending = s.pending := by unfold finishedTicket; (try dsimp only); (repeat' split) <;> simp

/-! ### queryAnswer -/

@[simp] theorem queryAnswer_library (s : State) (c : Fin 4) (tag : Nat) (a : QueryReply) : (queryAnswer c tag a s).library = s.library := by unfold queryAnswer; (try dsimp only); (repeat' split) <;> simp
@[simp] theorem queryAnswer_profile (s : State) (c : Fin 4) (tag : Nat) (a : QueryReply) : (queryAnswer c tag a s).profile = s.profile := by unfold queryAnswer; (try dsimp only); (repeat' split) <;> simp
@[simp] theorem queryAnswer_links (s : State) (c : Fin 4) (tag : Nat) (a : QueryReply) : (queryAnswer c tag a s).links = s.links := by unfold queryAnswer; (try dsimp only); (repeat' split) <;> simp
@[simp] theorem queryAnswer_sent (s : State) (c : Fin 4) (tag : Nat) (a : QueryReply) : (queryAnswer c tag a s).sent = s.sent := by unfold queryAnswer; (try dsimp only); (repeat' split) <;> simp
@[simp] theorem queryAnswer_pending (s : State) (c : Fin 4) (tag : Nat) (a : QueryReply) : (queryAnswer c tag a s).pending = s.pending := by unfold queryAnswer; (try dsimp only); (repeat' split) <;> simp

/-! ### queryTimeout -/

@[simp] theorem queryTimeout_library (s : State) (c : Fin 4) : (queryTimeout c s).library = s.library := by unfold queryTimeout; (try dsimp only); (repeat' split) <;> simp
@[simp] theorem queryTimeout_profile (s : State) (c : Fin 4) : (queryTimeout c s).profile = s.profile := by unfold queryTimeout; (try dsimp only); (repeat' split) <;> simp
@[simp] theorem queryTimeout_links (s : State) (c : Fin 4) : (queryTimeout c s).links = s.links := by unfold queryTimeout; (try dsimp only); (repeat' split) <;> simp
@[simp] theorem queryTimeout_sent (s : State) (c : Fin 4) : (queryTimeout c s).sent = s.sent := by unfold queryTimeout; (try dsimp only); (repeat' split) <;> simp
@[simp] theorem queryTimeout_pending (s : State) (c : Fin 4) : (queryTimeout c s).pending = s.pending := by unfold queryTimeout; (try dsimp only); (repeat' split) <;> simp

/-! ### abortSend -/

@[simp] theorem abortSend_book (s : State) (c : Fin 4) : (abortSend c s).book = s.book := by unfold abortSend; (try dsimp only); (repeat' split) <;> simp
@[simp] theorem abortSend_library (s : State) (c : Fin 4) : (abortSend c s).library = s.library := by unfold abortSend; (try dsimp only); (repeat' split) <;> simp
@[simp] theorem abortSend_hides (s : State) (c : Fin 4) : (abortSend c s).hides = s.hides := by unfold abortSend; (try dsimp only); (repeat' split) <;> simp
@[simp] theorem abortSend_grid (s : State) (c : Fin 4) : (abortSend c s).grid = s.grid := by unfold abortSend; (try dsimp only); (repeat' split) <;> simp
@[simp] theorem abortSend_engine (s : State) (c : Fin 4) : (abortSend c s).engine = s.engine := by unfold abortSend; (try dsimp only); (repeat' split) <;> simp
@[simp] theorem abortSend_arbiter (s : State) (c : Fin 4) : (abortSend c s).arbiter = s.arbiter := by unfold abortSend; (try dsimp only); (repeat' split) <;> simp
@[simp] theorem abortSend_attn (s : State) (c : Fin 4) : (abortSend c s).attn = s.attn := by unfold abortSend; (try dsimp only); (repeat' split) <;> simp
@[simp] theorem abortSend_profile (s : State) (c : Fin 4) : (abortSend c s).profile = s.profile := by unfold abortSend; (try dsimp only); (repeat' split) <;> simp
@[simp] theorem abortSend_links (s : State) (c : Fin 4) : (abortSend c s).links = s.links := by unfold abortSend; (try dsimp only); (repeat' split) <;> simp
@[simp] theorem abortSend_tape (s : State) (c : Fin 4) : (abortSend c s).tape = s.tape := by unfold abortSend; (try dsimp only); (repeat' split) <;> simp
@[simp] theorem abortSend_pending (s : State) (c : Fin 4) : (abortSend c s).pending = s.pending := by unfold abortSend; (try dsimp only); (repeat' split) <;> simp

/-! ### endAbort -/

@[simp] theorem endAbort_library (s : State) (c : Fin 4) : (endAbort c s).library = s.library := by unfold endAbort; (try dsimp only); (repeat' split) <;> simp
@[simp] theorem endAbort_profile (s : State) (c : Fin 4) : (endAbort c s).profile = s.profile := by unfold endAbort; (try dsimp only); (repeat' split) <;> simp
@[simp] theorem endAbort_links (s : State) (c : Fin 4) : (endAbort c s).links = s.links := by unfold endAbort; (try dsimp only); (repeat' split) <;> simp
@[simp] theorem endAbort_tape (s : State) (c : Fin 4) : (endAbort c s).tape = s.tape := by unfold endAbort; (try dsimp only); (repeat' split) <;> simp
@[simp] theorem endAbort_sent (s : State) (c : Fin 4) : (endAbort c s).sent = s.sent := by unfold endAbort; (try dsimp only); (repeat' split) <;> simp
@[simp] theorem endAbort_pending (s : State) (c : Fin 4) : (endAbort c s).pending = s.pending := by unfold endAbort; (try dsimp only); (repeat' split) <;> simp

/-! ### abortAnswer -/

@[simp] theorem abortAnswer_library (s : State) (c : Fin 4) (tag : Nat) : (abortAnswer c tag s).library = s.library := by unfold abortAnswer; (try dsimp only); (repeat' split) <;> simp
@[simp] theorem abortAnswer_profile (s : State) (c : Fin 4) (tag : Nat) : (abortAnswer c tag s).profile = s.profile := by unfold abortAnswer; (try dsimp only); (repeat' split) <;> simp
@[simp] theorem abortAnswer_links (s : State) (c : Fin 4) (tag : Nat) : (abortAnswer c tag s).links = s.links := by unfold abortAnswer; (try dsimp only); (repeat' split) <;> simp
@[simp] theorem abortAnswer_tape (s : State) (c : Fin 4) (tag : Nat) : (abortAnswer c tag s).tape = s.tape := by unfold abortAnswer; (try dsimp only); (repeat' split) <;> simp
@[simp] theorem abortAnswer_sent (s : State) (c : Fin 4) (tag : Nat) : (abortAnswer c tag s).sent = s.sent := by unfold abortAnswer; (try dsimp only); (repeat' split) <;> simp
@[simp] theorem abortAnswer_pending (s : State) (c : Fin 4) (tag : Nat) : (abortAnswer c tag s).pending = s.pending := by unfold abortAnswer; (try dsimp only); (repeat' split) <;> simp

/-! ### abortTimeout -/

@[simp] theorem abortTimeout_library (s : State) (c : Fin 4) : (abortTimeout c s).library = s.library := by unfold abortTimeout; (try dsimp only); (repeat' split) <;> simp
@[simp] theorem abortTimeout_profile (s : State) (c : Fin 4) : (abortTimeout c s).profile = s.profile := by unfold abortTimeout; (try dsimp only); (repeat' split) <;> simp
@[simp] theorem abortTimeout_links (s : State) (c : Fin 4) : (abortTimeout c s).links = s.links := by unfold abortTimeout; (try dsimp only); (repeat' split) <;> simp
@[simp] theorem abortTimeout_tape (s : State) (c : Fin 4) : (abortTimeout c s).tape = s.tape := by unfold abortTimeout; (try dsimp only); (repeat' split) <;> simp
@[simp] theorem abortTimeout_sent (s : State) (c : Fin 4) : (abortTimeout c s).sent = s.sent := by unfold abortTimeout; (try dsimp only); (repeat' split) <;> simp
@[simp] theorem abortTimeout_pending (s : State) (c : Fin 4) : (abortTimeout c s).pending = s.pending := by unfold abortTimeout; (try dsimp only); (repeat' split) <;> simp

/-! ### putInForce -/

@[simp] theorem putInForce_book (s : State) (g : Settings) : (putInForce g s).book = s.book := by
  unfold putInForce
  dsimp only
  (repeat' split) <;> simp
@[simp] theorem putInForce_library (s : State) (g : Settings) : (putInForce g s).library = s.library := by
  unfold putInForce
  dsimp only
  (repeat' split) <;> simp
@[simp] theorem putInForce_engine (s : State) (g : Settings) : (putInForce g s).engine = s.engine := by
  unfold putInForce
  dsimp only
  (repeat' split) <;> simp
@[simp] theorem putInForce_links (s : State) (g : Settings) : (putInForce g s).links = s.links := by
  unfold putInForce
  dsimp only
  (repeat' split) <;> simp
@[simp] theorem putInForce_tape (s : State) (g : Settings) : (putInForce g s).tape = s.tape := by
  unfold putInForce
  dsimp only
  (repeat' split) <;> simp
@[simp] theorem putInForce_sent (s : State) (g : Settings) : (putInForce g s).sent = s.sent := by
  unfold putInForce
  dsimp only
  (repeat' split) <;> simp
@[simp] theorem putInForce_pending (s : State) (g : Settings) : (putInForce g s).pending = s.pending := by
  unfold putInForce
  dsimp only
  (repeat' split) <;> simp

/-! ### setBusy -/

@[simp] theorem setBusy_book (s : State) (b : Busy) : (setBusy b s).book = s.book := rfl
@[simp] theorem setBusy_library (s : State) (b : Busy) : (setBusy b s).library = s.library := rfl
@[simp] theorem setBusy_hides (s : State) (b : Busy) : (setBusy b s).hides = s.hides := rfl
@[simp] theorem setBusy_grid (s : State) (b : Busy) : (setBusy b s).grid = s.grid := rfl
@[simp] theorem setBusy_engine (s : State) (b : Busy) : (setBusy b s).engine = s.engine := rfl
@[simp] theorem setBusy_arbiter (s : State) (b : Busy) : (setBusy b s).arbiter = s.arbiter := rfl
@[simp] theorem setBusy_chans (s : State) (b : Busy) : (setBusy b s).chans = s.chans := rfl
@[simp] theorem setBusy_attn (s : State) (b : Busy) : (setBusy b s).attn = s.attn := rfl
@[simp] theorem setBusy_links (s : State) (b : Busy) : (setBusy b s).links = s.links := rfl
@[simp] theorem setBusy_tape (s : State) (b : Busy) : (setBusy b s).tape = s.tape := rfl
@[simp] theorem setBusy_sent (s : State) (b : Busy) : (setBusy b s).sent = s.sent := rfl
@[simp] theorem setBusy_pending (s : State) (b : Busy) : (setBusy b s).pending = s.pending := rfl

/-! ### saveCompletion -/

@[simp] theorem saveCompletion_book (s : State) (p : Bool) : (saveCompletion p s).book = s.book := by unfold saveCompletion; (try dsimp only); (repeat' split) <;> simp
@[simp] theorem saveCompletion_library (s : State) (p : Bool) : (saveCompletion p s).library = s.library := by unfold saveCompletion; (try dsimp only); (repeat' split) <;> simp
@[simp] theorem saveCompletion_hides (s : State) (p : Bool) : (saveCompletion p s).hides = s.hides := by unfold saveCompletion; (try dsimp only); (repeat' split) <;> simp
@[simp] theorem saveCompletion_grid (s : State) (p : Bool) : (saveCompletion p s).grid = s.grid := by unfold saveCompletion; (try dsimp only); (repeat' split) <;> simp
@[simp] theorem saveCompletion_engine (s : State) (p : Bool) : (saveCompletion p s).engine = s.engine := by unfold saveCompletion; (try dsimp only); (repeat' split) <;> simp
@[simp] theorem saveCompletion_arbiter (s : State) (p : Bool) : (saveCompletion p s).arbiter = s.arbiter := by unfold saveCompletion; (try dsimp only); (repeat' split) <;> simp
@[simp] theorem saveCompletion_chans (s : State) (p : Bool) : (saveCompletion p s).chans = s.chans := by unfold saveCompletion; (try dsimp only); (repeat' split) <;> simp
@[simp] theorem saveCompletion_links (s : State) (p : Bool) : (saveCompletion p s).links = s.links := by unfold saveCompletion; (try dsimp only); (repeat' split) <;> simp
@[simp] theorem saveCompletion_tape (s : State) (p : Bool) : (saveCompletion p s).tape = s.tape := by unfold saveCompletion; (try dsimp only); (repeat' split) <;> simp
@[simp] theorem saveCompletion_sent (s : State) (p : Bool) : (saveCompletion p s).sent = s.sent := by unfold saveCompletion; (try dsimp only); (repeat' split) <;> simp
@[simp] theorem saveCompletion_pending (s : State) (p : Bool) : (saveCompletion p s).pending = s.pending := by unfold saveCompletion; (try dsimp only); (repeat' split) <;> simp

/-! ### switchRate -/

@[simp] theorem switchRate_book (s : State) : (switchRate s).book = s.book := by unfold switchRate; (try dsimp only); (repeat' split) <;> simp
@[simp] theorem switchRate_library (s : State) : (switchRate s).library = s.library := by unfold switchRate; (try dsimp only); (repeat' split) <;> simp
@[simp] theorem switchRate_hides (s : State) : (switchRate s).hides = s.hides := by unfold switchRate; (try dsimp only); (repeat' split) <;> simp
@[simp] theorem switchRate_grid (s : State) : (switchRate s).grid = s.grid := by unfold switchRate; (try dsimp only); (repeat' split) <;> simp
@[simp] theorem switchRate_engine (s : State) : (switchRate s).engine = s.engine := by unfold switchRate; (try dsimp only); (repeat' split) <;> simp
@[simp] theorem switchRate_arbiter (s : State) : (switchRate s).arbiter = s.arbiter := by unfold switchRate; (try dsimp only); (repeat' split) <;> simp
@[simp] theorem switchRate_chans (s : State) : (switchRate s).chans = s.chans := by unfold switchRate; (try dsimp only); (repeat' split) <;> simp
@[simp] theorem switchRate_attn (s : State) : (switchRate s).attn = s.attn := by unfold switchRate; (try dsimp only); (repeat' split) <;> simp
@[simp] theorem switchRate_profile (s : State) : (switchRate s).profile = s.profile := by unfold switchRate; (try dsimp only); (repeat' split) <;> simp
@[simp] theorem switchRate_tape (s : State) : (switchRate s).tape = s.tape := by unfold switchRate; (try dsimp only); (repeat' split) <;> simp
@[simp] theorem switchRate_sent (s : State) : (switchRate s).sent = s.sent := by unfold switchRate; (try dsimp only); (repeat' split) <;> simp
@[simp] theorem switchRate_pending (s : State) : (switchRate s).pending = s.pending := by unfold switchRate; (try dsimp only); (repeat' split) <;> simp

/-! ### loadRate -/

@[simp] theorem loadRate_book (s : State) : (loadRate s).book = s.book := by unfold loadRate; (repeat' split) <;> simp
@[simp] theorem loadRate_library (s : State) : (loadRate s).library = s.library := by unfold loadRate; (repeat' split) <;> simp
@[simp] theorem loadRate_hides (s : State) : (loadRate s).hides = s.hides := by unfold loadRate; (repeat' split) <;> simp
@[simp] theorem loadRate_grid (s : State) : (loadRate s).grid = s.grid := by unfold loadRate; (repeat' split) <;> simp
@[simp] theorem loadRate_engine (s : State) : (loadRate s).engine = s.engine := by unfold loadRate; (repeat' split) <;> simp
@[simp] theorem loadRate_arbiter (s : State) : (loadRate s).arbiter = s.arbiter := by unfold loadRate; (repeat' split) <;> simp
@[simp] theorem loadRate_chans (s : State) : (loadRate s).chans = s.chans := by unfold loadRate; (repeat' split) <;> simp
@[simp] theorem loadRate_attn (s : State) : (loadRate s).attn = s.attn := by unfold loadRate; (repeat' split) <;> simp
@[simp] theorem loadRate_profile (s : State) : (loadRate s).profile = s.profile := by unfold loadRate; (repeat' split) <;> simp
@[simp] theorem loadRate_tape (s : State) : (loadRate s).tape = s.tape := by unfold loadRate; (repeat' split) <;> simp
@[simp] theorem loadRate_sent (s : State) : (loadRate s).sent = s.sent := by unfold loadRate; (repeat' split) <;> simp
@[simp] theorem loadRate_pending (s : State) : (loadRate s).pending = s.pending := by unfold loadRate; (repeat' split) <;> simp

/-! ### loadCompletion -/

@[simp] theorem loadCompletion_book (s : State) : (loadCompletion s).book = s.book := by unfold loadCompletion; (try dsimp only); (repeat' split) <;> simp
@[simp] theorem loadCompletion_library (s : State) : (loadCompletion s).library = s.library := by unfold loadCompletion; (try dsimp only); (repeat' split) <;> simp
@[simp] theorem loadCompletion_engine (s : State) : (loadCompletion s).engine = s.engine := by unfold loadCompletion; (try dsimp only); (repeat' split) <;> simp
@[simp] theorem loadCompletion_tape (s : State) : (loadCompletion s).tape = s.tape := by unfold loadCompletion; (try dsimp only); (repeat' split) <;> simp
@[simp] theorem loadCompletion_sent (s : State) : (loadCompletion s).sent = s.sent := by unfold loadCompletion; (try dsimp only); (repeat' split) <;> simp
@[simp] theorem loadCompletion_pending (s : State) : (loadCompletion s).pending = s.pending := by unfold loadCompletion; (try dsimp only); (repeat' split) <;> simp

/-! ### sendBehind -/

/-- The replies that were due behind another are sent in their order, and nothing else changes. -/
theorem sendBehind_eq (l : Link) (due : List (Nat × Reply)) (s : State) :
    sendBehind l due s = { s with sent := (due.map fun d => ⟨l, d.1, .reply d.2⟩).reverse ++ s.sent } := by
  unfold sendBehind
  induction due generalizing s with
  | nil => rfl
  | cons d t ih => rw [List.foldl_cons, ih]; simp [State.send]

/-! ### sendReply -/

@[simp] theorem sendReply_book (s : State) (l : Link) (now : InHand → Bool) : (sendReply l now s).book = s.book := by unfold sendReply; (repeat' split) <;> simp [sendBehind_eq]
@[simp] theorem sendReply_library (s : State) (l : Link) (now : InHand → Bool) : (sendReply l now s).library = s.library := by unfold sendReply; (repeat' split) <;> simp [sendBehind_eq]
@[simp] theorem sendReply_hides (s : State) (l : Link) (now : InHand → Bool) : (sendReply l now s).hides = s.hides := by unfold sendReply; (repeat' split) <;> simp [sendBehind_eq]
@[simp] theorem sendReply_grid (s : State) (l : Link) (now : InHand → Bool) : (sendReply l now s).grid = s.grid := by unfold sendReply; (repeat' split) <;> simp [sendBehind_eq]
@[simp] theorem sendReply_engine (s : State) (l : Link) (now : InHand → Bool) : (sendReply l now s).engine = s.engine := by unfold sendReply; (repeat' split) <;> simp [sendBehind_eq]
@[simp] theorem sendReply_arbiter (s : State) (l : Link) (now : InHand → Bool) : (sendReply l now s).arbiter = s.arbiter := by unfold sendReply; (repeat' split) <;> simp [sendBehind_eq]
@[simp] theorem sendReply_chans (s : State) (l : Link) (now : InHand → Bool) : (sendReply l now s).chans = s.chans := by unfold sendReply; (repeat' split) <;> simp [sendBehind_eq]
@[simp] theorem sendReply_profile (s : State) (l : Link) (now : InHand → Bool) : (sendReply l now s).profile = s.profile := by unfold sendReply; (repeat' split) <;> simp [sendBehind_eq]
@[simp] theorem sendReply_tape (s : State) (l : Link) (now : InHand → Bool) : (sendReply l now s).tape = s.tape := by unfold sendReply; (repeat' split) <;> simp [sendBehind_eq]
@[simp] theorem sendReply_pending (s : State) (l : Link) (now : InHand → Bool) : (sendReply l now s).pending = s.pending := by unfold sendReply; (repeat' split) <;> simp [sendBehind_eq]

/-! ### controlRateChange -/

@[simp] theorem controlRateChange_book (s : State) : (controlRateChange s).book = s.book := by unfold controlRateChange; (try dsimp only); (repeat' split) <;> simp
@[simp] theorem controlRateChange_library (s : State) : (controlRateChange s).library = s.library := by unfold controlRateChange; (try dsimp only); (repeat' split) <;> simp
@[simp] theorem controlRateChange_hides (s : State) : (controlRateChange s).hides = s.hides := by unfold controlRateChange; (try dsimp only); (repeat' split) <;> simp
@[simp] theorem controlRateChange_grid (s : State) : (controlRateChange s).grid = s.grid := by unfold controlRateChange; (try dsimp only); (repeat' split) <;> simp
@[simp] theorem controlRateChange_engine (s : State) : (controlRateChange s).engine = s.engine := by unfold controlRateChange; (try dsimp only); (repeat' split) <;> simp
@[simp] theorem controlRateChange_arbiter (s : State) : (controlRateChange s).arbiter = s.arbiter := by unfold controlRateChange; (try dsimp only); (repeat' split) <;> simp
@[simp] theorem controlRateChange_chans (s : State) : (controlRateChange s).chans = s.chans := by unfold controlRateChange; (try dsimp only); (repeat' split) <;> simp
@[simp] theorem controlRateChange_profile (s : State) : (controlRateChange s).profile = s.profile := by unfold controlRateChange; (try dsimp only); (repeat' split) <;> simp
@[simp] theorem controlRateChange_tape (s : State) : (controlRateChange s).tape = s.tape := by unfold controlRateChange; (try dsimp only); (repeat' split) <;> simp
@[simp] theorem controlRateChange_pending (s : State) : (controlRateChange s).pending = s.pending := by unfold controlRateChange; (try dsimp only); (repeat' split) <;> simp

/-! ### idle -/

@[simp] theorem idle_book (s : State) : (idle s).book = s.book := by unfold idle; split <;> simp [links]
@[simp] theorem idle_library (s : State) : (idle s).library = s.library := by unfold idle; split <;> simp [links]
@[simp] theorem idle_hides (s : State) : (idle s).hides = s.hides := by unfold idle; split <;> simp [links]
@[simp] theorem idle_grid (s : State) : (idle s).grid = s.grid := by unfold idle; split <;> simp [links]
@[simp] theorem idle_engine (s : State) : (idle s).engine = s.engine := by unfold idle; split <;> simp [links]
@[simp] theorem idle_arbiter (s : State) : (idle s).arbiter = s.arbiter := by unfold idle; split <;> simp [links]
@[simp] theorem idle_chans (s : State) : (idle s).chans = s.chans := by unfold idle; split <;> simp [links]
@[simp] theorem idle_profile (s : State) : (idle s).profile = s.profile := by unfold idle; split <;> simp [links]
@[simp] theorem idle_tape (s : State) : (idle s).tape = s.tape := by unfold idle; split <;> simp [links]
@[simp] theorem idle_pending (s : State) : (idle s).pending = s.pending := by unfold idle; split <;> simp [links]

end Sys2Proof.Laws
end

