-- ==== Sys2Proof/Laws/Bodies.lean ====
section
/-! SUPPORT. What each request leaves as it was, whether it is accepted or refused. -/

namespace Sys2Proof.Laws

open Sys2Proof.Machine

/-! ### Checks -/

/-- A refusal by a check keeps what the request's work keeps. -/
theorem checked_keeps {γ : Type} {s : State} {checks : List Check} {go : State × Reply} (p : State → γ)
    (h : p go.1 = p s) : p (checked s checks go).1 = p s := by
  unfold checked
  split
  · rfl
  · exact h

/-- The same of the checks of a hide. -/
theorem onHide_keeps {γ : Type} {s : State} {slot : Nat} {taken busy : List HideState} {go : Hide → State × Reply}
    (p : State → γ) (h : ∀ g, p (go g).1 = p s) : p (onHide s slot taken busy go).1 = p s := by
  unfold onHide
  (repeat' split) <;> first | rfl | exact h _

/-- The same of the check of a channel. -/
theorem onChannel_keeps {γ : Type} {s : State} {k : Nat} {go : Fin 4 → State × Reply} (p : State → γ)
    (h : ∀ c, p (go c).1 = p s) : p (onChannel s k go).1 = p s := by
  unfold onChannel
  split
  · exact h _
  · rfl

/-- The same of the work on a line and its mirror. -/
theorem onPair_keeps {γ : Type} {s : State} {id : Nat} {l : Line} {g : Nat → State → State} (p : State → γ)
    (h : ∀ k t, p (g k t) = p t) : p (s.onPair id l g) = p s := by
  unfold State.onPair
  split
  · exact h _ _
  · rw [h, h]

/-! ### reserveBoth and the clearing of listed events -/

theorem reserveBoth_library {s t : State} {a b : Nat} (h : reserveBoth a b s = some t) : t.library = s.library := by
  unfold reserveBoth at h
  obtain ⟨u, hu, hv⟩ := Option.bind_eq_some_iff.1 h
  rw [claimReserve_library hv, claimReserve_library hu]
theorem reserveBoth_hides {s t : State} {a b : Nat} (h : reserveBoth a b s = some t) : t.hides = s.hides := by
  unfold reserveBoth at h
  obtain ⟨u, hu, hv⟩ := Option.bind_eq_some_iff.1 h
  rw [claimReserve_hides hv, claimReserve_hides hu]
theorem reserveBoth_grid {s t : State} {a b : Nat} (h : reserveBoth a b s = some t) : t.grid = s.grid := by
  unfold reserveBoth at h
  obtain ⟨u, hu, hv⟩ := Option.bind_eq_some_iff.1 h
  rw [claimReserve_grid hv, claimReserve_grid hu]
theorem reserveBoth_engine {s t : State} {a b : Nat} (h : reserveBoth a b s = some t) : t.engine = s.engine := by
  unfold reserveBoth at h
  obtain ⟨u, hu, hv⟩ := Option.bind_eq_some_iff.1 h
  rw [claimReserve_engine hv, claimReserve_engine hu]
theorem reserveBoth_arbiter {s t : State} {a b : Nat} (h : reserveBoth a b s = some t) : t.arbiter = s.arbiter := by
  unfold reserveBoth at h
  obtain ⟨u, hu, hv⟩ := Option.bind_eq_some_iff.1 h
  rw [claimReserve_arbiter hv, claimReserve_arbiter hu]
theorem reserveBoth_chans {s t : State} {a b : Nat} (h : reserveBoth a b s = some t) : t.chans = s.chans := by
  unfold reserveBoth at h
  obtain ⟨u, hu, hv⟩ := Option.bind_eq_some_iff.1 h
  rw [claimReserve_chans hv, claimReserve_chans hu]
theorem reserveBoth_attn {s t : State} {a b : Nat} (h : reserveBoth a b s = some t) : t.attn = s.attn := by
  unfold reserveBoth at h
  obtain ⟨u, hu, hv⟩ := Option.bind_eq_some_iff.1 h
  rw [claimReserve_attn hv, claimReserve_attn hu]
theorem reserveBoth_profile {s t : State} {a b : Nat} (h : reserveBoth a b s = some t) : t.profile = s.profile := by
  unfold reserveBoth at h
  obtain ⟨u, hu, hv⟩ := Option.bind_eq_some_iff.1 h
  rw [claimReserve_profile hv, claimReserve_profile hu]
theorem reserveBoth_links {s t : State} {a b : Nat} (h : reserveBoth a b s = some t) : t.links = s.links := by
  unfold reserveBoth at h
  obtain ⟨u, hu, hv⟩ := Option.bind_eq_some_iff.1 h
  rw [claimReserve_links hv, claimReserve_links hu]
theorem reserveBoth_tape {s t : State} {a b : Nat} (h : reserveBoth a b s = some t) : t.tape = s.tape := by
  unfold reserveBoth at h
  obtain ⟨u, hu, hv⟩ := Option.bind_eq_some_iff.1 h
  rw [claimReserve_tape hv, claimReserve_tape hu]
theorem reserveBoth_sent {s t : State} {a b : Nat} (h : reserveBoth a b s = some t) : t.sent = s.sent := by
  unfold reserveBoth at h
  obtain ⟨u, hu, hv⟩ := Option.bind_eq_some_iff.1 h
  rw [claimReserve_sent hv, claimReserve_sent hu]
theorem reserveBoth_pending {s t : State} {a b : Nat} (h : reserveBoth a b s = some t) : t.pending = s.pending := by
  unfold reserveBoth at h
  obtain ⟨u, hu, hv⟩ := Option.bind_eq_some_iff.1 h
  rw [claimReserve_pending hv, claimReserve_pending hu]

@[simp] theorem clearListed_library (s : State) (source : Nat) (list : List Nat) : (clearListed source list s).library = s.library := by
  unfold clearListed
  split
  · exact foldl_keeps State.clearNotice State.library (fun a b => by simp) list s
  · simp
@[simp] theorem clearListed_hides (s : State) (source : Nat) (list : List Nat) : (clearListed source list s).hides = s.hides := by
  unfold clearListed
  split
  · exact foldl_keeps State.clearNotice State.hides (fun a b => by simp) list s
  · simp
@[simp] theorem clearListed_grid (s : State) (source : Nat) (list : List Nat) : (clearListed source list s).grid = s.grid := by
  unfold clearListed
  split
  · exact foldl_keeps State.clearNotice State.grid (fun a b => by simp) list s
  · simp
@[simp] theorem clearListed_engine (s : State) (source : Nat) (list : List Nat) : (clearListed source list s).engine = s.engine := by
  unfold clearListed
  split
  · exact foldl_keeps State.clearNotice State.engine (fun a b => by simp) list s
  · simp
@[simp] theorem clearListed_arbiter (s : State) (source : Nat) (list : List Nat) : (clearListed source list s).arbiter = s.arbiter := by
  unfold clearListed
  split
  · exact foldl_keeps State.clearNotice State.arbiter (fun a b => by simp) list s
  · simp
@[simp] theorem clearListed_chans (s : State) (source : Nat) (list : List Nat) : (clearListed source list s).chans = s.chans := by
  unfold clearListed
  split
  · exact foldl_keeps State.clearNotice State.chans (fun a b => by simp) list s
  · simp
@[simp] theorem clearListed_profile (s : State) (source : Nat) (list : List Nat) : (clearListed source list s).profile = s.profile := by
  unfold clearListed
  split
  · exact foldl_keeps State.clearNotice State.profile (fun a b => by simp) list s
  · simp
@[simp] theorem clearListed_links (s : State) (source : Nat) (list : List Nat) : (clearListed source list s).links = s.links := by
  unfold clearListed
  split
  · exact foldl_keeps State.clearNotice State.links (fun a b => by simp) list s
  · simp
@[simp] theorem clearListed_tape (s : State) (source : Nat) (list : List Nat) : (clearListed source list s).tape = s.tape := by
  unfold clearListed
  split
  · exact foldl_keeps State.clearNotice State.tape (fun a b => by simp) list s
  · simp
@[simp] theorem clearListed_sent (s : State) (source : Nat) (list : List Nat) : (clearListed source list s).sent = s.sent := by
  unfold clearListed
  split
  · exact foldl_keeps State.clearNotice State.sent (fun a b => by simp) list s
  · simp
@[simp] theorem clearListed_pending (s : State) (source : Nat) (list : List Nat) : (clearListed source list s).pending = s.pending := by
  unfold clearListed
  split
  · exact foldl_keeps State.clearNotice State.pending (fun a b => by simp) list s
  · simp

/-! ### lineAddBody -/

@[simp] theorem lineAddBody_library (s : State) (id slot style size ordered : Nat) : (lineAddBody id slot style size ordered s).1.library = s.library := by
  unfold lineAddBody
  exact checked_keeps State.library (by simp)
@[simp] theorem lineAddBody_hides (s : State) (id slot style size ordered : Nat) : (lineAddBody id slot style size ordered s).1.hides = s.hides := by
  unfold lineAddBody
  exact checked_keeps State.hides (by simp)
@[simp] theorem lineAddBody_grid (s : State) (id slot style size ordered : Nat) : (lineAddBody id slot style size ordered s).1.grid = s.grid := by
  unfold lineAddBody
  exact checked_keeps State.grid (by simp)
@[simp] theorem lineAddBody_engine (s : State) (id slot style size ordered : Nat) : (lineAddBody id slot style size ordered s).1.engine = s.engine := by
  unfold lineAddBody
  exact checked_keeps State.engine (by simp)
@[simp] theorem lineAddBody_arbiter (s : State) (id slot style size ordered : Nat) : (lineAddBody id slot style size ordered s).1.arbiter = s.arbiter := by
  unfold lineAddBody
  exact checked_keeps State.arbiter (by simp)
@[simp] theorem lineAddBody_chans (s : State) (id slot style size ordered : Nat) : (lineAddBody id slot style size ordered s).1.chans = s.chans := by
  unfold lineAddBody
  exact checked_keeps State.chans (by simp)
@[simp] theorem lineAddBody_attn (s : State) (id slot style size ordered : Nat) : (lineAddBody id slot style size ordered s).1.attn = s.attn := by
  unfold lineAddBody
  exact checked_keeps State.attn (by simp)
@[simp] theorem lineAddBody_profile (s : State) (id slot style size ordered : Nat) : (lineAddBody id slot style size ordered s).1.profile = s.profile := by
  unfold lineAddBody
  exact checked_keeps State.profile (by simp)
@[simp] theorem lineAddBody_links (s : State) (id slot style size ordered : Nat) : (lineAddBody id slot style size ordered s).1.links = s.links := by
  unfold lineAddBody
  exact checked_keeps State.links (by simp)
@[simp] theorem lineAddBody_tape (s : State) (id slot style size ordered : Nat) : (lineAddBody id slot style size ordered s).1.tape = s.tape := by
  unfold lineAddBody
  exact checked_keeps State.tape (by simp)
@[simp] theorem lineAddBody_sent (s : State) (id slot style size ordered : Nat) : (lineAddBody id slot style size ordered s).1.sent = s.sent := by
  unfold lineAddBody
  exact checked_keeps State.sent (by simp)
@[simp] theorem lineAddBody_pending (s : State) (id slot style size ordered : Nat) : (lineAddBody id slot style size ordered s).1.pending = s.pending := by
  unfold lineAddBody
  exact checked_keeps State.pending (by simp)

/-! ### pairAddBody -/

@[simp] theorem pairAddBody_library (s : State) (id1 id2 slot1 slot2 ordered style size : Nat) : (pairAddBody id1 id2 slot1 slot2 ordered style size s).1.library = s.library := by
  unfold pairAddBody
  exact checked_keeps State.library (by simp)
@[simp] theorem pairAddBody_hides (s : State) (id1 id2 slot1 slot2 ordered style size : Nat) : (pairAddBody id1 id2 slot1 slot2 ordered style size s).1.hides = s.hides := by
  unfold pairAddBody
  exact checked_keeps State.hides (by simp)
@[simp] theorem pairAddBody_grid (s : State) (id1 id2 slot1 slot2 ordered style size : Nat) : (pairAddBody id1 id2 slot1 slot2 ordered style size s).1.grid = s.grid := by
  unfold pairAddBody
  exact checked_keeps State.grid (by simp)
@[simp] theorem pairAddBody_engine (s : State) (id1 id2 slot1 slot2 ordered style size : Nat) : (pairAddBody id1 id2 slot1 slot2 ordered style size s).1.engine = s.engine := by
  unfold pairAddBody
  exact checked_keeps State.engine (by simp)
@[simp] theorem pairAddBody_arbiter (s : State) (id1 id2 slot1 slot2 ordered style size : Nat) : (pairAddBody id1 id2 slot1 slot2 ordered style size s).1.arbiter = s.arbiter := by
  unfold pairAddBody
  exact checked_keeps State.arbiter (by simp)
@[simp] theorem pairAddBody_chans (s : State) (id1 id2 slot1 slot2 ordered style size : Nat) : (pairAddBody id1 id2 slot1 slot2 ordered style size s).1.chans = s.chans := by
  unfold pairAddBody
  exact checked_keeps State.chans (by simp)
@[simp] theorem pairAddBody_attn (s : State) (id1 id2 slot1 slot2 ordered style size : Nat) : (pairAddBody id1 id2 slot1 slot2 ordered style size s).1.attn = s.attn := by
  unfold pairAddBody
  exact checked_keeps State.attn (by simp)
@[simp] theorem pairAddBody_profile (s : State) (id1 id2 slot1 slot2 ordered style size : Nat) : (pairAddBody id1 id2 slot1 slot2 ordered style size s).1.profile = s.profile := by
  unfold pairAddBody
  exact checked_keeps State.profile (by simp)
@[simp] theorem pairAddBody_links (s : State) (id1 id2 slot1 slot2 ordered style size : Nat) : (pairAddBody id1 id2 slot1 slot2 ordered style size s).1.links = s.links := by
  unfold pairAddBody
  exact checked_keeps State.links (by simp)
@[simp] theorem pairAddBody_tape (s : State) (id1 id2 slot1 slot2 ordered style size : Nat) : (pairAddBody id1 id2 slot1 slot2 ordered style size s).1.tape = s.tape := by
  unfold pairAddBody
  exact checked_keeps State.tape (by simp)
@[simp] theorem pairAddBody_sent (s : State) (id1 id2 slot1 slot2 ordered style size : Nat) : (pairAddBody id1 id2 slot1 slot2 ordered style size s).1.sent = s.sent := by
  unfold pairAddBody
  exact checked_keeps State.sent (by simp)
@[simp] theorem pairAddBody_pending (s : State) (id1 id2 slot1 slot2 ordered style size : Nat) : (pairAddBody id1 id2 slot1 slot2 ordered style size s).1.pending = s.pending := by
  unfold pairAddBody
  exact checked_keeps State.pending (by simp)

/-! ### lineResizeBody -/

@[simp] theorem lineResizeBody_library (s : State) (id ordered : Nat) : (lineResizeBody id ordered s).1.library = s.library := by
  unfold lineResizeBody
  split
  · rfl
  · exact checked_keeps State.library (onPair_keeps State.library fun k t => by simp)
@[simp] theorem lineResizeBody_hides (s : State) (id ordered : Nat) : (lineResizeBody id ordered s).1.hides = s.hides := by
  unfold lineResizeBody
  split
  · rfl
  · exact checked_keeps State.hides (onPair_keeps State.hides fun k t => by simp)
@[simp] theorem lineResizeBody_grid (s : State) (id ordered : Nat) : (lineResizeBody id ordered s).1.grid = s.grid := by
  unfold lineResizeBody
  split
  · rfl
  · exact checked_keeps State.grid (onPair_keeps State.grid fun k t => by simp)
@[simp] theorem lineResizeBody_engine (s : State) (id ordered : Nat) : (lineResizeBody id ordered s).1.engine = s.engine := by
  unfold lineResizeBody
  split
  · rfl
  · exact checked_keeps State.engine (onPair_keeps State.engine fun k t => by simp)
@[simp] theorem lineResizeBody_arbiter (s : State) (id ordered : Nat) : (lineResizeBody id ordered s).1.arbiter = s.arbiter := by
  unfold lineResizeBody
  split
  · rfl
  · exact checked_keeps State.arbiter (onPair_keeps State.arbiter fun k t => by simp)
@[simp] theorem lineResizeBody_chans (s : State) (id ordered : Nat) : (lineResizeBody id ordered s).1.chans = s.chans := by
  unfold lineResizeBody
  split
  · rfl
  · exact checked_keeps State.chans (onPair_keeps State.chans fun k t => by simp)
@[simp] theorem lineResizeBody_profile (s : State) (id ordered : Nat) : (lineResizeBody id ordered s).1.profile = s.profile := by
  unfold lineResizeBody
  split
  · rfl
  · exact checked_keeps State.profile (onPair_keeps State.profile fun k t => by simp)
@[simp] theorem lineResizeBody_links (s : State) (id ordered : Nat) : (lineResizeBody id ordered s).1.links = s.links := by
  unfold lineResizeBody
  split
  · rfl
  · exact checked_keeps State.links (onPair_keeps State.links fun k t => by simp)
@[simp] theorem lineResizeBody_tape (s : State) (id ordered : Nat) : (lineResizeBody id ordered s).1.tape = s.tape := by
  unfold lineResizeBody
  split
  · rfl
  · exact checked_keeps State.tape (onPair_keeps State.tape fun k t => by simp)
@[simp] theorem lineResizeBody_sent (s : State) (id ordered : Nat) : (lineResizeBody id ordered s).1.sent = s.sent := by
  unfold lineResizeBody
  split
  · rfl
  · exact checked_keeps State.sent (onPair_keeps State.sent fun k t => by simp)
@[simp] theorem lineResizeBody_pending (s : State) (id ordered : Nat) : (lineResizeBody id ordered s).1.pending = s.pending := by
  unfold lineResizeBody
  split
  · rfl
  · exact checked_keeps State.pending (onPair_keeps State.pending fun k t => by simp)

/-! ### lineCancelBody -/

@[simp] theorem lineCancelBody_library (s : State) (id : Nat) : (lineCancelBody id s).1.library = s.library := by
  unfold lineCancelBody
  split
  · rfl
  · exact checked_keeps State.library (onPair_keeps State.library fun k t => by simp)
@[simp] theorem lineCancelBody_hides (s : State) (id : Nat) : (lineCancelBody id s).1.hides = s.hides := by
  unfold lineCancelBody
  split
  · rfl
  · exact checked_keeps State.hides (onPair_keeps State.hides fun k t => by simp)
@[simp] theorem lineCancelBody_grid (s : State) (id : Nat) : (lineCancelBody id s).1.grid = s.grid := by
  unfold lineCancelBody
  split
  · rfl
  · exact checked_keeps State.grid (onPair_keeps State.grid fun k t => by simp)
@[simp] theorem lineCancelBody_engine (s : State) (id : Nat) : (lineCancelBody id s).1.engine = s.engine := by
  unfold lineCancelBody
  split
  · rfl
  · exact checked_keeps State.engine (onPair_keeps State.engine fun k t => by simp)
@[simp] theorem lineCancelBody_arbiter (s : State) (id : Nat) : (lineCancelBody id s).1.arbiter = s.arbiter := by
  unfold lineCancelBody
  split
  · rfl
  · exact checked_keeps State.arbiter (onPair_keeps State.arbiter fun k t => by simp)
@[simp] theorem lineCancelBody_chans (s : State) (id : Nat) : (lineCancelBody id s).1.chans = s.chans := by
  unfold lineCancelBody
  split
  · rfl
  · exact checked_keeps State.chans (onPair_keeps State.chans fun k t => by simp)
@[simp] theorem lineCancelBody_profile (s : State) (id : Nat) : (lineCancelBody id s).1.profile = s.profile := by
  unfold lineCancelBody
  split
  · rfl
  · exact checked_keeps State.profile (onPair_keeps State.profile fun k t => by simp)
@[simp] theorem lineCancelBody_links (s : State) (id : Nat) : (lineCancelBody id s).1.links = s.links := by
  unfold lineCancelBody
  split
  · rfl
  · exact checked_keeps State.links (onPair_keeps State.links fun k t => by simp)
@[simp] theorem lineCancelBody_tape (s : State) (id : Nat) : (lineCancelBody id s).1.tape = s.tape := by
  unfold lineCancelBody
  split
  · rfl
  · exact checked_keeps State.tape (onPair_keeps State.tape fun k t => by simp)
@[simp] theorem lineCancelBody_sent (s : State) (id : Nat) : (lineCancelBody id s).1.sent = s.sent := by
  unfold lineCancelBody
  split
  · rfl
  · exact checked_keeps State.sent (onPair_keeps State.sent fun k t => by simp)
@[simp] theorem lineCancelBody_pending (s : State) (id : Nat) : (lineCancelBody id s).1.pending = s.pending := by
  unfold lineCancelBody
  split
  · rfl
  · exact checked_keeps State.pending (onPair_keeps State.pending fun k t => by simp)

/-! ### lineRemoveBody -/

@[simp] theorem lineRemoveBody_library (s : State) (id : Nat) : (lineRemoveBody id s).1.library = s.library := by
  unfold lineRemoveBody
  split
  · rfl
  · exact checked_keeps State.library (onPair_keeps State.library fun k t => by simp)
@[simp] theorem lineRemoveBody_hides (s : State) (id : Nat) : (lineRemoveBody id s).1.hides = s.hides := by
  unfold lineRemoveBody
  split
  · rfl
  · exact checked_keeps State.hides (onPair_keeps State.hides fun k t => by simp)
@[simp] theorem lineRemoveBody_grid (s : State) (id : Nat) : (lineRemoveBody id s).1.grid = s.grid := by
  unfold lineRemoveBody
  split
  · rfl
  · exact checked_keeps State.grid (onPair_keeps State.grid fun k t => by simp)
@[simp] theorem lineRemoveBody_engine (s : State) (id : Nat) : (lineRemoveBody id s).1.engine = s.engine := by
  unfold lineRemoveBody
  split
  · rfl
  · exact checked_keeps State.engine (onPair_keeps State.engine fun k t => by simp)
@[simp] theorem lineRemoveBody_arbiter (s : State) (id : Nat) : (lineRemoveBody id s).1.arbiter = s.arbiter := by
  unfold lineRemoveBody
  split
  · rfl
  · exact checked_keeps State.arbiter (onPair_keeps State.arbiter fun k t => by simp)
@[simp] theorem lineRemoveBody_chans (s : State) (id : Nat) : (lineRemoveBody id s).1.chans = s.chans := by
  unfold lineRemoveBody
  split
  · rfl
  · exact checked_keeps State.chans (onPair_keeps State.chans fun k t => by simp)
@[simp] theorem lineRemoveBody_attn (s : State) (id : Nat) : (lineRemoveBody id s).1.attn = s.attn := by
  unfold lineRemoveBody
  split
  · rfl
  · exact checked_keeps State.attn (onPair_keeps State.attn fun k t => by simp)
@[simp] theorem lineRemoveBody_profile (s : State) (id : Nat) : (lineRemoveBody id s).1.profile = s.profile := by
  unfold lineRemoveBody
  split
  · rfl
  · exact checked_keeps State.profile (onPair_keeps State.profile fun k t => by simp)
@[simp] theorem lineRemoveBody_links (s : State) (id : Nat) : (lineRemoveBody id s).1.links = s.links := by
  unfold lineRemoveBody
  split
  · rfl
  · exact checked_keeps State.links (onPair_keeps State.links fun k t => by simp)
@[simp] theorem lineRemoveBody_tape (s : State) (id : Nat) : (lineRemoveBody id s).1.tape = s.tape := by
  unfold lineRemoveBody
  split
  · rfl
  · exact checked_keeps State.tape (onPair_keeps State.tape fun k t => by simp)
@[simp] theorem lineRemoveBody_sent (s : State) (id : Nat) : (lineRemoveBody id s).1.sent = s.sent := by
  unfold lineRemoveBody
  split
  · rfl
  · exact checked_keeps State.sent (onPair_keeps State.sent fun k t => by simp)
@[simp] theorem lineRemoveBody_pending (s : State) (id : Nat) : (lineRemoveBody id s).1.pending = s.pending := by
  unfold lineRemoveBody
  split
  · rfl
  · exact checked_keeps State.pending (onPair_keeps State.pending fun k t => by simp)

/-! ### lineReadBody -/

@[simp] theorem lineReadBody_book (s : State) (id : Nat) : (lineReadBody id s).1.book = s.book := by
  unfold lineReadBody
  split <;> rfl
@[simp] theorem lineReadBody_library (s : State) (id : Nat) : (lineReadBody id s).1.library = s.library := by
  unfold lineReadBody
  split <;> rfl
@[simp] theorem lineReadBody_hides (s : State) (id : Nat) : (lineReadBody id s).1.hides = s.hides := by
  unfold lineReadBody
  split <;> rfl
@[simp] theorem lineReadBody_grid (s : State) (id : Nat) : (lineReadBody id s).1.grid = s.grid := by
  unfold lineReadBody
  split <;> rfl
@[simp] theorem lineReadBody_engine (s : State) (id : Nat) : (lineReadBody id s).1.engine = s.engine := by
  unfold lineReadBody
  split <;> rfl
@[simp] theorem lineReadBody_arbiter (s : State) (id : Nat) : (lineReadBody id s).1.arbiter = s.arbiter := by
  unfold lineReadBody
  split <;> rfl
@[simp] theorem lineReadBody_chans (s : State) (id : Nat) : (lineReadBody id s).1.chans = s.chans := by
  unfold lineReadBody
  split <;> rfl
@[simp] theorem lineReadBody_attn (s : State) (id : Nat) : (lineReadBody id s).1.attn = s.attn := by
  unfold lineReadBody
  split <;> rfl
@[simp] theorem lineReadBody_profile (s : State) (id : Nat) : (lineReadBody id s).1.profile = s.profile := by
  unfold lineReadBody
  split <;> rfl
@[simp] theorem lineReadBody_links (s : State) (id : Nat) : (lineReadBody id s).1.links = s.links := by
  unfold lineReadBody
  split <;> rfl
@[simp] theorem lineReadBody_tape (s : State) (id : Nat) : (lineReadBody id s).1.tape = s.tape := by
  unfold lineReadBody
  split <;> rfl
@[simp] theorem lineReadBody_sent (s : State) (id : Nat) : (lineReadBody id s).1.sent = s.sent := by
  unfold lineReadBody
  split <;> rfl
@[simp] theorem lineReadBody_pending (s : State) (id : Nat) : (lineReadBody id s).1.pending = s.pending := by
  unfold lineReadBody
  split <;> rfl

/-! ### pieceDefineBody -/

@[simp] theorem pieceDefineBody_book (s : State) (slot code margin : Nat) (o : Byte) (band : Option (Nat × Nat)) : (pieceDefineBody slot code margin o band s).1.book = s.book := by
  unfold pieceDefineBody
  exact checked_keeps State.book (by simp)
@[simp] theorem pieceDefineBody_hides (s : State) (slot code margin : Nat) (o : Byte) (band : Option (Nat × Nat)) : (pieceDefineBody slot code margin o band s).1.hides = s.hides := by
  unfold pieceDefineBody
  exact checked_keeps State.hides (by simp)
@[simp] theorem pieceDefineBody_grid (s : State) (slot code margin : Nat) (o : Byte) (band : Option (Nat × Nat)) : (pieceDefineBody slot code margin o band s).1.grid = s.grid := by
  unfold pieceDefineBody
  exact checked_keeps State.grid (by simp)
@[simp] theorem pieceDefineBody_engine (s : State) (slot code margin : Nat) (o : Byte) (band : Option (Nat × Nat)) : (pieceDefineBody slot code margin o band s).1.engine = s.engine := by
  unfold pieceDefineBody
  exact checked_keeps State.engine (by simp)
@[simp] theorem pieceDefineBody_arbiter (s : State) (slot code margin : Nat) (o : Byte) (band : Option (Nat × Nat)) : (pieceDefineBody slot code margin o band s).1.arbiter = s.arbiter := by
  unfold pieceDefineBody
  exact checked_keeps State.arbiter (by simp)
@[simp] theorem pieceDefineBody_chans (s : State) (slot code margin : Nat) (o : Byte) (band : Option (Nat × Nat)) : (pieceDefineBody slot code margin o band s).1.chans = s.chans := by
  unfold pieceDefineBody
  exact checked_keeps State.chans (by simp)
@[simp] theorem pieceDefineBody_attn (s : State) (slot code margin : Nat) (o : Byte) (band : Option (Nat × Nat)) : (pieceDefineBody slot code margin o band s).1.attn = s.attn := by
  unfold pieceDefineBody
  exact checked_keeps State.attn (by simp)
@[simp] theorem pieceDefineBody_profile (s : State) (slot code margin : Nat) (o : Byte) (band : Option (Nat × Nat)) : (pieceDefineBody slot code margin o band s).1.profile = s.profile := by
  unfold pieceDefineBody
  exact checked_keeps State.profile (by simp)
@[simp] theorem pieceDefineBody_links (s : State) (slot code margin : Nat) (o : Byte) (band : Option (Nat × Nat)) : (pieceDefineBody slot code margin o band s).1.links = s.links := by
  unfold pieceDefineBody
  exact checked_keeps State.links (by simp)
@[simp] theorem pieceDefineBody_tape (s : State) (slot code margin : Nat) (o : Byte) (band : Option (Nat × Nat)) : (pieceDefineBody slot code margin o band s).1.tape = s.tape := by
  unfold pieceDefineBody
  exact checked_keeps State.tape (by simp)
@[simp] theorem pieceDefineBody_sent (s : State) (slot code margin : Nat) (o : Byte) (band : Option (Nat × Nat)) : (pieceDefineBody slot code margin o band s).1.sent = s.sent := by
  unfold pieceDefineBody
  exact checked_keeps State.sent (by simp)
@[simp] theorem pieceDefineBody_pending (s : State) (slot code margin : Nat) (o : Byte) (band : Option (Nat × Nat)) : (pieceDefineBody slot code margin o band s).1.pending = s.pending := by
  unfold pieceDefineBody
  exact checked_keeps State.pending (by simp)

/-! ### variantDefineBody -/

@[simp] theorem variantDefineBody_book (s : State) (slot o w h : Nat) : (variantDefineBody slot o w h s).1.book = s.book := by
  unfold variantDefineBody
  dsimp only
  refine checked_keeps State.book ?_
  split <;> simp [refuse]
@[simp] theorem variantDefineBody_hides (s : State) (slot o w h : Nat) : (variantDefineBody slot o w h s).1.hides = s.hides := by
  unfold variantDefineBody
  dsimp only
  refine checked_keeps State.hides ?_
  split <;> simp [refuse]
@[simp] theorem variantDefineBody_grid (s : State) (slot o w h : Nat) : (variantDefineBody slot o w h s).1.grid = s.grid := by
  unfold variantDefineBody
  dsimp only
  refine checked_keeps State.grid ?_
  split <;> simp [refuse]
@[simp] theorem variantDefineBody_engine (s : State) (slot o w h : Nat) : (variantDefineBody slot o w h s).1.engine = s.engine := by
  unfold variantDefineBody
  dsimp only
  refine checked_keeps State.engine ?_
  split <;> simp [refuse]
@[simp] theorem variantDefineBody_arbiter (s : State) (slot o w h : Nat) : (variantDefineBody slot o w h s).1.arbiter = s.arbiter := by
  unfold variantDefineBody
  dsimp only
  refine checked_keeps State.arbiter ?_
  split <;> simp [refuse]
@[simp] theorem variantDefineBody_chans (s : State) (slot o w h : Nat) : (variantDefineBody slot o w h s).1.chans = s.chans := by
  unfold variantDefineBody
  dsimp only
  refine checked_keeps State.chans ?_
  split <;> simp [refuse]
@[simp] theorem variantDefineBody_attn (s : State) (slot o w h : Nat) : (variantDefineBody slot o w h s).1.attn = s.attn := by
  unfold variantDefineBody
  dsimp only
  refine checked_keeps State.attn ?_
  split <;> simp [refuse]
@[simp] theorem variantDefineBody_profile (s : State) (slot o w h : Nat) : (variantDefineBody slot o w h s).1.profile = s.profile := by
  unfold variantDefineBody
  dsimp only
  refine checked_keeps State.profile ?_
  split <;> simp [refuse]
@[simp] theorem variantDefineBody_links (s : State) (slot o w h : Nat) : (variantDefineBody slot o w h s).1.links = s.links := by
  unfold variantDefineBody
  dsimp only
  refine checked_keeps State.links ?_
  split <;> simp [refuse]
@[simp] theorem variantDefineBody_tape (s : State) (slot o w h : Nat) : (variantDefineBody slot o w h s).1.tape = s.tape := by
  unfold variantDefineBody
  dsimp only
  refine checked_keeps State.tape ?_
  split <;> simp [refuse]
@[simp] theorem variantDefineBody_sent (s : State) (slot o w h : Nat) : (variantDefineBody slot o w h s).1.sent = s.sent := by
  unfold variantDefineBody
  dsimp only
  refine checked_keeps State.sent ?_
  split <;> simp [refuse]
@[simp] theorem variantDefineBody_pending (s : State) (slot o w h : Nat) : (variantDefineBody slot o w h s).1.pending = s.pending := by
  unfold variantDefineBody
  dsimp only
  refine checked_keeps State.pending ?_
  split <;> simp [refuse]

/-! ### variantRowsBody -/

@[simp] theorem variantRowsBody_book (s : State) (slot o row start : Nat) (runs : List Run) : (variantRowsBody slot o row start runs s).1.book = s.book := by
  unfold variantRowsBody
  dsimp only
  refine checked_keeps State.book ?_
  split <;> simp [refuse]
@[simp] theorem variantRowsBody_hides (s : State) (slot o row start : Nat) (runs : List Run) : (variantRowsBody slot o row start runs s).1.hides = s.hides := by
  unfold variantRowsBody
  dsimp only
  refine checked_keeps State.hides ?_
  split <;> simp [refuse]
@[simp] theorem variantRowsBody_grid (s : State) (slot o row start : Nat) (runs : List Run) : (variantRowsBody slot o row start runs s).1.grid = s.grid := by
  unfold variantRowsBody
  dsimp only
  refine checked_keeps State.grid ?_
  split <;> simp [refuse]
@[simp] theorem variantRowsBody_engine (s : State) (slot o row start : Nat) (runs : List Run) : (variantRowsBody slot o row start runs s).1.engine = s.engine := by
  unfold variantRowsBody
  dsimp only
  refine checked_keeps State.engine ?_
  split <;> simp [refuse]
@[simp] theorem variantRowsBody_arbiter (s : State) (slot o row start : Nat) (runs : List Run) : (variantRowsBody slot o row start runs s).1.arbiter = s.arbiter := by
  unfold variantRowsBody
  dsimp only
  refine checked_keeps State.arbiter ?_
  split <;> simp [refuse]
@[simp] theorem variantRowsBody_chans (s : State) (slot o row start : Nat) (runs : List Run) : (variantRowsBody slot o row start runs s).1.chans = s.chans := by
  unfold variantRowsBody
  dsimp only
  refine checked_keeps State.chans ?_
  split <;> simp [refuse]
@[simp] theorem variantRowsBody_attn (s : State) (slot o row start : Nat) (runs : List Run) : (variantRowsBody slot o row start runs s).1.attn = s.attn := by
  unfold variantRowsBody
  dsimp only
  refine checked_keeps State.attn ?_
  split <;> simp [refuse]
@[simp] theorem variantRowsBody_profile (s : State) (slot o row start : Nat) (runs : List Run) : (variantRowsBody slot o row start runs s).1.profile = s.profile := by
  unfold variantRowsBody
  dsimp only
  refine checked_keeps State.profile ?_
  split <;> simp [refuse]
@[simp] theorem variantRowsBody_links (s : State) (slot o row start : Nat) (runs : List Run) : (variantRowsBody slot o row start runs s).1.links = s.links := by
  unfold variantRowsBody
  dsimp only
  refine checked_keeps State.links ?_
  split <;> simp [refuse]
@[simp] theorem variantRowsBody_tape (s : State) (slot o row start : Nat) (runs : List Run) : (variantRowsBody slot o row start runs s).1.tape = s.tape := by
  unfold variantRowsBody
  dsimp only
  refine checked_keeps State.tape ?_
  split <;> simp [refuse]
@[simp] theorem variantRowsBody_sent (s : State) (slot o row start : Nat) (runs : List Run) : (variantRowsBody slot o row start runs s).1.sent = s.sent := by
  unfold variantRowsBody
  dsimp only
  refine checked_keeps State.sent ?_
  split <;> simp [refuse]
@[simp] theorem variantRowsBody_pending (s : State) (slot o row start : Nat) (runs : List Run) : (variantRowsBody slot o row start runs s).1.pending = s.pending := by
  unfold variantRowsBody
  dsimp only
  refine checked_keeps State.pending ?_
  split <;> simp [refuse]

/-! ### pieceReadyBody -/

@[simp] theorem pieceReadyBody_book (s : State) (slot : Nat) : (pieceReadyBody slot s).1.book = s.book := by
  unfold pieceReadyBody
  refine checked_keeps State.book ?_
  split
  · rfl
  · exact checked_keeps State.book (by simp)
@[simp] theorem pieceReadyBody_hides (s : State) (slot : Nat) : (pieceReadyBody slot s).1.hides = s.hides := by
  unfold pieceReadyBody
  refine checked_keeps State.hides ?_
  split
  · rfl
  · exact checked_keeps State.hides (by simp)
@[simp] theorem pieceReadyBody_grid (s : State) (slot : Nat) : (pieceReadyBody slot s).1.grid = s.grid := by
  unfold pieceReadyBody
  refine checked_keeps State.grid ?_
  split
  · rfl
  · exact checked_keeps State.grid (by simp)
@[simp] theorem pieceReadyBody_engine (s : State) (slot : Nat) : (pieceReadyBody slot s).1.engine = s.engine := by
  unfold pieceReadyBody
  refine checked_keeps State.engine ?_
  split
  · rfl
  · exact checked_keeps State.engine (by simp)
@[simp] theorem pieceReadyBody_arbiter (s : State) (slot : Nat) : (pieceReadyBody slot s).1.arbiter = s.arbiter := by
  unfold pieceReadyBody
  refine checked_keeps State.arbiter ?_
  split
  · rfl
  · exact checked_keeps State.arbiter (by simp)
@[simp] theorem pieceReadyBody_chans (s : State) (slot : Nat) : (pieceReadyBody slot s).1.chans = s.chans := by
  unfold pieceReadyBody
  refine checked_keeps State.chans ?_
  split
  · rfl
  · exact checked_keeps State.chans (by simp)
@[simp] theorem pieceReadyBody_attn (s : State) (slot : Nat) : (pieceReadyBody slot s).1.attn = s.attn := by
  unfold pieceReadyBody
  refine checked_keeps State.attn ?_
  split
  · rfl
  · exact checked_keeps State.attn (by simp)
@[simp] theorem pieceReadyBody_profile (s : State) (slot : Nat) : (pieceReadyBody slot s).1.profile = s.profile := by
  unfold pieceReadyBody
  refine checked_keeps State.profile ?_
  split
  · rfl
  · exact checked_keeps State.profile (by simp)
@[simp] theorem pieceReadyBody_links (s : State) (slot : Nat) : (pieceReadyBody slot s).1.links = s.links := by
  unfold pieceReadyBody
  refine checked_keeps State.links ?_
  split
  · rfl
  · exact checked_keeps State.links (by simp)
@[simp] theorem pieceReadyBody_tape (s : State) (slot : Nat) : (pieceReadyBody slot s).1.tape = s.tape := by
  unfold pieceReadyBody
  refine checked_keeps State.tape ?_
  split
  · rfl
  · exact checked_keeps State.tape (by simp)
@[simp] theorem pieceReadyBody_sent (s : State) (slot : Nat) : (pieceReadyBody slot s).1.sent = s.sent := by
  unfold pieceReadyBody
  refine checked_keeps State.sent ?_
  split
  · rfl
  · exact checked_keeps State.sent (by simp)
@[simp] theorem pieceReadyBody_pending (s : State) (slot : Nat) : (pieceReadyBody slot s).1.pending = s.pending := by
  unfold pieceReadyBody
  refine checked_keeps State.pending ?_
  split
  · rfl
  · exact checked_keeps State.pending (by simp)

/-! ### pieceEraseBody -/

@[simp] theorem pieceEraseBody_book (s : State) (slot : Nat) : (pieceEraseBody slot s).1.book = s.book := by
  unfold pieceEraseBody
  exact checked_keeps State.book (by simp)
@[simp] theorem pieceEraseBody_hides (s : State) (slot : Nat) : (pieceEraseBody slot s).1.hides = s.hides := by
  unfold pieceEraseBody
  exact checked_keeps State.hides (by simp)
@[simp] theorem pieceEraseBody_grid (s : State) (slot : Nat) : (pieceEraseBody slot s).1.grid = s.grid := by
  unfold pieceEraseBody
  exact checked_keeps State.grid (by simp)
@[simp] theorem pieceEraseBody_engine (s : State) (slot : Nat) : (pieceEraseBody slot s).1.engine = s.engine := by
  unfold pieceEraseBody
  exact checked_keeps State.engine (by simp)
@[simp] theorem pieceEraseBody_arbiter (s : State) (slot : Nat) : (pieceEraseBody slot s).1.arbiter = s.arbiter := by
  unfold pieceEraseBody
  exact checked_keeps State.arbiter (by simp)
@[simp] theorem pieceEraseBody_chans (s : State) (slot : Nat) : (pieceEraseBody slot s).1.chans = s.chans := by
  unfold pieceEraseBody
  exact checked_keeps State.chans (by simp)
@[simp] theorem pieceEraseBody_attn (s : State) (slot : Nat) : (pieceEraseBody slot s).1.attn = s.attn := by
  unfold pieceEraseBody
  exact checked_keeps State.attn (by simp)
@[simp] theorem pieceEraseBody_profile (s : State) (slot : Nat) : (pieceEraseBody slot s).1.profile = s.profile := by
  unfold pieceEraseBody
  exact checked_keeps State.profile (by simp)
@[simp] theorem pieceEraseBody_links (s : State) (slot : Nat) : (pieceEraseBody slot s).1.links = s.links := by
  unfold pieceEraseBody
  exact checked_keeps State.links (by simp)
@[simp] theorem pieceEraseBody_tape (s : State) (slot : Nat) : (pieceEraseBody slot s).1.tape = s.tape := by
  unfold pieceEraseBody
  exact checked_keeps State.tape (by simp)
@[simp] theorem pieceEraseBody_sent (s : State) (slot : Nat) : (pieceEraseBody slot s).1.sent = s.sent := by
  unfold pieceEraseBody
  exact checked_keeps State.sent (by simp)
@[simp] theorem pieceEraseBody_pending (s : State) (slot : Nat) : (pieceEraseBody slot s).1.pending = s.pending := by
  unfold pieceEraseBody
  exact checked_keeps State.pending (by simp)

/-! ### pieceReadBody -/

@[simp] theorem pieceReadBody_book (s : State) (slot : Nat) (row : Option (Nat × Nat)) : (pieceReadBody slot row s).1.book = s.book := by
  unfold pieceReadBody
  exact checked_keeps State.book rfl
@[simp] theorem pieceReadBody_library (s : State) (slot : Nat) (row : Option (Nat × Nat)) : (pieceReadBody slot row s).1.library = s.library := by
  unfold pieceReadBody
  exact checked_keeps State.library rfl
@[simp] theorem pieceReadBody_hides (s : State) (slot : Nat) (row : Option (Nat × Nat)) : (pieceReadBody slot row s).1.hides = s.hides := by
  unfold pieceReadBody
  exact checked_keeps State.hides rfl
@[simp] theorem pieceReadBody_grid (s : State) (slot : Nat) (row : Option (Nat × Nat)) : (pieceReadBody slot row s).1.grid = s.grid := by
  unfold pieceReadBody
  exact checked_keeps State.grid rfl
@[simp] theorem pieceReadBody_engine (s : State) (slot : Nat) (row : Option (Nat × Nat)) : (pieceReadBody slot row s).1.engine = s.engine := by
  unfold pieceReadBody
  exact checked_keeps State.engine rfl
@[simp] theorem pieceReadBody_arbiter (s : State) (slot : Nat) (row : Option (Nat × Nat)) : (pieceReadBody slot row s).1.arbiter = s.arbiter := by
  unfold pieceReadBody
  exact checked_keeps State.arbiter rfl
@[simp] theorem pieceReadBody_chans (s : State) (slot : Nat) (row : Option (Nat × Nat)) : (pieceReadBody slot row s).1.chans = s.chans := by
  unfold pieceReadBody
  exact checked_keeps State.chans rfl
@[simp] theorem pieceReadBody_attn (s : State) (slot : Nat) (row : Option (Nat × Nat)) : (pieceReadBody slot row s).1.attn = s.attn := by
  unfold pieceReadBody
  exact checked_keeps State.attn rfl
@[simp] theorem pieceReadBody_profile (s : State) (slot : Nat) (row : Option (Nat × Nat)) : (pieceReadBody slot row s).1.profile = s.profile := by
  unfold pieceReadBody
  exact checked_keeps State.profile rfl
@[simp] theorem pieceReadBody_links (s : State) (slot : Nat) (row : Option (Nat × Nat)) : (pieceReadBody slot row s).1.links = s.links := by
  unfold pieceReadBody
  exact checked_keeps State.links rfl
@[simp] theorem pieceReadBody_tape (s : State) (slot : Nat) (row : Option (Nat × Nat)) : (pieceReadBody slot row s).1.tape = s.tape := by
  unfold pieceReadBody
  exact checked_keeps State.tape rfl
@[simp] theorem pieceReadBody_sent (s : State) (slot : Nat) (row : Option (Nat × Nat)) : (pieceReadBody slot row s).1.sent = s.sent := by
  unfold pieceReadBody
  exact checked_keeps State.sent rfl
@[simp] theorem pieceReadBody_pending (s : State) (slot : Nat) (row : Option (Nat × Nat)) : (pieceReadBody slot row s).1.pending = s.pending := by
  unfold pieceReadBody
  exact checked_keeps State.pending rfl

/-! ### bankModeBody -/

@[simp] theorem bankModeBody_book (s : State) (bank mode : Nat) : (bankModeBody bank mode s).1.book = s.book := by
  unfold bankModeBody
  (repeat' split) <;> rfl
@[simp] theorem bankModeBody_hides (s : State) (bank mode : Nat) : (bankModeBody bank mode s).1.hides = s.hides := by
  unfold bankModeBody
  (repeat' split) <;> rfl
@[simp] theorem bankModeBody_grid (s : State) (bank mode : Nat) : (bankModeBody bank mode s).1.grid = s.grid := by
  unfold bankModeBody
  (repeat' split) <;> rfl
@[simp] theorem bankModeBody_engine (s : State) (bank mode : Nat) : (bankModeBody bank mode s).1.engine = s.engine := by
  unfold bankModeBody
  (repeat' split) <;> rfl
@[simp] theorem bankModeBody_arbiter (s : State) (bank mode : Nat) : (bankModeBody bank mode s).1.arbiter = s.arbiter := by
  unfold bankModeBody
  (repeat' split) <;> rfl
@[simp] theorem bankModeBody_chans (s : State) (bank mode : Nat) : (bankModeBody bank mode s).1.chans = s.chans := by
  unfold bankModeBody
  (repeat' split) <;> rfl
@[simp] theorem bankModeBody_attn (s : State) (bank mode : Nat) : (bankModeBody bank mode s).1.attn = s.attn := by
  unfold bankModeBody
  (repeat' split) <;> rfl
@[simp] theorem bankModeBody_profile (s : State) (bank mode : Nat) : (bankModeBody bank mode s).1.profile = s.profile := by
  unfold bankModeBody
  (repeat' split) <;> rfl
@[simp] theorem bankModeBody_links (s : State) (bank mode : Nat) : (bankModeBody bank mode s).1.links = s.links := by
  unfold bankModeBody
  (repeat' split) <;> rfl
@[simp] theorem bankModeBody_tape (s : State) (bank mode : Nat) : (bankModeBody bank mode s).1.tape = s.tape := by
  unfold bankModeBody
  (repeat' split) <;> rfl
@[simp] theorem bankModeBody_sent (s : State) (bank mode : Nat) : (bankModeBody bank mode s).1.sent = s.sent := by
  unfold bankModeBody
  (repeat' split) <;> rfl
@[simp] theorem bankModeBody_pending (s : State) (bank mode : Nat) : (bankModeBody bank mode s).1.pending = s.pending := by
  unfold bankModeBody
  (repeat' split) <;> rfl

/-! ### hideOpenBody -/

@[simp] theorem hideOpenBody_book (s : State) (tag w h backbone : Nat) : (hideOpenBody tag w h backbone s).1.book = s.book := by
  unfold hideOpenBody
  refine checked_keeps State.book ?_
  split <;> simp [refuse]
@[simp] theorem hideOpenBody_library (s : State) (tag w h backbone : Nat) : (hideOpenBody tag w h backbone s).1.library = s.library := by
  unfold hideOpenBody
  refine checked_keeps State.library ?_
  split <;> simp [refuse]
@[simp] theorem hideOpenBody_grid (s : State) (tag w h backbone : Nat) : (hideOpenBody tag w h backbone s).1.grid = s.grid := by
  unfold hideOpenBody
  refine checked_keeps State.grid ?_
  split <;> simp [refuse]
@[simp] theorem hideOpenBody_engine (s : State) (tag w h backbone : Nat) : (hideOpenBody tag w h backbone s).1.engine = s.engine := by
  unfold hideOpenBody
  refine checked_keeps State.engine ?_
  split <;> simp [refuse]
@[simp] theorem hideOpenBody_arbiter (s : State) (tag w h backbone : Nat) : (hideOpenBody tag w h backbone s).1.arbiter = s.arbiter := by
  unfold hideOpenBody
  refine checked_keeps State.arbiter ?_
  split <;> simp [refuse]
@[simp] theorem hideOpenBody_chans (s : State) (tag w h backbone : Nat) : (hideOpenBody tag w h backbone s).1.chans = s.chans := by
  unfold hideOpenBody
  refine checked_keeps State.chans ?_
  split <;> simp [refuse]
@[simp] theorem hideOpenBody_profile (s : State) (tag w h backbone : Nat) : (hideOpenBody tag w h backbone s).1.profile = s.profile := by
  unfold hideOpenBody
  refine checked_keeps State.profile ?_
  split <;> simp [refuse]
@[simp] theorem hideOpenBody_links (s : State) (tag w h backbone : Nat) : (hideOpenBody tag w h backbone s).1.links = s.links := by
  unfold hideOpenBody
  refine checked_keeps State.links ?_
  split <;> simp [refuse]
@[simp] theorem hideOpenBody_tape (s : State) (tag w h backbone : Nat) : (hideOpenBody tag w h backbone s).1.tape = s.tape := by
  unfold hideOpenBody
  refine checked_keeps State.tape ?_
  split <;> simp [refuse]
@[simp] theorem hideOpenBody_sent (s : State) (tag w h backbone : Nat) : (hideOpenBody tag w h backbone s).1.sent = s.sent := by
  unfold hideOpenBody
  refine checked_keeps State.sent ?_
  split <;> simp [refuse]
@[simp] theorem hideOpenBody_pending (s : State) (tag w h backbone : Nat) : (hideOpenBody tag w h backbone s).1.pending = s.pending := by
  unfold hideOpenBody
  refine checked_keeps State.pending ?_
  split <;> simp [refuse]

/-! ### rowsBody -/

@[simp] theorem rowsBody_book (s : State) (slot y x : Nat) (runs : List Run) : (rowsBody slot y x runs s).1.book = s.book := by
  unfold rowsBody
  exact onHide_keeps State.book fun g => checked_keeps State.book (by simp)
@[simp] theorem rowsBody_library (s : State) (slot y x : Nat) (runs : List Run) : (rowsBody slot y x runs s).1.library = s.library := by
  unfold rowsBody
  exact onHide_keeps State.library fun g => checked_keeps State.library (by simp)
@[simp] theorem rowsBody_engine (s : State) (slot y x : Nat) (runs : List Run) : (rowsBody slot y x runs s).1.engine = s.engine := by
  unfold rowsBody
  exact onHide_keeps State.engine fun g => checked_keeps State.engine (by simp)
@[simp] theorem rowsBody_arbiter (s : State) (slot y x : Nat) (runs : List Run) : (rowsBody slot y x runs s).1.arbiter = s.arbiter := by
  unfold rowsBody
  exact onHide_keeps State.arbiter fun g => checked_keeps State.arbiter (by simp)
@[simp] theorem rowsBody_chans (s : State) (slot y x : Nat) (runs : List Run) : (rowsBody slot y x runs s).1.chans = s.chans := by
  unfold rowsBody
  exact onHide_keeps State.chans fun g => checked_keeps State.chans (by simp)
@[simp] theorem rowsBody_profile (s : State) (slot y x : Nat) (runs : List Run) : (rowsBody slot y x runs s).1.profile = s.profile := by
  unfold rowsBody
  exact onHide_keeps State.profile fun g => checked_keeps State.profile (by simp)
@[simp] theorem rowsBody_links (s : State) (slot y x : Nat) (runs : List Run) : (rowsBody slot y x runs s).1.links = s.links := by
  unfold rowsBody
  exact onHide_keeps State.links fun g => checked_keeps State.links (by simp)
@[simp] theorem rowsBody_tape (s : State) (slot y x : Nat) (runs : List Run) : (rowsBody slot y x runs s).1.tape = s.tape := by
  unfold rowsBody
  exact onHide_keeps State.tape fun g => checked_keeps State.tape (by simp)
@[simp] theorem rowsBody_sent (s : State) (slot y x : Nat) (runs : List Run) : (rowsBody slot y x runs s).1.sent = s.sent := by
  unfold rowsBody
  exact onHide_keeps State.sent fun g => checked_keeps State.sent (by simp)
@[simp] theorem rowsBody_pending (s : State) (slot y x : Nat) (runs : List Run) : (rowsBody slot y x runs s).1.pending = s.pending := by
  unfold rowsBody
  exact onHide_keeps State.pending fun g => checked_keeps State.pending (by simp)

/-! ### thicknessBody -/

@[simp] theorem thicknessBody_book (s : State) (slot : Nat) (es : List Reading) : (thicknessBody slot es s).1.book = s.book := by
  unfold thicknessBody
  exact onHide_keeps State.book fun g => checked_keeps State.book (by simp)
@[simp] theorem thicknessBody_library (s : State) (slot : Nat) (es : List Reading) : (thicknessBody slot es s).1.library = s.library := by
  unfold thicknessBody
  exact onHide_keeps State.library fun g => checked_keeps State.library (by simp)
@[simp] theorem thicknessBody_grid (s : State) (slot : Nat) (es : List Reading) : (thicknessBody slot es s).1.grid = s.grid := by
  unfold thicknessBody
  exact onHide_keeps State.grid fun g => checked_keeps State.grid (by simp)
@[simp] theorem thicknessBody_engine (s : State) (slot : Nat) (es : List Reading) : (thicknessBody slot es s).1.engine = s.engine := by
  unfold thicknessBody
  exact onHide_keeps State.engine fun g => checked_keeps State.engine (by simp)
@[simp] theorem thicknessBody_arbiter (s : State) (slot : Nat) (es : List Reading) : (thicknessBody slot es s).1.arbiter = s.arbiter := by
  unfold thicknessBody
  exact onHide_keeps State.arbiter fun g => checked_keeps State.arbiter (by simp)
@[simp] theorem thicknessBody_chans (s : State) (slot : Nat) (es : List Reading) : (thicknessBody slot es s).1.chans = s.chans := by
  unfold thicknessBody
  exact onHide_keeps State.chans fun g => checked_keeps State.chans (by simp)
@[simp] theorem thicknessBody_attn (s : State) (slot : Nat) (es : List Reading) : (thicknessBody slot es s).1.attn = s.attn := by
  unfold thicknessBody
  exact onHide_keeps State.attn fun g => checked_keeps State.attn (by simp)
@[simp] theorem thicknessBody_profile (s : State) (slot : Nat) (es : List Reading) : (thicknessBody slot es s).1.profile = s.profile := by
  unfold thicknessBody
  exact onHide_keeps State.profile fun g => checked_keeps State.profile (by simp)
@[simp] theorem thicknessBody_links (s : State) (slot : Nat) (es : List Reading) : (thicknessBody slot es s).1.links = s.links := by
  unfold thicknessBody
  exact onHide_keeps State.links fun g => checked_keeps State.links (by simp)
@[simp] theorem thicknessBody_tape (s : State) (slot : Nat) (es : List Reading) : (thicknessBody slot es s).1.tape = s.tape := by
  unfold thicknessBody
  exact onHide_keeps State.tape fun g => checked_keeps State.tape (by simp)
@[simp] theorem thicknessBody_sent (s : State) (slot : Nat) (es : List Reading) : (thicknessBody slot es s).1.sent = s.sent := by
  unfold thicknessBody
  exact onHide_keeps State.sent fun g => checked_keeps State.sent (by simp)
@[simp] theorem thicknessBody_pending (s : State) (slot : Nat) (es : List Reading) : (thicknessBody slot es s).1.pending = s.pending := by
  unfold thicknessBody
  exact onHide_keeps State.pending fun g => checked_keeps State.pending (by simp)

/-! ### storeReadBody -/

@[simp] theorem storeReadBody_book (s : State) : (storeReadBody s).1.book = s.book := rfl
@[simp] theorem storeReadBody_library (s : State) : (storeReadBody s).1.library = s.library := rfl
@[simp] theorem storeReadBody_hides (s : State) : (storeReadBody s).1.hides = s.hides := rfl
@[simp] theorem storeReadBody_grid (s : State) : (storeReadBody s).1.grid = s.grid := rfl
@[simp] theorem storeReadBody_engine (s : State) : (storeReadBody s).1.engine = s.engine := rfl
@[simp] theorem storeReadBody_arbiter (s : State) : (storeReadBody s).1.arbiter = s.arbiter := rfl
@[simp] theorem storeReadBody_chans (s : State) : (storeReadBody s).1.chans = s.chans := rfl
@[simp] theorem storeReadBody_attn (s : State) : (storeReadBody s).1.attn = s.attn := rfl
@[simp] theorem storeReadBody_profile (s : State) : (storeReadBody s).1.profile = s.profile := rfl
@[simp] theorem storeReadBody_links (s : State) : (storeReadBody s).1.links = s.links := rfl
@[simp] theorem storeReadBody_tape (s : State) : (storeReadBody s).1.tape = s.tape := rfl
@[simp] theorem storeReadBody_sent (s : State) : (storeReadBody s).1.sent = s.sent := rfl
@[simp] theorem storeReadBody_pending (s : State) : (storeReadBody s).1.pending = s.pending := rfl

/-! ### flawBody -/

@[simp] theorem flawBody_library (s : State) (slot : Nat) (x : Flaw) : (flawBody slot x s).1.library = s.library := by
  unfold flawBody
  refine onHide_keeps State.library fun g => checked_keeps State.library ?_
  split <;> simp [stageFlaw, deferFlaw, lateFlaw]
@[simp] theorem flawBody_engine (s : State) (slot : Nat) (x : Flaw) : (flawBody slot x s).1.engine = s.engine := by
  unfold flawBody
  refine onHide_keeps State.engine fun g => checked_keeps State.engine ?_
  split <;> simp [stageFlaw, deferFlaw, lateFlaw]
@[simp] theorem flawBody_profile (s : State) (slot : Nat) (x : Flaw) : (flawBody slot x s).1.profile = s.profile := by
  unfold flawBody
  refine onHide_keeps State.profile fun g => checked_keeps State.profile ?_
  split <;> simp [stageFlaw, deferFlaw, lateFlaw]
@[simp] theorem flawBody_links (s : State) (slot : Nat) (x : Flaw) : (flawBody slot x s).1.links = s.links := by
  unfold flawBody
  refine onHide_keeps State.links fun g => checked_keeps State.links ?_
  split <;> simp [stageFlaw, deferFlaw, lateFlaw]
@[simp] theorem flawBody_sent (s : State) (slot : Nat) (x : Flaw) : (flawBody slot x s).1.sent = s.sent := by
  unfold flawBody
  refine onHide_keeps State.sent fun g => checked_keeps State.sent ?_
  split <;> simp [stageFlaw, deferFlaw, lateFlaw]
@[simp] theorem flawBody_pending (s : State) (slot : Nat) (x : Flaw) : (flawBody slot x s).1.pending = s.pending := by
  unfold flawBody
  refine onHide_keeps State.pending fun g => checked_keeps State.pending ?_
  split <;> simp [stageFlaw, deferFlaw, lateFlaw]

/-! ### flawsClearBody -/

@[simp] theorem flawsClearBody_book (s : State) (slot : Nat) : (flawsClearBody slot s).1.book = s.book := by
  unfold flawsClearBody
  exact onHide_keeps State.book fun g => by simp
@[simp] theorem flawsClearBody_library (s : State) (slot : Nat) : (flawsClearBody slot s).1.library = s.library := by
  unfold flawsClearBody
  exact onHide_keeps State.library fun g => by simp
@[simp] theorem flawsClearBody_grid (s : State) (slot : Nat) : (flawsClearBody slot s).1.grid = s.grid := by
  unfold flawsClearBody
  exact onHide_keeps State.grid fun g => by simp
@[simp] theorem flawsClearBody_engine (s : State) (slot : Nat) : (flawsClearBody slot s).1.engine = s.engine := by
  unfold flawsClearBody
  exact onHide_keeps State.engine fun g => by simp
@[simp] theorem flawsClearBody_arbiter (s : State) (slot : Nat) : (flawsClearBody slot s).1.arbiter = s.arbiter := by
  unfold flawsClearBody
  exact onHide_keeps State.arbiter fun g => by simp
@[simp] theorem flawsClearBody_chans (s : State) (slot : Nat) : (flawsClearBody slot s).1.chans = s.chans := by
  unfold flawsClearBody
  exact onHide_keeps State.chans fun g => by simp
@[simp] theorem flawsClearBody_attn (s : State) (slot : Nat) : (flawsClearBody slot s).1.attn = s.attn := by
  unfold flawsClearBody
  exact onHide_keeps State.attn fun g => by simp
@[simp] theorem flawsClearBody_profile (s : State) (slot : Nat) : (flawsClearBody slot s).1.profile = s.profile := by
  unfold flawsClearBody
  exact onHide_keeps State.profile fun g => by simp
@[simp] theorem flawsClearBody_links (s : State) (slot : Nat) : (flawsClearBody slot s).1.links = s.links := by
  unfold flawsClearBody
  exact onHide_keeps State.links fun g => by simp
@[simp] theorem flawsClearBody_tape (s : State) (slot : Nat) : (flawsClearBody slot s).1.tape = s.tape := by
  unfold flawsClearBody
  exact onHide_keeps State.tape fun g => by simp
@[simp] theorem flawsClearBody_sent (s : State) (slot : Nat) : (flawsClearBody slot s).1.sent = s.sent := by
  unfold flawsClearBody
  exact onHide_keeps State.sent fun g => by simp
@[simp] theorem flawsClearBody_pending (s : State) (slot : Nat) : (flawsClearBody slot s).1.pending = s.pending := by
  unfold flawsClearBody
  exact onHide_keeps State.pending fun g => by simp

/-! ### mapCommitBody -/

@[simp] theorem mapCommitBody_book (s : State) (slot : Nat) : (mapCommitBody slot s).1.book = s.book := by
  unfold mapCommitBody
  exact onHide_keeps State.book fun g => by simp
@[simp] theorem mapCommitBody_library (s : State) (slot : Nat) : (mapCommitBody slot s).1.library = s.library := by
  unfold mapCommitBody
  exact onHide_keeps State.library fun g => by simp
@[simp] theorem mapCommitBody_grid (s : State) (slot : Nat) : (mapCommitBody slot s).1.grid = s.grid := by
  unfold mapCommitBody
  exact onHide_keeps State.grid fun g => by simp
@[simp] theorem mapCommitBody_engine (s : State) (slot : Nat) : (mapCommitBody slot s).1.engine = s.engine := by
  unfold mapCommitBody
  exact onHide_keeps State.engine fun g => by simp
@[simp] theorem mapCommitBody_arbiter (s : State) (slot : Nat) : (mapCommitBody slot s).1.arbiter = s.arbiter := by
  unfold mapCommitBody
  exact onHide_keeps State.arbiter fun g => by simp
@[simp] theorem mapCommitBody_chans (s : State) (slot : Nat) : (mapCommitBody slot s).1.chans = s.chans := by
  unfold mapCommitBody
  exact onHide_keeps State.chans fun g => by simp
@[simp] theorem mapCommitBody_attn (s : State) (slot : Nat) : (mapCommitBody slot s).1.attn = s.attn := by
  unfold mapCommitBody
  exact onHide_keeps State.attn fun g => by simp
@[simp] theorem mapCommitBody_profile (s : State) (slot : Nat) : (mapCommitBody slot s).1.profile = s.profile := by
  unfold mapCommitBody
  exact onHide_keeps State.profile fun g => by simp
@[simp] theorem mapCommitBody_links (s : State) (slot : Nat) : (mapCommitBody slot s).1.links = s.links := by
  unfold mapCommitBody
  exact onHide_keeps State.links fun g => by simp
@[simp] theorem mapCommitBody_tape (s : State) (slot : Nat) : (mapCommitBody slot s).1.tape = s.tape := by
  unfold mapCommitBody
  exact onHide_keeps State.tape fun g => by simp
@[simp] theorem mapCommitBody_sent (s : State) (slot : Nat) : (mapCommitBody slot s).1.sent = s.sent := by
  unfold mapCommitBody
  exact onHide_keeps State.sent fun g => by simp
@[simp] theorem mapCommitBody_pending (s : State) (slot : Nat) : (mapCommitBody slot s).1.pending = s.pending := by
  unfold mapCommitBody
  exact onHide_keeps State.pending fun g => by simp

/-! ### hideReadBody -/

@[simp] theorem hideReadBody_book (s : State) (slot : Nat) : (hideReadBody slot s).1.book = s.book := by
  unfold hideReadBody
  exact checked_keeps State.book rfl
@[simp] theorem hideReadBody_library (s : State) (slot : Nat) : (hideReadBody slot s).1.library = s.library := by
  unfold hideReadBody
  exact checked_keeps State.library rfl
@[simp] theorem hideReadBody_hides (s : State) (slot : Nat) : (hideReadBody slot s).1.hides = s.hides := by
  unfold hideReadBody
  exact checked_keeps State.hides rfl
@[simp] theorem hideReadBody_grid (s : State) (slot : Nat) : (hideReadBody slot s).1.grid = s.grid := by
  unfold hideReadBody
  exact checked_keeps State.grid rfl
@[simp] theorem hideReadBody_engine (s : State) (slot : Nat) : (hideReadBody slot s).1.engine = s.engine := by
  unfold hideReadBody
  exact checked_keeps State.engine rfl
@[simp] theorem hideReadBody_arbiter (s : State) (slot : Nat) : (hideReadBody slot s).1.arbiter = s.arbiter := by
  unfold hideReadBody
  exact checked_keeps State.arbiter rfl
@[simp] theorem hideReadBody_chans (s : State) (slot : Nat) : (hideReadBody slot s).1.chans = s.chans := by
  unfold hideReadBody
  exact checked_keeps State.chans rfl
@[simp] theorem hideReadBody_attn (s : State) (slot : Nat) : (hideReadBody slot s).1.attn = s.attn := by
  unfold hideReadBody
  exact checked_keeps State.attn rfl
@[simp] theorem hideReadBody_profile (s : State) (slot : Nat) : (hideReadBody slot s).1.profile = s.profile := by
  unfold hideReadBody
  exact checked_keeps State.profile rfl
@[simp] theorem hideReadBody_links (s : State) (slot : Nat) : (hideReadBody slot s).1.links = s.links := by
  unfold hideReadBody
  exact checked_keeps State.links rfl
@[simp] theorem hideReadBody_tape (s : State) (slot : Nat) : (hideReadBody slot s).1.tape = s.tape := by
  unfold hideReadBody
  exact checked_keeps State.tape rfl
@[simp] theorem hideReadBody_sent (s : State) (slot : Nat) : (hideReadBody slot s).1.sent = s.sent := by
  unfold hideReadBody
  exact checked_keeps State.sent rfl
@[simp] theorem hideReadBody_pending (s : State) (slot : Nat) : (hideReadBody slot s).1.pending = s.pending := by
  unfold hideReadBody
  exact checked_keeps State.pending rfl

/-! ### placementsReadBody -/

@[simp] theorem placementsReadBody_book (s : State) (slot first : Nat) : (placementsReadBody slot first s).1.book = s.book := by
  unfold placementsReadBody
  exact onHide_keeps State.book fun g => checked_keeps State.book rfl
@[simp] theorem placementsReadBody_library (s : State) (slot first : Nat) : (placementsReadBody slot first s).1.library = s.library := by
  unfold placementsReadBody
  exact onHide_keeps State.library fun g => checked_keeps State.library rfl
@[simp] theorem placementsReadBody_hides (s : State) (slot first : Nat) : (placementsReadBody slot first s).1.hides = s.hides := by
  unfold placementsReadBody
  exact onHide_keeps State.hides fun g => checked_keeps State.hides rfl
@[simp] theorem placementsReadBody_grid (s : State) (slot first : Nat) : (placementsReadBody slot first s).1.grid = s.grid := by
  unfold placementsReadBody
  exact onHide_keeps State.grid fun g => checked_keeps State.grid rfl
@[simp] theorem placementsReadBody_engine (s : State) (slot first : Nat) : (placementsReadBody slot first s).1.engine = s.engine := by
  unfold placementsReadBody
  exact onHide_keeps State.engine fun g => checked_keeps State.engine rfl
@[simp] theorem placementsReadBody_arbiter (s : State) (slot first : Nat) : (placementsReadBody slot first s).1.arbiter = s.arbiter := by
  unfold placementsReadBody
  exact onHide_keeps State.arbiter fun g => checked_keeps State.arbiter rfl
@[simp] theorem placementsReadBody_chans (s : State) (slot first : Nat) : (placementsReadBody slot first s).1.chans = s.chans := by
  unfold placementsReadBody
  exact onHide_keeps State.chans fun g => checked_keeps State.chans rfl
@[simp] theorem placementsReadBody_attn (s : State) (slot first : Nat) : (placementsReadBody slot first s).1.attn = s.attn := by
  unfold placementsReadBody
  exact onHide_keeps State.attn fun g => checked_keeps State.attn rfl
@[simp] theorem placementsReadBody_profile (s : State) (slot first : Nat) : (placementsReadBody slot first s).1.profile = s.profile := by
  unfold placementsReadBody
  exact onHide_keeps State.profile fun g => checked_keeps State.profile rfl
@[simp] theorem placementsReadBody_links (s : State) (slot first : Nat) : (placementsReadBody slot first s).1.links = s.links := by
  unfold placementsReadBody
  exact onHide_keeps State.links fun g => checked_keeps State.links rfl
@[simp] theorem placementsReadBody_tape (s : State) (slot first : Nat) : (placementsReadBody slot first s).1.tape = s.tape := by
  unfold placementsReadBody
  exact onHide_keeps State.tape fun g => checked_keeps State.tape rfl
@[simp] theorem placementsReadBody_sent (s : State) (slot first : Nat) : (placementsReadBody slot first s).1.sent = s.sent := by
  unfold placementsReadBody
  exact onHide_keeps State.sent fun g => checked_keeps State.sent rfl
@[simp] theorem placementsReadBody_pending (s : State) (slot first : Nat) : (placementsReadBody slot first s).1.pending = s.pending := by
  unfold placementsReadBody
  exact onHide_keeps State.pending fun g => checked_keeps State.pending rfl

/-! ### discardBody -/

@[simp] theorem discardBody_library (s : State) (slot : Nat) : (discardBody slot s).1.library = s.library := by
  unfold discardBody
  refine onHide_keeps State.library fun g => ?_
  split <;> simp
@[simp] theorem discardBody_profile (s : State) (slot : Nat) : (discardBody slot s).1.profile = s.profile := by
  unfold discardBody
  refine onHide_keeps State.profile fun g => ?_
  split <;> simp
@[simp] theorem discardBody_links (s : State) (slot : Nat) : (discardBody slot s).1.links = s.links := by
  unfold discardBody
  refine onHide_keeps State.links fun g => ?_
  split <;> simp
@[simp] theorem discardBody_tape (s : State) (slot : Nat) : (discardBody slot s).1.tape = s.tape := by
  unfold discardBody
  refine onHide_keeps State.tape fun g => ?_
  split <;> simp
@[simp] theorem discardBody_sent (s : State) (slot : Nat) : (discardBody slot s).1.sent = s.sent := by
  unfold discardBody
  refine onHide_keeps State.sent fun g => ?_
  split <;> simp
@[simp] theorem discardBody_pending (s : State) (slot : Nat) : (discardBody slot s).1.pending = s.pending := by
  unfold discardBody
  refine onHide_keeps State.pending fun g => ?_
  split <;> simp

/-! ### closeBody -/

@[simp] theorem closeBody_book (s : State) (slot : Nat) : (closeBody slot s).1.book = s.book := by
  unfold closeBody
  exact onHide_keeps State.book fun g => by simp
@[simp] theorem closeBody_library (s : State) (slot : Nat) : (closeBody slot s).1.library = s.library := by
  unfold closeBody
  exact onHide_keeps State.library fun g => by simp
@[simp] theorem closeBody_engine (s : State) (slot : Nat) : (closeBody slot s).1.engine = s.engine := by
  unfold closeBody
  exact onHide_keeps State.engine fun g => by simp
@[simp] theorem closeBody_arbiter (s : State) (slot : Nat) : (closeBody slot s).1.arbiter = s.arbiter := by
  unfold closeBody
  exact onHide_keeps State.arbiter fun g => by simp
@[simp] theorem closeBody_chans (s : State) (slot : Nat) : (closeBody slot s).1.chans = s.chans := by
  unfold closeBody
  exact onHide_keeps State.chans fun g => by simp
@[simp] theorem closeBody_profile (s : State) (slot : Nat) : (closeBody slot s).1.profile = s.profile := by
  unfold closeBody
  exact onHide_keeps State.profile fun g => by simp
@[simp] theorem closeBody_links (s : State) (slot : Nat) : (closeBody slot s).1.links = s.links := by
  unfold closeBody
  exact onHide_keeps State.links fun g => by simp
@[simp] theorem closeBody_tape (s : State) (slot : Nat) : (closeBody slot s).1.tape = s.tape := by
  unfold closeBody
  exact onHide_keeps State.tape fun g => by simp
@[simp] theorem closeBody_sent (s : State) (slot : Nat) : (closeBody slot s).1.sent = s.sent := by
  unfold closeBody
  exact onHide_keeps State.sent fun g => by simp
@[simp] theorem closeBody_pending (s : State) (slot : Nat) : (closeBody slot s).1.pending = s.pending := by
  unfold closeBody
  exact onHide_keeps State.pending fun g => by simp

/-! ### nestBody -/

@[simp] theorem nestBody_book (s : State) (slot : Nat) (steps : List StepReq) : (nestBody slot steps s).1.book = s.book := by
  unfold nestBody
  exact onHide_keeps State.book fun g => checked_keeps State.book (by simp)
@[simp] theorem nestBody_library (s : State) (slot : Nat) (steps : List StepReq) : (nestBody slot steps s).1.library = s.library := by
  unfold nestBody
  exact onHide_keeps State.library fun g => checked_keeps State.library (by simp)
@[simp] theorem nestBody_grid (s : State) (slot : Nat) (steps : List StepReq) : (nestBody slot steps s).1.grid = s.grid := by
  unfold nestBody
  exact onHide_keeps State.grid fun g => checked_keeps State.grid (by simp)
@[simp] theorem nestBody_arbiter (s : State) (slot : Nat) (steps : List StepReq) : (nestBody slot steps s).1.arbiter = s.arbiter := by
  unfold nestBody
  exact onHide_keeps State.arbiter fun g => checked_keeps State.arbiter (by simp)
@[simp] theorem nestBody_chans (s : State) (slot : Nat) (steps : List StepReq) : (nestBody slot steps s).1.chans = s.chans := by
  unfold nestBody
  exact onHide_keeps State.chans fun g => checked_keeps State.chans (by simp)
@[simp] theorem nestBody_attn (s : State) (slot : Nat) (steps : List StepReq) : (nestBody slot steps s).1.attn = s.attn := by
  unfold nestBody
  exact onHide_keeps State.attn fun g => checked_keeps State.attn (by simp)
@[simp] theorem nestBody_profile (s : State) (slot : Nat) (steps : List StepReq) : (nestBody slot steps s).1.profile = s.profile := by
  unfold nestBody
  exact onHide_keeps State.profile fun g => checked_keeps State.profile (by simp)
@[simp] theorem nestBody_links (s : State) (slot : Nat) (steps : List StepReq) : (nestBody slot steps s).1.links = s.links := by
  unfold nestBody
  exact onHide_keeps State.links fun g => checked_keeps State.links (by simp)
@[simp] theorem nestBody_tape (s : State) (slot : Nat) (steps : List StepReq) : (nestBody slot steps s).1.tape = s.tape := by
  unfold nestBody
  exact onHide_keeps State.tape fun g => checked_keeps State.tape (by simp)
@[simp] theorem nestBody_sent (s : State) (slot : Nat) (steps : List StepReq) : (nestBody slot steps s).1.sent = s.sent := by
  unfold nestBody
  exact onHide_keeps State.sent fun g => checked_keeps State.sent (by simp)
@[simp] theorem nestBody_pending (s : State) (slot : Nat) (steps : List StepReq) : (nestBody slot steps s).1.pending = s.pending := by
  unfold nestBody
  exact onHide_keeps State.pending fun g => checked_keeps State.pending (by simp)

/-! ### placeWork -/

@[simp] theorem placeWork_library (s : State) (slot line ps o x y n : Nat) : (placeWork slot line ps o x y n s).1.library = s.library := by
  unfold placeWork
  dsimp only
  split
  · simp
  · split
    · simp [refuse]
    · next t ht => simp [claimReserve_library ht]
@[simp] theorem placeWork_engine (s : State) (slot line ps o x y n : Nat) : (placeWork slot line ps o x y n s).1.engine = s.engine := by
  unfold placeWork
  dsimp only
  split
  · simp
  · split
    · simp [refuse]
    · next t ht => simp [claimReserve_engine ht]
@[simp] theorem placeWork_profile (s : State) (slot line ps o x y n : Nat) : (placeWork slot line ps o x y n s).1.profile = s.profile := by
  unfold placeWork
  dsimp only
  split
  · simp
  · split
    · simp [refuse]
    · next t ht => simp [claimReserve_profile ht]
@[simp] theorem placeWork_links (s : State) (slot line ps o x y n : Nat) : (placeWork slot line ps o x y n s).1.links = s.links := by
  unfold placeWork
  dsimp only
  split
  · simp
  · split
    · simp [refuse]
    · next t ht => simp [claimReserve_links ht]
@[simp] theorem placeWork_sent (s : State) (slot line ps o x y n : Nat) : (placeWork slot line ps o x y n s).1.sent = s.sent := by
  unfold placeWork
  dsimp only
  split
  · simp
  · split
    · simp [refuse]
    · next t ht => simp [claimReserve_sent ht]
@[simp] theorem placeWork_pending (s : State) (slot line ps o x y n : Nat) : (placeWork slot line ps o x y n s).1.pending = s.pending := by
  unfold placeWork
  dsimp only
  split
  · simp
  · split
    · simp [refuse]
    · next t ht => simp [claimReserve_pending ht]

/-! ### placeBody -/

@[simp] theorem placeBody_library (s : State) (slot line o x y : Nat) : (placeBody slot line o x y s).1.library = s.library := by
  unfold placeBody
  refine onHide_keeps State.library fun g => ?_
  split
  · rfl
  · exact checked_keeps State.library (by simp)
@[simp] theorem placeBody_engine (s : State) (slot line o x y : Nat) : (placeBody slot line o x y s).1.engine = s.engine := by
  unfold placeBody
  refine onHide_keeps State.engine fun g => ?_
  split
  · rfl
  · exact checked_keeps State.engine (by simp)
@[simp] theorem placeBody_profile (s : State) (slot line o x y : Nat) : (placeBody slot line o x y s).1.profile = s.profile := by
  unfold placeBody
  refine onHide_keeps State.profile fun g => ?_
  split
  · rfl
  · exact checked_keeps State.profile (by simp)
@[simp] theorem placeBody_links (s : State) (slot line o x y : Nat) : (placeBody slot line o x y s).1.links = s.links := by
  unfold placeBody
  refine onHide_keeps State.links fun g => ?_
  split
  · rfl
  · exact checked_keeps State.links (by simp)
@[simp] theorem placeBody_sent (s : State) (slot line o x y : Nat) : (placeBody slot line o x y s).1.sent = s.sent := by
  unfold placeBody
  refine onHide_keeps State.sent fun g => ?_
  split
  · rfl
  · exact checked_keeps State.sent (by simp)
@[simp] theorem placeBody_pending (s : State) (slot line o x y : Nat) : (placeBody slot line o x y s).1.pending = s.pending := by
  unfold placeBody
  refine onHide_keeps State.pending fun g => ?_
  split
  · rfl
  · exact checked_keeps State.pending (by simp)

/-! ### placePairWork -/

@[simp] theorem placePairWork_library (s : State) (slot line mirror slot1 slot2 : Nat) (a b : Spot) (n : Nat) : (placePairWork slot line mirror slot1 slot2 a b n s).1.library = s.library := by
  unfold placePairWork
  dsimp only
  split
  · simp
  · split
    · simp
    · split
      · simp [refuse]
      · next t ht => simp [reserveBoth_library ht]
@[simp] theorem placePairWork_engine (s : State) (slot line mirror slot1 slot2 : Nat) (a b : Spot) (n : Nat) : (placePairWork slot line mirror slot1 slot2 a b n s).1.engine = s.engine := by
  unfold placePairWork
  dsimp only
  split
  · simp
  · split
    · simp
    · split
      · simp [refuse]
      · next t ht => simp [reserveBoth_engine ht]
@[simp] theorem placePairWork_profile (s : State) (slot line mirror slot1 slot2 : Nat) (a b : Spot) (n : Nat) : (placePairWork slot line mirror slot1 slot2 a b n s).1.profile = s.profile := by
  unfold placePairWork
  dsimp only
  split
  · simp
  · split
    · simp
    · split
      · simp [refuse]
      · next t ht => simp [reserveBoth_profile ht]
@[simp] theorem placePairWork_links (s : State) (slot line mirror slot1 slot2 : Nat) (a b : Spot) (n : Nat) : (placePairWork slot line mirror slot1 slot2 a b n s).1.links = s.links := by
  unfold placePairWork
  dsimp only
  split
  · simp
  · split
    · simp
    · split
      · simp [refuse]
      · next t ht => simp [reserveBoth_links ht]
@[simp] theorem placePairWork_sent (s : State) (slot line mirror slot1 slot2 : Nat) (a b : Spot) (n : Nat) : (placePairWork slot line mirror slot1 slot2 a b n s).1.sent = s.sent := by
  unfold placePairWork
  dsimp only
  split
  · simp
  · split
    · simp
    · split
      · simp [refuse]
      · next t ht => simp [reserveBoth_sent ht]
@[simp] theorem placePairWork_pending (s : State) (slot line mirror slot1 slot2 : Nat) (a b : Spot) (n : Nat) : (placePairWork slot line mirror slot1 slot2 a b n s).1.pending = s.pending := by
  unfold placePairWork
  dsimp only
  split
  · simp
  · split
    · simp
    · split
      · simp [refuse]
      · next t ht => simp [reserveBoth_pending ht]

/-! ### placePairBody -/

@[simp] theorem placePairBody_library (s : State) (slot line : Nat) (a b : Spot) : (placePairBody slot line a b s).1.library = s.library := by
  unfold placePairBody
  refine onHide_keeps State.library fun g => ?_
  split
  · rfl
  · exact checked_keeps State.library (by simp)
@[simp] theorem placePairBody_engine (s : State) (slot line : Nat) (a b : Spot) : (placePairBody slot line a b s).1.engine = s.engine := by
  unfold placePairBody
  refine onHide_keeps State.engine fun g => ?_
  split
  · rfl
  · exact checked_keeps State.engine (by simp)
@[simp] theorem placePairBody_profile (s : State) (slot line : Nat) (a b : Spot) : (placePairBody slot line a b s).1.profile = s.profile := by
  unfold placePairBody
  refine onHide_keeps State.profile fun g => ?_
  split
  · rfl
  · exact checked_keeps State.profile (by simp)
@[simp] theorem placePairBody_links (s : State) (slot line : Nat) (a b : Spot) : (placePairBody slot line a b s).1.links = s.links := by
  unfold placePairBody
  refine onHide_keeps State.links fun g => ?_
  split
  · rfl
  · exact checked_keeps State.links (by simp)
@[simp] theorem placePairBody_sent (s : State) (slot line : Nat) (a b : Spot) : (placePairBody slot line a b s).1.sent = s.sent := by
  unfold placePairBody
  refine onHide_keeps State.sent fun g => ?_
  split
  · rfl
  · exact checked_keeps State.sent (by simp)
@[simp] theorem placePairBody_pending (s : State) (slot line : Nat) (a b : Spot) : (placePairBody slot line a b s).1.pending = s.pending := by
  unfold placePairBody
  refine onHide_keeps State.pending fun g => ?_
  split
  · rfl
  · exact checked_keeps State.pending (by simp)

/-! ### strikeBody -/

@[simp] theorem strikeBody_library (s : State) (slot i : Nat) : (strikeBody slot i s).1.library = s.library := by
  unfold strikeBody
  exact onHide_keeps State.library fun g => checked_keeps State.library (by simp)
@[simp] theorem strikeBody_engine (s : State) (slot i : Nat) : (strikeBody slot i s).1.engine = s.engine := by
  unfold strikeBody
  exact onHide_keeps State.engine fun g => checked_keeps State.engine (by simp)
@[simp] theorem strikeBody_profile (s : State) (slot i : Nat) : (strikeBody slot i s).1.profile = s.profile := by
  unfold strikeBody
  exact onHide_keeps State.profile fun g => checked_keeps State.profile (by simp)
@[simp] theorem strikeBody_links (s : State) (slot i : Nat) : (strikeBody slot i s).1.links = s.links := by
  unfold strikeBody
  exact onHide_keeps State.links fun g => checked_keeps State.links (by simp)
@[simp] theorem strikeBody_tape (s : State) (slot i : Nat) : (strikeBody slot i s).1.tape = s.tape := by
  unfold strikeBody
  exact onHide_keeps State.tape fun g => checked_keeps State.tape (by simp)
@[simp] theorem strikeBody_sent (s : State) (slot i : Nat) : (strikeBody slot i s).1.sent = s.sent := by
  unfold strikeBody
  exact onHide_keeps State.sent fun g => checked_keeps State.sent (by simp)
@[simp] theorem strikeBody_pending (s : State) (slot i : Nat) : (strikeBody slot i s).1.pending = s.pending := by
  unfold strikeBody
  exact onHide_keeps State.pending fun g => checked_keeps State.pending (by simp)

/-! ### releaseBody -/

@[simp] theorem releaseBody_book (s : State) (slot u : Nat) (m : Byte) : (releaseBody slot u m s).1.book = s.book := by
  unfold releaseBody
  exact onHide_keeps State.book fun g => checked_keeps State.book (by simp)
@[simp] theorem releaseBody_library (s : State) (slot u : Nat) (m : Byte) : (releaseBody slot u m s).1.library = s.library := by
  unfold releaseBody
  exact onHide_keeps State.library fun g => checked_keeps State.library (by simp)
@[simp] theorem releaseBody_grid (s : State) (slot u : Nat) (m : Byte) : (releaseBody slot u m s).1.grid = s.grid := by
  unfold releaseBody
  exact onHide_keeps State.grid fun g => checked_keeps State.grid (by simp)
@[simp] theorem releaseBody_engine (s : State) (slot u : Nat) (m : Byte) : (releaseBody slot u m s).1.engine = s.engine := by
  unfold releaseBody
  exact onHide_keeps State.engine fun g => checked_keeps State.engine (by simp)
@[simp] theorem releaseBody_attn (s : State) (slot u : Nat) (m : Byte) : (releaseBody slot u m s).1.attn = s.attn := by
  unfold releaseBody
  exact onHide_keeps State.attn fun g => checked_keeps State.attn (by simp)
@[simp] theorem releaseBody_profile (s : State) (slot u : Nat) (m : Byte) : (releaseBody slot u m s).1.profile = s.profile := by
  unfold releaseBody
  exact onHide_keeps State.profile fun g => checked_keeps State.profile (by simp)
@[simp] theorem releaseBody_links (s : State) (slot u : Nat) (m : Byte) : (releaseBody slot u m s).1.links = s.links := by
  unfold releaseBody
  exact onHide_keeps State.links fun g => checked_keeps State.links (by simp)
@[simp] theorem releaseBody_tape (s : State) (slot u : Nat) (m : Byte) : (releaseBody slot u m s).1.tape = s.tape := by
  unfold releaseBody
  exact onHide_keeps State.tape fun g => checked_keeps State.tape (by simp)
@[simp] theorem releaseBody_sent (s : State) (slot u : Nat) (m : Byte) : (releaseBody slot u m s).1.sent = s.sent := by
  unfold releaseBody
  exact onHide_keeps State.sent fun g => checked_keeps State.sent (by simp)
@[simp] theorem releaseBody_pending (s : State) (slot u : Nat) (m : Byte) : (releaseBody slot u m s).1.pending = s.pending := by
  unfold releaseBody
  exact onHide_keeps State.pending fun g => checked_keeps State.pending (by simp)

/-! ### holdBody -/

@[simp] theorem holdBody_book (s : State) : (holdBody s).1.book = s.book := rfl
@[simp] theorem holdBody_library (s : State) : (holdBody s).1.library = s.library := rfl
@[simp] theorem holdBody_hides (s : State) : (holdBody s).1.hides = s.hides := rfl
@[simp] theorem holdBody_grid (s : State) : (holdBody s).1.grid = s.grid := rfl
@[simp] theorem holdBody_engine (s : State) : (holdBody s).1.engine = s.engine := rfl
@[simp] theorem holdBody_attn (s : State) : (holdBody s).1.attn = s.attn := rfl
@[simp] theorem holdBody_profile (s : State) : (holdBody s).1.profile = s.profile := rfl
@[simp] theorem holdBody_links (s : State) : (holdBody s).1.links = s.links := rfl
@[simp] theorem holdBody_tape (s : State) : (holdBody s).1.tape = s.tape := rfl
@[simp] theorem holdBody_sent (s : State) : (holdBody s).1.sent = s.sent := rfl
@[simp] theorem holdBody_pending (s : State) : (holdBody s).1.pending = s.pending := rfl

/-! ### runBody -/

@[simp] theorem runBody_book (s : State) : (runBody s).1.book = s.book := by simp [runBody]
@[simp] theorem runBody_library (s : State) : (runBody s).1.library = s.library := by simp [runBody]
@[simp] theorem runBody_grid (s : State) : (runBody s).1.grid = s.grid := by simp [runBody]
@[simp] theorem runBody_engine (s : State) : (runBody s).1.engine = s.engine := by simp [runBody]
@[simp] theorem runBody_attn (s : State) : (runBody s).1.attn = s.attn := by simp [runBody]
@[simp] theorem runBody_profile (s : State) : (runBody s).1.profile = s.profile := by simp [runBody]
@[simp] theorem runBody_links (s : State) : (runBody s).1.links = s.links := by simp [runBody]
@[simp] theorem runBody_tape (s : State) : (runBody s).1.tape = s.tape := by simp [runBody]
@[simp] theorem runBody_sent (s : State) : (runBody s).1.sent = s.sent := by simp [runBody]
@[simp] theorem runBody_pending (s : State) : (runBody s).1.pending = s.pending := by simp [runBody]

/-! ### cutterEnableBody -/

@[simp] theorem cutterEnableBody_book (s : State) (k : Nat) : (cutterEnableBody k s).1.book = s.book := by
  unfold cutterEnableBody
  exact onChannel_keeps State.book fun c => by simp
@[simp] theorem cutterEnableBody_library (s : State) (k : Nat) : (cutterEnableBody k s).1.library = s.library := by
  unfold cutterEnableBody
  exact onChannel_keeps State.library fun c => by simp
@[simp] theorem cutterEnableBody_grid (s : State) (k : Nat) : (cutterEnableBody k s).1.grid = s.grid := by
  unfold cutterEnableBody
  exact onChannel_keeps State.grid fun c => by simp
@[simp] theorem cutterEnableBody_engine (s : State) (k : Nat) : (cutterEnableBody k s).1.engine = s.engine := by
  unfold cutterEnableBody
  exact onChannel_keeps State.engine fun c => by simp
@[simp] theorem cutterEnableBody_attn (s : State) (k : Nat) : (cutterEnableBody k s).1.attn = s.attn := by
  unfold cutterEnableBody
  exact onChannel_keeps State.attn fun c => by simp
@[simp] theorem cutterEnableBody_profile (s : State) (k : Nat) : (cutterEnableBody k s).1.profile = s.profile := by
  unfold cutterEnableBody
  exact onChannel_keeps State.profile fun c => by simp
@[simp] theorem cutterEnableBody_links (s : State) (k : Nat) : (cutterEnableBody k s).1.links = s.links := by
  unfold cutterEnableBody
  exact onChannel_keeps State.links fun c => by simp
@[simp] theorem cutterEnableBody_tape (s : State) (k : Nat) : (cutterEnableBody k s).1.tape = s.tape := by
  unfold cutterEnableBody
  exact onChannel_keeps State.tape fun c => by simp
@[simp] theorem cutterEnableBody_sent (s : State) (k : Nat) : (cutterEnableBody k s).1.sent = s.sent := by
  unfold cutterEnableBody
  exact onChannel_keeps State.sent fun c => by simp
@[simp] theorem cutterEnableBody_pending (s : State) (k : Nat) : (cutterEnableBody k s).1.pending = s.pending := by
  unfold cutterEnableBody
  exact onChannel_keeps State.pending fun c => by simp

/-! ### cutterDisableBody -/

@[simp] theorem cutterDisableBody_book (s : State) (k : Nat) : (cutterDisableBody k s).1.book = s.book := by
  unfold cutterDisableBody
  refine onChannel_keeps State.book fun c => ?_
  split <;> simp [refuse]
@[simp] theorem cutterDisableBody_library (s : State) (k : Nat) : (cutterDisableBody k s).1.library = s.library := by
  unfold cutterDisableBody
  refine onChannel_keeps State.library fun c => ?_
  split <;> simp [refuse]
@[simp] theorem cutterDisableBody_hides (s : State) (k : Nat) : (cutterDisableBody k s).1.hides = s.hides := by
  unfold cutterDisableBody
  refine onChannel_keeps State.hides fun c => ?_
  split <;> simp [refuse]
@[simp] theorem cutterDisableBody_grid (s : State) (k : Nat) : (cutterDisableBody k s).1.grid = s.grid := by
  unfold cutterDisableBody
  refine onChannel_keeps State.grid fun c => ?_
  split <;> simp [refuse]
@[simp] theorem cutterDisableBody_engine (s : State) (k : Nat) : (cutterDisableBody k s).1.engine = s.engine := by
  unfold cutterDisableBody
  refine onChannel_keeps State.engine fun c => ?_
  split <;> simp [refuse]
@[simp] theorem cutterDisableBody_arbiter (s : State) (k : Nat) : (cutterDisableBody k s).1.arbiter = s.arbiter := by
  unfold cutterDisableBody
  refine onChannel_keeps State.arbiter fun c => ?_
  split <;> simp [refuse]
@[simp] theorem cutterDisableBody_attn (s : State) (k : Nat) : (cutterDisableBody k s).1.attn = s.attn := by
  unfold cutterDisableBody
  refine onChannel_keeps State.attn fun c => ?_
  split <;> simp [refuse]
@[simp] theorem cutterDisableBody_profile (s : State) (k : Nat) : (cutterDisableBody k s).1.profile = s.profile := by
  unfold cutterDisableBody
  refine onChannel_keeps State.profile fun c => ?_
  split <;> simp [refuse]
@[simp] theorem cutterDisableBody_links (s : State) (k : Nat) : (cutterDisableBody k s).1.links = s.links := by
  unfold cutterDisableBody
  refine onChannel_keeps State.links fun c => ?_
  split <;> simp [refuse]
@[simp] theorem cutterDisableBody_tape (s : State) (k : Nat) : (cutterDisableBody k s).1.tape = s.tape := by
  unfold cutterDisableBody
  refine onChannel_keeps State.tape fun c => ?_
  split <;> simp [refuse]
@[simp] theorem cutterDisableBody_sent (s : State) (k : Nat) : (cutterDisableBody k s).1.sent = s.sent := by
  unfold cutterDisableBody
  refine onChannel_keeps State.sent fun c => ?_
  split <;> simp [refuse]
@[simp] theorem cutterDisableBody_pending (s : State) (k : Nat) : (cutterDisableBody k s).1.pending = s.pending := by
  unfold cutterDisableBody
  refine onChannel_keeps State.pending fun c => ?_
  split <;> simp [refuse]

/-! ### cutterResetBody -/

@[simp] theorem cutterResetBody_library (s : State) (k : Nat) : (cutterResetBody k s).1.library = s.library := by
  unfold cutterResetBody
  exact onChannel_keeps State.library fun c => by simp
@[simp] theorem cutterResetBody_profile (s : State) (k : Nat) : (cutterResetBody k s).1.profile = s.profile := by
  unfold cutterResetBody
  exact onChannel_keeps State.profile fun c => by simp
@[simp] theorem cutterResetBody_links (s : State) (k : Nat) : (cutterResetBody k s).1.links = s.links := by
  unfold cutterResetBody
  exact onChannel_keeps State.links fun c => by simp
@[simp] theorem cutterResetBody_sent (s : State) (k : Nat) : (cutterResetBody k s).1.sent = s.sent := by
  unfold cutterResetBody
  exact onChannel_keeps State.sent fun c => by simp
@[simp] theorem cutterResetBody_pending (s : State) (k : Nat) : (cutterResetBody k s).1.pending = s.pending := by
  unfold cutterResetBody
  exact onChannel_keeps State.pending fun c => by simp

/-! ### cutterReadBody -/

@[simp] theorem cutterReadBody_book (s : State) (k : Nat) : (cutterReadBody k s).1.book = s.book := by
  unfold cutterReadBody
  exact onChannel_keeps State.book fun c => by simp
@[simp] theorem cutterReadBody_library (s : State) (k : Nat) : (cutterReadBody k s).1.library = s.library := by
  unfold cutterReadBody
  exact onChannel_keeps State.library fun c => by simp
@[simp] theorem cutterReadBody_hides (s : State) (k : Nat) : (cutterReadBody k s).1.hides = s.hides := by
  unfold cutterReadBody
  exact onChannel_keeps State.hides fun c => by simp
@[simp] theorem cutterReadBody_grid (s : State) (k : Nat) : (cutterReadBody k s).1.grid = s.grid := by
  unfold cutterReadBody
  exact onChannel_keeps State.grid fun c => by simp
@[simp] theorem cutterReadBody_engine (s : State) (k : Nat) : (cutterReadBody k s).1.engine = s.engine := by
  unfold cutterReadBody
  exact onChannel_keeps State.engine fun c => by simp
@[simp] theorem cutterReadBody_arbiter (s : State) (k : Nat) : (cutterReadBody k s).1.arbiter = s.arbiter := by
  unfold cutterReadBody
  exact onChannel_keeps State.arbiter fun c => by simp
@[simp] theorem cutterReadBody_chans (s : State) (k : Nat) : (cutterReadBody k s).1.chans = s.chans := by
  unfold cutterReadBody
  exact onChannel_keeps State.chans fun c => by simp
@[simp] theorem cutterReadBody_attn (s : State) (k : Nat) : (cutterReadBody k s).1.attn = s.attn := by
  unfold cutterReadBody
  exact onChannel_keeps State.attn fun c => by simp
@[simp] theorem cutterReadBody_profile (s : State) (k : Nat) : (cutterReadBody k s).1.profile = s.profile := by
  unfold cutterReadBody
  exact onChannel_keeps State.profile fun c => by simp
@[simp] theorem cutterReadBody_links (s : State) (k : Nat) : (cutterReadBody k s).1.links = s.links := by
  unfold cutterReadBody
  exact onChannel_keeps State.links fun c => by simp
@[simp] theorem cutterReadBody_tape (s : State) (k : Nat) : (cutterReadBody k s).1.tape = s.tape := by
  unfold cutterReadBody
  exact onChannel_keeps State.tape fun c => by simp
@[simp] theorem cutterReadBody_sent (s : State) (k : Nat) : (cutterReadBody k s).1.sent = s.sent := by
  unfold cutterReadBody
  exact onChannel_keeps State.sent fun c => by simp
@[simp] theorem cutterReadBody_pending (s : State) (k : Nat) : (cutterReadBody k s).1.pending = s.pending := by
  unfold cutterReadBody
  exact onChannel_keeps State.pending fun c => by simp

/-! ### attnSummaryBody -/

@[simp] theorem attnSummaryBody_book (s : State) : (attnSummaryBody s).1.book = s.book := rfl
@[simp] theorem attnSummaryBody_library (s : State) : (attnSummaryBody s).1.library = s.library := rfl
@[simp] theorem attnSummaryBody_hides (s : State) : (attnSummaryBody s).1.hides = s.hides := rfl
@[simp] theorem attnSummaryBody_grid (s : State) : (attnSummaryBody s).1.grid = s.grid := rfl
@[simp] theorem attnSummaryBody_engine (s : State) : (attnSummaryBody s).1.engine = s.engine := rfl
@[simp] theorem attnSummaryBody_arbiter (s : State) : (attnSummaryBody s).1.arbiter = s.arbiter := rfl
@[simp] theorem attnSummaryBody_chans (s : State) : (attnSummaryBody s).1.chans = s.chans := rfl
@[simp] theorem attnSummaryBody_attn (s : State) : (attnSummaryBody s).1.attn = s.attn := rfl
@[simp] theorem attnSummaryBody_profile (s : State) : (attnSummaryBody s).1.profile = s.profile := rfl
@[simp] theorem attnSummaryBody_links (s : State) : (attnSummaryBody s).1.links = s.links := rfl
@[simp] theorem attnSummaryBody_tape (s : State) : (attnSummaryBody s).1.tape = s.tape := rfl
@[simp] theorem attnSummaryBody_sent (s : State) : (attnSummaryBody s).1.sent = s.sent := rfl
@[simp] theorem attnSummaryBody_pending (s : State) : (attnSummaryBody s).1.pending = s.pending := rfl

/-! ### attnReadBody -/

@[simp] theorem attnReadBody_book (s : State) (source : Nat) : (attnReadBody source s).1.book = s.book := by
  unfold attnReadBody
  exact checked_keeps State.book rfl
@[simp] theorem attnReadBody_library (s : State) (source : Nat) : (attnReadBody source s).1.library = s.library := by
  unfold attnReadBody
  exact checked_keeps State.library rfl
@[simp] theorem attnReadBody_hides (s : State) (source : Nat) : (attnReadBody source s).1.hides = s.hides := by
  unfold attnReadBody
  exact checked_keeps State.hides rfl
@[simp] theorem attnReadBody_grid (s : State) (source : Nat) : (attnReadBody source s).1.grid = s.grid := by
  unfold attnReadBody
  exact checked_keeps State.grid rfl
@[simp] theorem attnReadBody_engine (s : State) (source : Nat) : (attnReadBody source s).1.engine = s.engine := by
  unfold attnReadBody
  exact checked_keeps State.engine rfl
@[simp] theorem attnReadBody_arbiter (s : State) (source : Nat) : (attnReadBody source s).1.arbiter = s.arbiter := by
  unfold attnReadBody
  exact checked_keeps State.arbiter rfl
@[simp] theorem attnReadBody_chans (s : State) (source : Nat) : (attnReadBody source s).1.chans = s.chans := by
  unfold attnReadBody
  exact checked_keeps State.chans rfl
@[simp] theorem attnReadBody_attn (s : State) (source : Nat) : (attnReadBody source s).1.attn = s.attn := by
  unfold attnReadBody
  exact checked_keeps State.attn rfl
@[simp] theorem attnReadBody_profile (s : State) (source : Nat) : (attnReadBody source s).1.profile = s.profile := by
  unfold attnReadBody
  exact checked_keeps State.profile rfl
@[simp] theorem attnReadBody_links (s : State) (source : Nat) : (attnReadBody source s).1.links = s.links := by
  unfold attnReadBody
  exact checked_keeps State.links rfl
@[simp] theorem attnReadBody_tape (s : State) (source : Nat) : (attnReadBody source s).1.tape = s.tape := by
  unfold attnReadBody
  exact checked_keeps State.tape rfl
@[simp] theorem attnReadBody_sent (s : State) (source : Nat) : (attnReadBody source s).1.sent = s.sent := by
  unfold attnReadBody
  exact checked_keeps State.sent rfl
@[simp] theorem attnReadBody_pending (s : State) (source : Nat) : (attnReadBody source s).1.pending = s.pending := by
  unfold attnReadBody
  exact checked_keeps State.pending rfl

/-! ### attnClearBody -/

@[simp] theorem attnClearBody_library (s : State) (source : Nat) (list : List Nat) : (attnClearBody source list s).1.library = s.library := by
  unfold attnClearBody
  exact checked_keeps State.library (by simp)
@[simp] theorem attnClearBody_hides (s : State) (source : Nat) (list : List Nat) : (attnClearBody source list s).1.hides = s.hides := by
  unfold attnClearBody
  exact checked_keeps State.hides (by simp)
@[simp] theorem attnClearBody_grid (s : State) (source : Nat) (list : List Nat) : (attnClearBody source list s).1.grid = s.grid := by
  unfold attnClearBody
  exact checked_keeps State.grid (by simp)
@[simp] theorem attnClearBody_engine (s : State) (source : Nat) (list : List Nat) : (attnClearBody source list s).1.engine = s.engine := by
  unfold attnClearBody
  exact checked_keeps State.engine (by simp)
@[simp] theorem attnClearBody_arbiter (s : State) (source : Nat) (list : List Nat) : (attnClearBody source list s).1.arbiter = s.arbiter := by
  unfold attnClearBody
  exact checked_keeps State.arbiter (by simp)
@[simp] theorem attnClearBody_chans (s : State) (source : Nat) (list : List Nat) : (attnClearBody source list s).1.chans = s.chans := by
  unfold attnClearBody
  exact checked_keeps State.chans (by simp)
@[simp] theorem attnClearBody_profile (s : State) (source : Nat) (list : List Nat) : (attnClearBody source list s).1.profile = s.profile := by
  unfold attnClearBody
  exact checked_keeps State.profile (by simp)
@[simp] theorem attnClearBody_links (s : State) (source : Nat) (list : List Nat) : (attnClearBody source list s).1.links = s.links := by
  unfold attnClearBody
  exact checked_keeps State.links (by simp)
@[simp] theorem attnClearBody_tape (s : State) (source : Nat) (list : List Nat) : (attnClearBody source list s).1.tape = s.tape := by
  unfold attnClearBody
  exact checked_keeps State.tape (by simp)
@[simp] theorem attnClearBody_sent (s : State) (source : Nat) (list : List Nat) : (attnClearBody source list s).1.sent = s.sent := by
  unfold attnClearBody
  exact checked_keeps State.sent (by simp)
@[simp] theorem attnClearBody_pending (s : State) (source : Nat) (list : List Nat) : (attnClearBody source list s).1.pending = s.pending := by
  unfold attnClearBody
  exact checked_keeps State.pending (by simp)

/-! ### readyBody -/

@[simp] theorem readyBody_library (s : State) (c : Fin 4) : (readyBody c s).1.library = s.library := by
  unfold readyBody
  dsimp only
  split <;> simp
@[simp] theorem readyBody_profile (s : State) (c : Fin 4) : (readyBody c s).1.profile = s.profile := by
  unfold readyBody
  dsimp only
  split <;> simp
@[simp] theorem readyBody_links (s : State) (c : Fin 4) : (readyBody c s).1.links = s.links := by
  unfold readyBody
  dsimp only
  split <;> simp
@[simp] theorem readyBody_sent (s : State) (c : Fin 4) : (readyBody c s).1.sent = s.sent := by
  unfold readyBody
  dsimp only
  split <;> simp
@[simp] theorem readyBody_pending (s : State) (c : Fin 4) : (readyBody c s).1.pending = s.pending := by
  unfold readyBody
  dsimp only
  split <;> simp

/-! ### cutterFaultBody -/

@[simp] theorem cutterFaultBody_library (s : State) (c : Fin 4) (code : Nat) : (cutterFaultBody c code s).1.library = s.library := by simp [cutterFaultBody]
@[simp] theorem cutterFaultBody_profile (s : State) (c : Fin 4) (code : Nat) : (cutterFaultBody c code s).1.profile = s.profile := by simp [cutterFaultBody]
@[simp] theorem cutterFaultBody_links (s : State) (c : Fin 4) (code : Nat) : (cutterFaultBody c code s).1.links = s.links := by simp [cutterFaultBody]
@[simp] theorem cutterFaultBody_sent (s : State) (c : Fin 4) (code : Nat) : (cutterFaultBody c code s).1.sent = s.sent := by simp [cutterFaultBody]
@[simp] theorem cutterFaultBody_pending (s : State) (c : Fin 4) (code : Nat) : (cutterFaultBody c code s).1.pending = s.pending := by simp [cutterFaultBody]

/-! ### cutReportBody -/

@[simp] theorem cutReportBody_library (s : State) (c : Fin 4) (n o r d : Nat) : (cutReportBody c n o r d s).1.library = s.library := by
  unfold cutReportBody
  split
  · rfl
  · split <;> simp
@[simp] theorem cutReportBody_engine (s : State) (c : Fin 4) (n o r d : Nat) : (cutReportBody c n o r d s).1.engine = s.engine := by
  unfold cutReportBody
  split
  · rfl
  · split <;> simp
@[simp] theorem cutReportBody_profile (s : State) (c : Fin 4) (n o r d : Nat) : (cutReportBody c n o r d s).1.profile = s.profile := by
  unfold cutReportBody
  split
  · rfl
  · split <;> simp
@[simp] theorem cutReportBody_links (s : State) (c : Fin 4) (n o r d : Nat) : (cutReportBody c n o r d s).1.links = s.links := by
  unfold cutReportBody
  split
  · rfl
  · split <;> simp
@[simp] theorem cutReportBody_tape (s : State) (c : Fin 4) (n o r d : Nat) : (cutReportBody c n o r d s).1.tape = s.tape := by
  unfold cutReportBody
  split
  · rfl
  · split <;> simp
@[simp] theorem cutReportBody_sent (s : State) (c : Fin 4) (n o r d : Nat) : (cutReportBody c n o r d s).1.sent = s.sent := by
  unfold cutReportBody
  split
  · rfl
  · split <;> simp
@[simp] theorem cutReportBody_pending (s : State) (c : Fin 4) (n o r d : Nat) : (cutReportBody c n o r d s).1.pending = s.pending := by
  unfold cutReportBody
  split
  · rfl
  · split <;> simp

/-! ### setBody -/

@[simp] theorem setBody_book (s : State) (code v : Nat) : (setBody code v s).1.book = s.book := by
  unfold setBody
  (repeat' split) <;> simp [refuse]
@[simp] theorem setBody_library (s : State) (code v : Nat) : (setBody code v s).1.library = s.library := by
  unfold setBody
  (repeat' split) <;> simp [refuse]
@[simp] theorem setBody_engine (s : State) (code v : Nat) : (setBody code v s).1.engine = s.engine := by
  unfold setBody
  (repeat' split) <;> simp [refuse]
@[simp] theorem setBody_links (s : State) (code v : Nat) : (setBody code v s).1.links = s.links := by
  unfold setBody
  (repeat' split) <;> simp [refuse]
@[simp] theorem setBody_tape (s : State) (code v : Nat) : (setBody code v s).1.tape = s.tape := by
  unfold setBody
  (repeat' split) <;> simp [refuse]
@[simp] theorem setBody_sent (s : State) (code v : Nat) : (setBody code v s).1.sent = s.sent := by
  unfold setBody
  (repeat' split) <;> simp [refuse]
@[simp] theorem setBody_pending (s : State) (code v : Nat) : (setBody code v s).1.pending = s.pending := by
  unfold setBody
  (repeat' split) <;> simp [refuse]

/-! ### getBody -/

@[simp] theorem getBody_book (s : State) (code : Nat) : (getBody code s).1.book = s.book := by
  unfold getBody
  split <;> rfl
@[simp] theorem getBody_library (s : State) (code : Nat) : (getBody code s).1.library = s.library := by
  unfold getBody
  split <;> rfl
@[simp] theorem getBody_hides (s : State) (code : Nat) : (getBody code s).1.hides = s.hides := by
  unfold getBody
  split <;> rfl
@[simp] theorem getBody_grid (s : State) (code : Nat) : (getBody code s).1.grid = s.grid := by
  unfold getBody
  split <;> rfl
@[simp] theorem getBody_engine (s : State) (code : Nat) : (getBody code s).1.engine = s.engine := by
  unfold getBody
  split <;> rfl
@[simp] theorem getBody_arbiter (s : State) (code : Nat) : (getBody code s).1.arbiter = s.arbiter := by
  unfold getBody
  split <;> rfl
@[simp] theorem getBody_chans (s : State) (code : Nat) : (getBody code s).1.chans = s.chans := by
  unfold getBody
  split <;> rfl
@[simp] theorem getBody_attn (s : State) (code : Nat) : (getBody code s).1.attn = s.attn := by
  unfold getBody
  split <;> rfl
@[simp] theorem getBody_profile (s : State) (code : Nat) : (getBody code s).1.profile = s.profile := by
  unfold getBody
  split <;> rfl
@[simp] theorem getBody_links (s : State) (code : Nat) : (getBody code s).1.links = s.links := by
  unfold getBody
  split <;> rfl
@[simp] theorem getBody_tape (s : State) (code : Nat) : (getBody code s).1.tape = s.tape := by
  unfold getBody
  split <;> rfl
@[simp] theorem getBody_sent (s : State) (code : Nat) : (getBody code s).1.sent = s.sent := by
  unfold getBody
  split <;> rfl
@[simp] theorem getBody_pending (s : State) (code : Nat) : (getBody code s).1.pending = s.pending := by
  unfold getBody
  split <;> rfl

/-! ### saveBody -/

@[simp] theorem saveBody_book (s : State) : (saveBody s).1.book = s.book := by
  unfold saveBody
  exact checked_keeps State.book (by simp)
@[simp] theorem saveBody_library (s : State) : (saveBody s).1.library = s.library := by
  unfold saveBody
  exact checked_keeps State.library (by simp)
@[simp] theorem saveBody_hides (s : State) : (saveBody s).1.hides = s.hides := by
  unfold saveBody
  exact checked_keeps State.hides (by simp)
@[simp] theorem saveBody_grid (s : State) : (saveBody s).1.grid = s.grid := by
  unfold saveBody
  exact checked_keeps State.grid (by simp)
@[simp] theorem saveBody_engine (s : State) : (saveBody s).1.engine = s.engine := by
  unfold saveBody
  exact checked_keeps State.engine (by simp)
@[simp] theorem saveBody_arbiter (s : State) : (saveBody s).1.arbiter = s.arbiter := by
  unfold saveBody
  exact checked_keeps State.arbiter (by simp)
@[simp] theorem saveBody_chans (s : State) : (saveBody s).1.chans = s.chans := by
  unfold saveBody
  exact checked_keeps State.chans (by simp)
@[simp] theorem saveBody_attn (s : State) : (saveBody s).1.attn = s.attn := by
  unfold saveBody
  exact checked_keeps State.attn (by simp)
@[simp] theorem saveBody_links (s : State) : (saveBody s).1.links = s.links := by
  unfold saveBody
  exact checked_keeps State.links (by simp)
@[simp] theorem saveBody_tape (s : State) : (saveBody s).1.tape = s.tape := by
  unfold saveBody
  exact checked_keeps State.tape (by simp)
@[simp] theorem saveBody_sent (s : State) : (saveBody s).1.sent = s.sent := by
  unfold saveBody
  exact checked_keeps State.sent (by simp)
@[simp] theorem saveBody_pending (s : State) : (saveBody s).1.pending = s.pending := by
  unfold saveBody
  exact checked_keeps State.pending (by simp)

/-! ### loadBody -/

@[simp] theorem loadBody_book (s : State) : (loadBody s).1.book = s.book := by
  unfold loadBody
  exact checked_keeps State.book (by simp)
@[simp] theorem loadBody_library (s : State) : (loadBody s).1.library = s.library := by
  unfold loadBody
  exact checked_keeps State.library (by simp)
@[simp] theorem loadBody_hides (s : State) : (loadBody s).1.hides = s.hides := by
  unfold loadBody
  exact checked_keeps State.hides (by simp)
@[simp] theorem loadBody_grid (s : State) : (loadBody s).1.grid = s.grid := by
  unfold loadBody
  exact checked_keeps State.grid (by simp)
@[simp] theorem loadBody_engine (s : State) : (loadBody s).1.engine = s.engine := by
  unfold loadBody
  exact checked_keeps State.engine (by simp)
@[simp] theorem loadBody_arbiter (s : State) : (loadBody s).1.arbiter = s.arbiter := by
  unfold loadBody
  exact checked_keeps State.arbiter (by simp)
@[simp] theorem loadBody_chans (s : State) : (loadBody s).1.chans = s.chans := by
  unfold loadBody
  exact checked_keeps State.chans (by simp)
@[simp] theorem loadBody_attn (s : State) : (loadBody s).1.attn = s.attn := by
  unfold loadBody
  exact checked_keeps State.attn (by simp)
@[simp] theorem loadBody_links (s : State) : (loadBody s).1.links = s.links := by
  unfold loadBody
  exact checked_keeps State.links (by simp)
@[simp] theorem loadBody_tape (s : State) : (loadBody s).1.tape = s.tape := by
  unfold loadBody
  exact checked_keeps State.tape (by simp)
@[simp] theorem loadBody_sent (s : State) : (loadBody s).1.sent = s.sent := by
  unfold loadBody
  exact checked_keeps State.sent (by simp)
@[simp] theorem loadBody_pending (s : State) : (loadBody s).1.pending = s.pending := by
  unfold loadBody
  exact checked_keeps State.pending (by simp)

/-! ### defaultsBody -/

@[simp] theorem defaultsBody_book (s : State) : (defaultsBody s).1.book = s.book := by simp [defaultsBody]
@[simp] theorem defaultsBody_library (s : State) : (defaultsBody s).1.library = s.library := by simp [defaultsBody]
@[simp] theorem defaultsBody_engine (s : State) : (defaultsBody s).1.engine = s.engine := by simp [defaultsBody]
@[simp] theorem defaultsBody_links (s : State) : (defaultsBody s).1.links = s.links := by simp [defaultsBody]
@[simp] theorem defaultsBody_tape (s : State) : (defaultsBody s).1.tape = s.tape := by simp [defaultsBody]
@[simp] theorem defaultsBody_sent (s : State) : (defaultsBody s).1.sent = s.sent := by simp [defaultsBody]
@[simp] theorem defaultsBody_pending (s : State) : (defaultsBody s).1.pending = s.pending := by simp [defaultsBody]

/-! ### resetBody -/

@[simp] theorem resetBody_book (s : State) : (resetBody s).1.book = s.book := rfl
@[simp] theorem resetBody_library (s : State) : (resetBody s).1.library = s.library := rfl
@[simp] theorem resetBody_hides (s : State) : (resetBody s).1.hides = s.hides := rfl
@[simp] theorem resetBody_grid (s : State) : (resetBody s).1.grid = s.grid := rfl
@[simp] theorem resetBody_engine (s : State) : (resetBody s).1.engine = s.engine := rfl
@[simp] theorem resetBody_arbiter (s : State) : (resetBody s).1.arbiter = s.arbiter := rfl
@[simp] theorem resetBody_chans (s : State) : (resetBody s).1.chans = s.chans := rfl
@[simp] theorem resetBody_attn (s : State) : (resetBody s).1.attn = s.attn := rfl
@[simp] theorem resetBody_profile (s : State) : (resetBody s).1.profile = s.profile := rfl
@[simp] theorem resetBody_links (s : State) : (resetBody s).1.links = s.links := rfl
@[simp] theorem resetBody_tape (s : State) : (resetBody s).1.tape = s.tape := rfl
@[simp] theorem resetBody_sent (s : State) : (resetBody s).1.sent = s.sent := rfl
@[simp] theorem resetBody_pending (s : State) : (resetBody s).1.pending = s.pending := rfl

/-! ### identifyBody -/

@[simp] theorem identifyBody_book (s : State) : (identifyBody s).1.book = s.book := rfl
@[simp] theorem identifyBody_library (s : State) : (identifyBody s).1.library = s.library := rfl
@[simp] theorem identifyBody_hides (s : State) : (identifyBody s).1.hides = s.hides := rfl
@[simp] theorem identifyBody_grid (s : State) : (identifyBody s).1.grid = s.grid := rfl
@[simp] theorem identifyBody_engine (s : State) : (identifyBody s).1.engine = s.engine := rfl
@[simp] theorem identifyBody_arbiter (s : State) : (identifyBody s).1.arbiter = s.arbiter := rfl
@[simp] theorem identifyBody_chans (s : State) : (identifyBody s).1.chans = s.chans := rfl
@[simp] theorem identifyBody_attn (s : State) : (identifyBody s).1.attn = s.attn := rfl
@[simp] theorem identifyBody_profile (s : State) : (identifyBody s).1.profile = s.profile := rfl
@[simp] theorem identifyBody_links (s : State) : (identifyBody s).1.links = s.links := rfl
@[simp] theorem identifyBody_tape (s : State) : (identifyBody s).1.tape = s.tape := rfl
@[simp] theorem identifyBody_sent (s : State) : (identifyBody s).1.sent = s.sent := rfl
@[simp] theorem identifyBody_pending (s : State) : (identifyBody s).1.pending = s.pending := rfl

end Sys2Proof.Laws
end

