-- ==== Sys2Proof/Laws/Requests.lean ====
section
/-! SUPPORT. What a request on its link does: the outcomes of the shared operation, and the views of a link. -/

namespace Sys2Proof.Laws

open Sys2Proof.Machine

/-! ### Links -/

theorem link_putLink_other (s : State) {l k : Link} (v : LinkState) (h : k ≠ l) :
    (s.putLink l v).link k = s.link k := by
  cases l with
  | control => cases k <;> first | rfl | exact absurd rfl h
  | scanner => cases k <;> first | rfl | exact absurd rfl h
  | cutter c =>
    cases k with
    | control => rfl
    | scanner => rfl
    | cutter d =>
      have hd : c.1 ≠ d.1 := fun e => h (congrArg Link.cutter (Fin.ext e.symm))
      exact Vector.getElem_set_ne c.2 d.2 hd

@[simp] theorem link_hunt_self (s : State) (l : Link) : (s.hunt l).link l = { s.link l with receiver := .hunting } := by
  simp [State.hunt]

@[simp] theorem hunt_rate (s : State) (l : Link) : (s.hunt l).links.rate = s.links.rate := by
  cases l <;> rfl

@[simp] theorem putLink_putLink (s : State) (l : Link) (v w : LinkState) : (s.putLink l v).putLink l w = s.putLink l w := by
  cases l <;> simp [State.putLink]

/-! ### The outcomes of a request -/

/-- Whether a LEN is the length of the fields. -/
theorem len_ok (h : Head) (len : Nat) :
    (h.len.all fun n => n == len) = true ↔ h.len = none ∨ h.len = some len := by
  cases h.len <;> simp

/-- A request taken, whose reply waits for no later event. -/
theorem request_taken {s : State} {l : Link} {h : Head} {len : Nat} (kind : Nat) (body : State → State × Reply)
    (ht : s.takes l h len) :
    request l kind h len body s = (body (s.hunt l)).1.replied l kind h (body (s.hunt l)).2 := by
  obtain ⟨h1, h2⟩ := ht
  simp [request, requestUntil, (len_ok h len).2 h1, h2, State.replied]

/-- A request taken, whose reply waits for a later event. -/
theorem requestUntil_some {s : State} {l : Link} {h : Head} {len : Nat} (kind : Nat) (body : State → State × Reply)
    {ends : State → Option ReplyEnd} {e : ReplyEnd} (ht : s.takes l h len) (he : ends (body (s.hunt l)).1 = some e) :
    requestUntil ends l kind h len body s = (body (s.hunt l)).1.repliedUntil l kind h e (body (s.hunt l)).2 := by
  obtain ⟨h1, h2⟩ := ht
  simp [requestUntil, (len_ok h len).2 h1, h2, he, State.repliedUntil, replyBegun]

/-- A request taken, whose reply could have waited and does not. -/
theorem requestUntil_none {s : State} {l : Link} {h : Head} {len : Nat} (kind : Nat) (body : State → State × Reply)
    {ends : State → Option ReplyEnd} (ht : s.takes l h len) (he : ends (body (s.hunt l)).1 = none) :
    requestUntil ends l kind h len body s = (body (s.hunt l)).1.replied l kind h (body (s.hunt l)).2 := by
  obtain ⟨h1, h2⟩ := ht
  simp [requestUntil, (len_ok h len).2 h1, h2, he, State.replied]

/-- A request with another LEN than that of its fields. -/
theorem requestUntil_length {s : State} {l : Link} {h : Head} {len n : Nat} (kind : Nat)
    (body : State → State × Reply) (ends : State → Option ReplyEnd) (hn : h.len = some n) (hne : n ≠ len) :
    requestUntil ends l kind h len body s = (s.hunt l).answer l h.tag (.refuse .badLength n) := by
  simp [requestUntil, hn, hne]

/-- A request behind a request in hand. -/
theorem requestUntil_busy {s : State} {l : Link} {h : Head} {len : Nat} {q : InHand} (kind : Nat)
    (body : State → State × Reply) (ends : State → Option ReplyEnd) (h1 : h.len = none ∨ h.len = some len)
    (hq : (s.link l).inHand = some q) :
    requestUntil ends l kind h len body s = (s.hunt l).answer l h.tag (.refuse .busy q.kind) := by
  simp [requestUntil, (len_ok h len).2 h1, hq]

/-- A request taken: its body is run, and its reply is then sent or stays in hand. -/
theorem requestUntil_taken {s : State} {l : Link} {h : Head} {len : Nat} (kind : Nat) (body : State → State × Reply)
    (ends : State → Option ReplyEnd) (ht : s.takes l h len) :
    requestUntil ends l kind h len body s = (body (s.hunt l)).1.answer l h.tag (body (s.hunt l)).2 ∨
    ∃ e, requestUntil ends l kind h len body s =
      (body (s.hunt l)).1.hold l kind h.tag (replyBegun h) e (body (s.hunt l)).2 := by
  cases he : ends (body (s.hunt l)).1 with
  | none =>
    rw [requestUntil_none kind body ht he]
    unfold State.replied
    split
    · next hs => exact Or.inr ⟨.idle, by simp [replyBegun, hs]⟩
    · exact Or.inl rfl
  | some e => exact Or.inr ⟨e, requestUntil_some kind body ht he⟩

/-- The three outcomes of a request. -/
theorem requestUntil_cases (s : State) (l : Link) (h : Head) (len : Nat) (kind : Nat) (body : State → State × Reply)
    (ends : State → Option ReplyEnd) :
    (∃ n, h.len = some n ∧ n ≠ len ∧
      requestUntil ends l kind h len body s = (s.hunt l).answer l h.tag (.refuse .badLength n)) ∨
    (∃ q, (s.link l).inHand = some q ∧
      requestUntil ends l kind h len body s = (s.hunt l).answer l h.tag (.refuse .busy q.kind)) ∨
    s.takes l h len := by
  by_cases hl : h.len = none ∨ h.len = some len
  · cases hq : (s.link l).inHand with
    | some q => exact Or.inr (Or.inl ⟨q, rfl, requestUntil_busy kind body ends hl hq⟩)
    | none => exact Or.inr (Or.inr ⟨hl, hq⟩)
  · cases hn : h.len with
    | none => exact absurd (Or.inl hn) hl
    | some n =>
      have hne : n ≠ len := fun e => hl (Or.inr (by rw [hn, e]))
      exact Or.inl ⟨n, rfl, hne, requestUntil_length kind body ends hn hne⟩

/-- What holds before a request and after its work holds after the request, where links and replies do not touch it. -/
theorem requestUntil_keeps {P : State → Prop} (s : State) (l : Link) (h : Head) (len : Nat) (kind : Nat)
    (body : State → State × Reply) (ends : State → Option ReplyEnd)
    (hlink : ∀ t v, P t → P (t.putLink l v)) (hlead : ∀ t, P t → P (t.lead l)) (hsend : ∀ t tag r, P t → P (t.answer l tag r))
    (hbody : ∀ t, P t → P (body t).1) (hs : P s) : P (requestUntil ends l kind h len body s) := by
  have hh : P (s.hunt l) := hlink _ _ hs
  rcases requestUntil_cases s l h len kind body ends with ⟨n, _, _, e⟩ | ⟨q, _, e⟩ | ht
  · rw [e]; exact hsend _ _ _ hh
  · rw [e]; exact hsend _ _ _ hh
  · rcases requestUntil_taken kind body ends ht with e | ⟨e, he⟩
    · rw [e]; exact hsend _ _ _ (hbody _ hh)
    · rw [he]
      unfold State.hold
      split
      · exact hlink _ _ (hlead _ (hbody _ hh))
      · exact hlink _ _ (hbody _ hh)

/-! ### Reads -/

/-- A command with reads: its effect on the state that carries their outcomes, with the tape as it was. -/
theorem withReads_eq (s : State) (reads : List ReadOutcome) (f : State → State) :
    s.withReads reads f = { f { s with tape := reads } with tape := s.tape } := rfl

/-- What holds of a state whatever its tape is kept by a command with reads. -/
theorem withReads_keeps {P : State → Prop} (s : State) (reads : List ReadOutcome) (f : State → State)
    (htape : ∀ t x, P t → P { t with tape := x }) (hf : ∀ t, P t → P (f t)) (hs : P s) : P (s.withReads reads f) :=
  htape _ _ (hf _ (htape _ _ hs))

end Sys2Proof.Laws
end

