-- ==== Sys2Proof/Laws/Views.lean ====
section
/-! SUPPORT. What a record reads as after it, or another one, has been written. -/

namespace Sys2Proof.Laws

open Sys2Proof.Machine

/-! ### Lines and pieces -/

@[simp] theorem line_putLine_self (s : State) (id : Nat) (l : Line) : (s.putLine id l).line id = some l :=
  get_put_self s.book id l
theorem line_putLine_other (s : State) {id k : Nat} (l : Line) (h : k ≠ id) : (s.putLine id l).line k = s.line k :=
  get_put_other s.book l h
@[simp] theorem line_dropLine_self (s : State) (id : Nat) : (s.dropLine id).line id = none := get_del_self s.book id
theorem line_dropLine_other (s : State) {id k : Nat} (h : k ≠ id) : (s.dropLine id).line k = s.line k :=
  get_del_other s.book h
@[simp] theorem line_raiseNotice_self (s : State) (id : Nat) (l : Line) :
    (s.raiseNotice id l).line id = some { l with notice := true } := get_put_self _ id _
theorem line_raiseNotice_other (s : State) {id k : Nat} (l : Line) (h : k ≠ id) :
    (s.raiseNotice id l).line k = s.line k := by
  simp [State.raiseNotice, line_putLine_other, h]
@[simp] theorem piece_putPiece_self (s : State) (slot : Nat) (p : Piece) : (s.putPiece slot p).piece slot = some p :=
  get_put_self s.library.pieces slot p
theorem piece_putPiece_other (s : State) {slot k : Nat} (p : Piece) (h : k ≠ slot) :
    (s.putPiece slot p).piece k = s.piece k := get_put_other s.library.pieces p h
@[simp] theorem piece_dropPiece_self (s : State) (slot : Nat) : (s.dropPiece slot).piece slot = none :=
  get_del_self s.library.pieces slot
theorem piece_dropPiece_other (s : State) {slot k : Nat} (h : k ≠ slot) : (s.dropPiece slot).piece k = s.piece k :=
  get_del_other s.library.pieces h

/-! ### Hides -/

@[simp] theorem hide_putHide_self (s : State) (slot : Nat) (h : Hide) : (s.putHide slot h).hide slot = some h :=
  get_put_self s.hides.slots slot h
theorem hide_putHide_other (s : State) {slot k : Nat} (h : Hide) (hk : k ≠ slot) :
    (s.putHide slot h).hide k = s.hide k := get_put_other s.hides.slots h hk
@[simp] theorem hide_dropHide_self (s : State) (slot : Nat) : (s.dropHide slot).hide slot = none :=
  get_del_self s.hides.slots slot
theorem hide_dropHide_other (s : State) {slot k : Nat} (hk : k ≠ slot) : (s.dropHide slot).hide k = s.hide k :=
  get_del_other s.hides.slots hk
theorem modHide_none {s : State} {slot : Nat} (f : Hide → Hide) (h : s.hide slot = none) : s.modHide slot f = s := by
  simp [State.modHide, h]
theorem modHide_some {s : State} {slot : Nat} {g : Hide} (f : Hide → Hide) (h : s.hide slot = some g) :
    s.modHide slot f = s.putHide slot (f g) := by
  simp [State.modHide, h]
@[simp] theorem hide_modHide_self (s : State) (slot : Nat) (f : Hide → Hide) :
    (s.modHide slot f).hide slot = (s.hide slot).map f := by
  cases h : s.hide slot with
  | none => rw [modHide_none f h, h]; rfl
  | some g => rw [modHide_some f h, hide_putHide_self]; rfl
theorem hide_modHide_other (s : State) {slot k : Nat} (f : Hide → Hide) (hk : k ≠ slot) :
    (s.modHide slot f).hide k = s.hide k := by
  cases h : s.hide slot with
  | none => rw [modHide_none f h]
  | some g => rw [modHide_some f h, hide_putHide_other _ _ hk]
theorem hide_modHide (s : State) (slot k : Nat) (f : Hide → Hide) :
    (s.modHide slot f).hide k = if k = slot then (s.hide k).map f else s.hide k := by
  split
  · next h => subst h; simp
  · next h => exact hide_modHide_other s f h

/-! ### Channels -/

@[simp] theorem chan_putChan_self (s : State) (c : Fin 4) (ch : Channel) : (s.putChan c ch).chan c = ch :=
  Vector.getElem_set_self c.2
theorem chan_putChan_other (s : State) {c d : Fin 4} (ch : Channel) (h : d ≠ c) : (s.putChan c ch).chan d = s.chan d :=
  Vector.getElem_set_ne c.2 d.2 fun e => h (Fin.ext e.symm)
@[simp] theorem chan_modChan_self (s : State) (c : Fin 4) (f : Channel → Channel) :
    (s.modChan c f).chan c = f (s.chan c) := chan_putChan_self s c _
theorem chan_modChan_other (s : State) {c d : Fin 4} (f : Channel → Channel) (h : d ≠ c) :
    (s.modChan c f).chan d = s.chan d := chan_putChan_other s _ h
theorem chan_modChan (s : State) (c d : Fin 4) (f : Channel → Channel) :
    (s.modChan c f).chan d = if d = c then f (s.chan d) else s.chan d := by
  split
  · next h => subst h; simp
  · next h => exact chan_modChan_other s f h

/-! ### Raises and the throttle, as one write each -/

/-- Clearing notices writes the book alone. -/
theorem clearNotices_eq (s : State) (ids : List Nat) :
    s.clearNotices ids = { s with book := (s.clearNotices ids).book } := by
  unfold State.clearNotices
  induction ids generalizing s with
  | nil => rfl
  | cons i t ih =>
    have h1 : s.clearNotice i = { s with book := (s.clearNotice i).book } := by
      unfold State.clearNotice
      split <;> rfl
    rw [List.foldl_cons]
    generalize s.clearNotice i = u at h1 ⊢
    rw [ih u]
    rcases u with ⟨⟩
    simp only [State.mk.injEq] at h1 ⊢
    simp [h1]

theorem frameDue_eq (s : State) : s.frameDue = { s with attn := s.frameDue.attn } := by
  unfold State.frameDue
  split
  · rfl
  · split <;> rfl

/-- The frame that a raise makes due (R182, R183). -/
theorem frameDue_attn (s : State) :
    s.frameDue.attn =
      { s.attn with waiting := s.attn.waiting || decide (s.settings.attnMode = .each) || !s.anyPending } := by
  unfold State.frameDue
  cases h : s.settings.attnMode with
  | each => simp
  | edge => cases h2 : s.anyPending <;> simp

/-- A raise writes the Attention Unit alone. -/
theorem raise_eq (s : State) (e : Event) : s.raise e = { s with attn := (s.raise e).attn } := by
  unfold State.raise
  rw [frameDue_eq]

/-- A raise writes the pending events and the waiting frame of the Attention Unit. -/
theorem raise_writes (s : State) (e : Event) : s.raise e =
    { s with attn := { s.attn with events := insertEvent e s.attn.events, waiting := (s.raise e).attn.waiting } } := by
  rw [raise_eq]
  unfold State.raise
  simp only [frameDue_attn]

/-- A change to THROTTLED writes the throttle and the Attention Unit. -/
theorem toThrottled_eq (s : State) :
    s.toThrottled = { s with grid := { s.grid with throttle := .throttled }, attn := s.toThrottled.attn } := by
  unfold State.toThrottled
  cases h : s.grid.throttle with
  | normal => dsimp only; conv => lhs; rw [raise_eq]
  | throttled => dsimp only; rw [← h]

/-- A change to NORMAL writes the throttle and the Attention Unit. -/
theorem toNormal_eq (s : State) :
    s.toNormal = { s with grid := { s.grid with throttle := .normal }, attn := s.toNormal.attn } := by
  unfold State.toNormal
  cases h : s.grid.throttle with
  | throttled => dsimp only; conv => lhs; rw [raise_eq]
  | normal => dsimp only; rw [← h]

end Sys2Proof.Laws
end

