-- ==== Sys2Proof/Laws/Book.lean ====
section
/-! SUPPORT. The order book: when it is sound, and which writes keep it so. -/

namespace Sys2Proof.Laws

open Sys2Proof.Machine

/-- What the soundness of the book says of each line. -/
theorem linesSound_iff (s : State) : s.linesSound = true ↔ Tab.sorted s.book = true ∧ ∀ k l, s.line k = some l →
    l.sound = true ∧ l.noticeSound = true ∧ ∀ p, l.pair = some p → p.mirror ≠ k ∧ ∃ m, s.line p.mirror = some m ∧
      m.pair = some ⟨k, p.role.other⟩ := by
  have hp : ∀ k l, s.pairSound k l = true ↔ ∀ p, l.pair = some p → p.mirror ≠ k ∧ ∃ m, s.line p.mirror = some m ∧
      m.pair = some ⟨k, p.role.other⟩ := by
    intro k l
    unfold State.pairSound
    cases l.pair with
    | none => simp
    | some p => cases hm : s.line p.mirror <;> simp [hm]
  unfold State.linesSound
  simp only [Bool.and_eq_true, List.all_eq_true, hp]
  constructor
  · rintro ⟨h1, h2⟩
    refine ⟨h1, fun k l hl => ?_⟩
    have := h2 _ (mem_of_get hl)
    exact ⟨this.1.1, this.1.2, this.2⟩
  · rintro ⟨h1, h2⟩
    refine ⟨h1, fun e he => ?_⟩
    have := h2 e.1 e.2 (get_of_mem h1 he)
    exact ⟨⟨this.1, this.2.1⟩, this.2.2⟩

/-- Only the book decides whether it is sound. -/
theorem linesSound_same {s t : State} (h : t.book = s.book) (hs : s.linesSound = true) : t.linesSound = true := by
  rw [linesSound_iff] at *; unfold State.line at *; rw [h]; exact hs

/-- A line of a sound book is sound. -/
theorem line_sound {s : State} {id : Nat} {l : Line} (hl : s.line id = some l) (hs : s.linesSound = true) : l.sound =
    true ∧ l.noticeSound = true :=
  ⟨(((linesSound_iff s).1 hs).2 id l hl).1, (((linesSound_iff s).1 hs).2 id l hl).2.1⟩

/-- What the soundness of a line says of its sound_counts. -/
theorem sound_counts {l : Line} (h : l.sound = true) : l.ordered = l.openUnits + l.reserved + l.cut ∧ l.ordered ≤ 4095 ∧
    (l.state = .active → 1 ≤ l.ordered ∧ 1 ≤ l.openUnits + l.reserved) ∧ (l.state = .cancelling → l.openUnits = 0 ∧
    1 ≤ l.reserved) := by
  unfold Line.sound at h
  simp only [Bool.and_eq_true, decide_eq_true_eq] at h
  refine ⟨h.1.1, h.1.2, fun e => ?_, fun e => ?_⟩ <;> (have := h.2; rw [e] at this; simpa using this)

/-! ### Writes of one line -/

/-- A sound record with the same pair, written over a line, keeps the book sound. -/
theorem linesSound_putLine {s : State} {id : Nat} {l l' : Line} (hl : s.line id = some l) (hp : l'.pair = l.pair)
    (h1 : l'.sound = true) (h2 : l'.noticeSound = true) (hs : s.linesSound = true) : (s.putLine id l').linesSound =
    true := by
  rw [linesSound_iff] at *
  refine ⟨sorted_put _ _ hs.1, fun k m hm => ?_⟩
  have key : ∀ j q, s.line j = some q → ∃ q', (s.putLine id l').line j = some q' ∧ q'.pair = q.pair := by
    intro j q hq
    by_cases hj : j = id
    · subst hj; rw [hl] at hq; cases hq; exact ⟨l', get_put_self _ _ _, hp⟩
    · exact ⟨q, by rw [line_putLine_other _ _ hj]; exact hq, rfl⟩
  have fin : ∀ q : Line, s.line k = some q → m.pair = q.pair → ∀ p, m.pair = some p → p.mirror ≠ k ∧ ∃ r,
      (s.putLine id l').line p.mirror = some r ∧
      r.pair = some ⟨k, p.role.other⟩ := by
    intro q hq he p hpp
    obtain ⟨a, r, hr, b⟩ := (hs.2 k q hq).2.2 p (he ▸ hpp)
    obtain ⟨r', hr', e⟩ := key _ _ hr
    exact ⟨a, r', hr', e ▸ b⟩
  by_cases hk : k = id
  · subst hk
    have : m = l' := by
      have := get_put_self s.book k l'
      rw [show Tab.get (Tab.put s.book k l') k = some m from hm] at this
      cases this; rfl
    subst this
    exact ⟨h1, h2, fin l hl hp⟩
  · rw [line_putLine_other _ _ hk] at hm
    exact ⟨(hs.2 k m hm).1, (hs.2 k m hm).2.1, fin m hm rfl⟩

/-- A finished record with the same pair, written with its notice set, keeps the book sound. -/
theorem linesSound_raiseNotice {s : State} {id : Nat} {l l' : Line} (hl : s.line id = some l) (hp : l'.pair = l.pair)
    (h1 : l'.sound = true) (h2 : l'.finished = true) (hs : s.linesSound = true) : (s.raiseNotice id l').linesSound =
    true := by
  have e : (s.raiseNotice id l').book = (s.putLine id { l' with notice := true }).book := by
    unfold State.raiseNotice State.putLine; simp
  refine linesSound_same e (linesSound_putLine hl (by simpa using hp) h1 ?_ hs)
  unfold Line.noticeSound; simp; exact h2

/-- New sound_counts of an open line, with the test of R9, keep the book sound. -/
theorem linesSound_settleLine {s : State} {id : Nat} {l l' : Line} (hl : s.line id = some l) (hp : l'.pair = l.pair)
    (hs :
    s.linesSound = true)
    (hn : l'.notice = l.notice) (hst : l'.state = l.state) (hop : l.finished = false)
    (h1 : l'.ordered = l'.openUnits + l'.reserved + l'.cut) (h2 : l'.ordered ≤ 4095) (h3 : l'.state = .active →
    1 ≤ l'.ordered)
    (h4 : l'.state = .cancelling → l'.openUnits = 0) : (s.settleLine id l').linesSound = true := by
  have hns : l'.notice = false := by
    have := (line_sound hl hs).2
    unfold Line.noticeSound at this; rw [hop] at this; simp at this; rw [hn, this]
  have hnn : l'.noticeSound = true := by unfold Line.noticeSound; simp [hns]
  unfold State.settleLine
  cases hx : l'.state with
  | active =>
    simp only
    split
    · next hz =>
      refine linesSound_raiseNotice (l' := { l' with state := .complete }) hl hp ?_ rfl hs
      unfold Line.sound; simp; have := h3 hx; omega
    · next hz =>
      refine linesSound_putLine hl hp ?_ hnn hs
      unfold Line.sound; simp [hx]; have := h3 hx; omega
  | cancelling =>
    have := h4 hx
    simp only
    split
    · next hz =>
      refine linesSound_raiseNotice (l' := { l' with state := .closed }) hl hp ?_ rfl hs
      unfold Line.sound; simp; omega
    · next hz =>
      refine linesSound_putLine hl hp ?_ hnn hs
      unfold Line.sound; simp [hx]; omega
  | complete => rw [hst] at hx; unfold Line.finished at hop; simp [hx] at hop
  | closed => rw [hst] at hx; unfold Line.finished at hop; simp [hx] at hop

/-- The test of R9 writes its own line alone. -/
theorem line_settleLine_other (s : State) {id k : Nat} (l : Line) (h : k ≠ id) :
    (s.settleLine id l).line k = s.line k :=
    by
  unfold State.settleLine
  (repeat' split) <;> first | exact line_putLine_other _ _ h | exact line_raiseNotice_other _ _ h

/-- A resize writes its own line alone. -/
theorem line_resizeLine_other (s : State) {id k n : Nat} (h : k ≠ id) : (resizeLine n id s).line k = s.line k := by
  unfold resizeLine; split
  · rfl
  · exact line_settleLine_other _ _ h

/-- A resize of an ACTIVE line keeps the book sound. -/
theorem linesSound_resizeLine {s : State} {id n : Nat} {l : Line} (hl : s.line id = some l) (ha : l.state = .active)
    (h1 :
    1 ≤ n) (h2 : n ≤ 4095) (hh : l.held ≤ n) (h : s.linesSound = true) :
    (resizeLine n id s).linesSound = true := by
  unfold resizeLine; rw [hl]
  unfold Line.held at hh
  exact linesSound_settleLine (l := l) hl rfl h rfl rfl (by simp [Line.finished, ha]) (by simp; omega) (by simp; omega)
      (fun e => by simp; omega) (fun e => by simp [ha] at e)

/-- A cancel of a line keeps the book sound. -/
theorem linesSound_cancelLine (s : State) (id : Nat) (h : s.linesSound = true) : (cancelLine id s).linesSound = true := by
  unfold cancelLine
  split
  · exact h
  · next l hl =>
    obtain ⟨a, b⟩ := line_sound hl h
    have hc := sound_counts a
    split
    · next hx =>
      split
      · refine linesSound_raiseNotice (l := l) hl rfl ?_ rfl h
        unfold Line.sound; simp; omega
      · refine linesSound_putLine (l := l) hl rfl ?_ ?_ h
        · unfold Line.sound; simp; omega
        · unfold Line.noticeSound Line.finished at *; simp [hx] at b ⊢; exact b
    · exact h

/-- A notice cleared keeps the book sound. -/
theorem linesSound_clearNotice (s : State) (id : Nat) (h : s.linesSound = true) : (s.clearNotice id).linesSound = true :=
    by
  unfold State.clearNotice
  split
  · exact h
  · next l hl =>
    obtain ⟨a, b⟩ := line_sound hl h
    exact linesSound_putLine (l := l) hl rfl a rfl h

/-! ### Lines taken into use and freed -/

/-- A condition kept by a request whose checks all pass. -/
theorem checked_all {P : State → Prop} {s : State} {checks : List Check} {go : State × Reply} (h : P s)
    (hgo : (∀ c ∈ checks, c.1 = true) → P go.1) : P (checked s checks go).1 := by
  unfold checked
  split
  · exact h
  · next hx =>
    refine hgo ?_
    clear hgo h
    induction checks with
    | nil => simp
    | cons c t ih =>
      obtain ⟨ok, r, d⟩ := c
      unfold firstFail at hx
      split at hx
      · next hk => 
        intro c hc
        rcases List.mem_cons.1 hc with rfl | hc
        · exact hk
        · exact ih hx c hc
      · cases hx

/-- The record that LINE_ADD and PAIR_ADD create is sound. -/
theorem newLine_sound (slot style size n : Nat) (p : Option Pairing) (h1 : 1 ≤ n) (h2 : n ≤ 4095) :
    (newLine slot style size n p).sound = true ∧ (newLine slot style size n p).noticeSound = true := by
  unfold Line.sound Line.noticeSound newLine; simp; omega

/-- The line just written. -/
theorem line_putLine_at (s : State) (k : Nat) (l : Line) : (s.putLine k l).line k = some l := get_put_self _ _ _

/-- A new line without a pair keeps the book sound. -/
theorem linesSound_add {s : State} {id slot style size n : Nat} (hi : s.line id = none) (h1 : 1 ≤ n) (h2 : n ≤ 4095) (h :
    s.linesSound = true) :
    (s.putLine id (newLine slot style size n none)).linesSound = true := by
  rw [linesSound_iff] at *
  refine ⟨sorted_put _ _ h.1, fun k m hm => ?_⟩
  by_cases hk : k = id
  · subst hk
    have : m = newLine slot style size n none := by
      have := get_put_self s.book k (newLine slot style size n none)
      rw [show Tab.get (Tab.put s.book k _) k = some m from hm] at this
      cases this; rfl
    subst this
    obtain ⟨a, b⟩ := newLine_sound slot style size n none h1 h2
    exact ⟨a, b, fun p hp => by cases hp⟩
  · rw [line_putLine_other _ _ hk] at hm
    obtain ⟨a, b, c⟩ := h.2 k m hm
    refine ⟨a, b, fun p hp => ?_⟩
    obtain ⟨d, r, hr, e⟩ := c p hp
    refine ⟨d, r, ?_, e⟩
    rw [line_putLine_other _ _ (by intro e; rw [e, hi] at hr; cases hr)]; exact hr

/-- A new pair of lines keeps the book sound. -/
theorem linesSound_addPair {s : State} {id1 id2 slot1 slot2 style size n : Nat} (hn : id1 ≠ id2) (hi : s.line id1 = none)
    (hj : s.line id2 = none) (h1 : 1 ≤ n) (h2 : n ≤ 4095) (h : s.linesSound = true) :
    ((s.putLine id1 (newLine slot1 style size n (some ⟨id2, .first⟩))).putLine id2 (newLine slot2 style size n
    (some ⟨id1, .second⟩))).linesSound = true := by
  rw [linesSound_iff] at *
  have e2 : ((s.putLine id1 (newLine slot1 style size n (some ⟨id2, .first⟩))).putLine id2 (newLine slot2 style size n
      (some ⟨id1, .second⟩))).line id2 = some (newLine slot2 style size n (some ⟨id1, .second⟩)) :=
          line_putLine_at _ _ _
  have e1 : ((s.putLine id1 (newLine slot1 style size n (some ⟨id2, .first⟩))).putLine id2 (newLine slot2 style size n
      (some ⟨id1, .second⟩))).line id1 = some (newLine slot1 style size n (some ⟨id2, .first⟩)) := by
    rw [line_putLine_other _ _ hn]; exact line_putLine_at _ _ _
  have eo : ∀ k, k ≠ id1 → k ≠ id2 → ((s.putLine id1 (newLine slot1 style size n (some ⟨id2, .first⟩))).putLine id2
      (newLine slot2 style size n (some ⟨id1, .second⟩))).line k = s.line k := by
    intro k ha hb; rw [line_putLine_other _ _ hb, line_putLine_other _ _ ha]
  refine ⟨sorted_put _ _ (sorted_put _ _ h.1), fun k m hm => ?_⟩
  by_cases hk : k = id2
  · subst hk
    rw [e2] at hm; cases hm
    obtain ⟨a, b⟩ := newLine_sound slot2 style size n (some ⟨id1, .second⟩) h1 h2
    refine ⟨a, b, fun p hp => ?_⟩
    cases hp
    exact ⟨hn, _, e1, rfl⟩
  · by_cases hk1 : k = id1
    · subst hk1
      rw [e1] at hm; cases hm
      obtain ⟨a, b⟩ := newLine_sound slot1 style size n (some ⟨id2, .first⟩) h1 h2
      refine ⟨a, b, fun p hp => ?_⟩
      cases hp
      exact ⟨Ne.symm hn, _, e2, rfl⟩
    · rw [eo k hk1 hk] at hm
      obtain ⟨a, b, c⟩ := h.2 k m hm
      refine ⟨a, b, fun p hp => ?_⟩
      obtain ⟨d, r, hr, e⟩ := c p hp
      refine ⟨d, r, ?_, e⟩
      rw [eo _ (by intro e; rw [e, hi] at hr; cases hr) (by intro e; rw [e, hj] at hr; cases hr)]; exact hr

/-! ### What LINE_RESIZE and LINE_CANCEL write -/

/-- The line written with its notice. -/
theorem noticed_self (s : State) (id : Nat) (l m : Line) : (s.noticed id l m).line id = some m := by
  unfold State.noticed; split
  · next h => simp; cases m; simp_all
  · simp

/-- The other lines. -/
theorem noticed_other (s : State) {id k : Nat} (l m : Line) (hk : k ≠ id) : (s.noticed id l m).line k = s.line k := by
  unfold State.noticed; split
  · exact line_raiseNotice_other s _ hk
  · exact line_putLine_other s _ hk

/-- Only the book and the Attention Unit are written. -/
theorem noticed_eq (s : State) (id : Nat) (l m : Line) : ∃ b a, s.noticed id l m = { s with book := b, attn := a } :=
    by
  unfold State.noticed; split
  · unfold State.raiseNotice; rw [frameDue_eq]; exact ⟨_, _, rfl⟩
  · exact ⟨_, _, rfl⟩

/-- A resize keeps the pair. -/
theorem resized_pair (l : Line) (n : Nat) : (l.resized n).pair = l.pair := by unfold Line.resized; split <;> rfl

/-- A cancel keeps the pair. -/
theorem cancelled_pair (l : Line) : (l.cancelled).pair = l.pair := by unfold Line.cancelled; (repeat' split) <;> rfl

/-- The resize of an ACTIVE line, as one write. -/
theorem resizeLine_noticed (s : State) (id n : Nat) (l : Line) (hl : s.line id = some l) (ha : l.state = .active)
    (hn : l.notice = false) (hh : l.reserved + l.cut ≤ n) :
    resizeLine n id s = s.noticed id l (l.resized n) := by
  simp only [resizeLine, hl, State.settleLine, ha, State.noticed, Line.resized, hn]
  by_cases c : l.reserved = 0 ∧ n = l.cut
  · obtain ⟨c1, c2⟩ := c
    simp [c1, c2, State.raiseNotice]
  · have : ¬ (n - l.reserved - l.cut = 0 ∧ l.reserved = 0) := by omega
    simp [c, this]

/-- The cancel of a line, as one write. -/
theorem cancelLine_eq (s : State) (id : Nat) (l : Line) (hl : s.line id = some l) (hn : l.state = .active → l.notice =
    false) :
    cancelLine id s = if l.state = .active then s.noticed id l l.cancelled else s := by
  simp only [cancelLine, hl]
  split
  · next ha =>
    have hn := hn ha
    simp only [State.noticed, Line.cancelled, ha, hn]
    by_cases c : l.reserved = 0
    · simp [c, State.raiseNotice]
    · simp [c]
  · rfl

end Sys2Proof.Laws
end

