-- ==== Sys2Proof/Laws/Cells.lean ====
section
/-! SUPPORT. The cells of a hide: run lists, rectangles, addresses and reads. -/

namespace Sys2Proof.Laws

open Sys2Proof.Machine

/-- The cells of a run list lie side by side, each with the code of one of its runs. -/
theorem runCells_mem (runs : List Run) (x i z : Nat) (h : (i, z) ∈ runCells x runs) : x ≤ i ∧ i < x +
    (runs.map Run.length).sum ∧ ∃ r ∈ runs, z = r.code := by
  induction runs generalizing x with
  | nil => cases h
  | cons r t ih =>
    simp only [runCells, List.mem_append, List.mem_map, List.mem_range, Prod.mk.injEq] at h
    simp only [List.map_cons, List.sum_cons]
    rcases h with ⟨k, hk, h1, h2⟩ | h
    · exact ⟨by omega, by omega, r, List.mem_cons_self, h2.symm⟩
    · obtain ⟨a, b, r', hr', hz⟩ := ih _ h
      exact ⟨by omega, by omega, r', List.mem_cons_of_mem _ hr', hz⟩

/-- A run list names no cell twice. -/
theorem runCells_nodup (runs : List Run) (x : Nat) : ((runCells x runs).map (·.1)).Nodup := by
  induction runs generalizing x with
  | nil => simp [runCells]
  | cons r t ih =>
    simp only [runCells, List.map_append, List.map_map]
    rw [List.nodup_append]
    refine ⟨?_, ih _, ?_⟩
    · show (List.map (fun k => x + k) (List.range r.length)).Nodup
      exact List.Nodup.map (fun a b h => by simpa using h) List.nodup_range
    · intro a ha b hb hab
      simp only [List.mem_map, List.mem_range, Function.comp] at ha hb
      obtain ⟨k, hk, rfl⟩ := ha
      obtain ⟨⟨i, z⟩, hb, rfl⟩ := hb
      have := runCells_mem _ _ _ _ hb
      simp at hab; omega

/-- The cells of runs rise. -/
theorem runCells_rising (runs : List Run) (x : Nat) :
    (runCells x runs).Pairwise (fun a b => a.1 < b.1) := by
  induction runs generalizing x with
  | nil => simp [runCells]
  | cons r t ih =>
    simp only [runCells]
    rw [List.pairwise_append]
    refine ⟨?_, ih _, ?_⟩
    · rw [List.pairwise_map]
      exact List.pairwise_lt_range.imp (fun h => by simpa using h)
    · intro a ha b hb
      simp only [List.mem_map, List.mem_range] at ha
      obtain ⟨k, hk, rfl⟩ := ha
      have := runCells_mem _ _ b.1 b.2 hb
      simp; omega

/-- A rising list without its repetitions rises strictly. -/
theorem eraseDups_sorted : ∀ (n : Nat) (l : List Nat), l.length ≤ n → l.Pairwise (· ≤ ·) →
    l.eraseDups.Pairwise (· < ·) := by
  intro n
  induction n with
  | zero => intro l h _; have : l = [] := List.length_eq_zero_iff.1 (by omega); subst this; simp
  | succ n ih =>
    intro l h hp
    cases l with
    | nil => simp
    | cons a t =>
      rw [List.eraseDups_cons]
      rw [List.pairwise_cons] at hp
      refine List.pairwise_cons.2 ⟨fun b hb => ?_, ih _ ?_ (hp.2.filter _)⟩
      · rw [List.mem_eraseDups] at hb
        simp at hb
        have := hp.1 b hb.1
        omega
      · have := List.length_filter_le (fun b => !b == a) t
        simp at h; omega

/-- The lowest unused number, where every lower one is used. -/
theorem lowestUnused_eq (used : List Nat) (fuel i f : Nat) (h1 : i ≤ f) (h2 : f < i + fuel) (h3 : f ∉ used) (h4 : ∀ k,
    i ≤ k → k < f → k ∈ used) :
    lowestUnused used fuel i = some f := by
  induction fuel generalizing i with
  | zero => omega
  | succ n ih =>
    simp only [lowestUnused]
    by_cases hi : i = f
    · subst hi; simp [h3]
    · have : used.contains i = true := by simpa using h4 i (le_refl _) (by omega)
      rw [if_pos this]
      exact ih (i+1) (by omega) (by omega) (fun k hk => h4 k (by omega))

/-- Where no frame stands twice, two tiles with one frame are one tile. -/
theorem nodup_get {t : Tab Nat} (hn : (t.map (·.2)).Nodup) {a b f : Nat} (ha : Tab.get t a = some f) (hb :
    Tab.get t b = some f) : a = b := by
  have ma := mem_of_get ha
  have mb := mem_of_get hb
  have := List.inj_on_of_nodup_map hn ma mb rfl
  exact congrArg Prod.fst this

/-- Where a cell has an address, it lies in the extent and its tile has the frame. -/
theorem cellAt_some {g : Hide} {x y a : Nat} (h : g.cellAt x y = some a) : x < g.width ∧ y < g.height ∧ ∃ f,
    Tab.get g.frames (g.tileOf x y) = some f ∧ a = cellAddr f x y := by
  unfold Hide.cellAt at h
  split at h
  · next he =>
    simp [Hide.inExtent] at he
    simp at h
    obtain ⟨f, hf, rfl⟩ := h
    exact ⟨he.1, he.2, f, hf, rfl⟩
  · cases h

/-- Where no frame stands twice, two cells with one address are one cell. -/
theorem cellAt_inj {g : Hide} (hn : (g.frames.map (·.2)).Nodup) {x y x' y' a : Nat} (h : g.cellAt x y = some a) (h' :
    g.cellAt x' y' = some a) : x = x' ∧ y = y' := by
  obtain ⟨hx, hy, f, hf, rfl⟩ := cellAt_some h
  obtain ⟨hx', hy', f', hf', he⟩ := cellAt_some h'
  simp only [cellAddr, Config.frameCells] at he
  have : f = f' := by omega
  subst this
  have ht := nodup_get hn hf hf'
  simp only [Hide.tileOf, Hide.cols] at ht
  have c1 : x / 32 < (g.width + 31) / 32 := by omega
  have c2 : x' / 32 < (g.width + 31) / 32 := by omega
  have hyd : y / 32 = y' / 32 := by
    have := congrArg (· / ((g.width + 31) / 32)) ht
    simp only [Nat.mul_comm _ ((g.width + 31) / 32)] at this
    rwa [Nat.mul_add_div (by omega), Nat.mul_add_div (by omega), Nat.div_eq_of_lt c1, Nat.div_eq_of_lt c2,
      Nat.add_zero, Nat.add_zero] at this
  rw [hyd] at ht
  constructor <;> omega

/-- A read of a cell with no outcome to take: the content as it stands. -/
theorem readCell_clean (s : State) (slot x y : Nat) (g : Hide) (ht : s.tape = []) (hg : s.hide slot = some g) :
    s.readCell slot x y = (s, match Tab.get g.frames (g.tileOf x y) with
      | none => .noFrame
      | some f => if g.poisoned.contains (g.tileOf x y) then .poisoned false else s.contentRead (cellAddr f x y)) := by
  unfold State.readCell
  simp only [hg]
  cases Tab.get g.frames (g.tileOf x y) with
  | none => rfl
  | some f =>
    dsimp only
    split
    · rfl
    · have : ({ s with tape := s.tape.tail } : State) = s := by cases s; simp_all
      simp [ht]
      cases s; simp_all

/-- A content is a grade or OUTSIDE. -/
theorem contentRead_cases (s : State) (a : Nat) :
   (∃ e, s.contentRead a = .grade e ∧ (Mem.read outsideCode s.grid.contents a).toNat = e.val ∧ e.val < 4) ∨
   (s.contentRead a = .outside ∧ ¬ (Mem.read outsideCode s.grid.contents a).toNat < 4) := by
  unfold State.contentRead
  generalize (Mem.read outsideCode s.grid.contents a).toNat = n
  rcases n with _ | _ | _ | _ | n
  · exact Or.inl ⟨.a, rfl, rfl, by decide⟩
  · exact Or.inl ⟨.b, rfl, rfl, by decide⟩
  · exact Or.inl ⟨.c, rfl, rfl, by decide⟩
  · exact Or.inl ⟨.reject, rfl, rfl, by decide⟩
  · exact Or.inr ⟨rfl, by omega⟩

/-- A rectangle names no cell twice. -/
theorem rect_cells_nodup (r : Rect) : r.cells.Nodup := by
  unfold Rect.cells
  rw [List.nodup_flatMap]
  refine ⟨fun b _ => List.Nodup.map (fun a c h => by simpa using h) List.nodup_range, ?_⟩
  refine List.Pairwise.imp_of_mem ?_ List.nodup_range
  intro a b _ _ hab
  simp only [Function.onFun]
  intro p hp1 hp2
  simp only [List.mem_map] at hp1 hp2
  obtain ⟨i, _, rfl⟩ := hp1
  obtain ⟨j, _, h⟩ := hp2
  simp at h; omega

/-- The cells of a rectangle are those that it has. -/
theorem rect_cells_mem (r : Rect) (x y : Nat) : (x, y) ∈ r.cells ↔ r.has x y = true := by
  unfold Rect.cells Rect.has
  simp only [List.mem_flatMap, List.mem_range, List.mem_map, Prod.mk.injEq, Bool.and_eq_true, decide_eq_true_eq]
  constructor
  · rintro ⟨b, hb, a, ha, rfl, rfl⟩; omega
  · intro h; exact ⟨y - r.y0, by omega, x - r.x0, by omega, by omega, by omega⟩

end Sys2Proof.Laws
end

