-- ==== Sys2Proof/Laws/Exec.lean ====
section
/-! SUPPORT. What exec does with a request, said once for all of them. -/

namespace Sys2Proof.Laws

open Sys2Proof.Machine

/-! ### A refusal changes nothing -/

/-- The work of a request changes nothing where its reply is a plain refusal. -/
def QuietRefusal (s : State) (r : State × Reply) : Prop := ∀ reason detail, r.2 = .refuse reason detail → r.1 = s

theorem quiet_same (s : State) (r : Reply) : QuietRefusal s (s, r) := fun _ _ _ => rfl

theorem quiet_accept (s t : State) (r : Result) : QuietRefusal s (t, .accept r) := fun _ _ h => by cases h

theorem quiet_checked {s : State} {checks : List Check} {go : State × Reply} (h : QuietRefusal s go) :
    QuietRefusal s (checked s checks go) := by
  unfold checked
  split
  · exact quiet_same s _
  · exact h

theorem quiet_onHide {s : State} {slot : Nat} {taken busy : List HideState} {go : Hide → State × Reply}
    (h : ∀ g, QuietRefusal s (go g)) : QuietRefusal s (onHide s slot taken busy go) := by
  unfold onHide refuse
  (repeat' split) <;> first | exact quiet_same s _ | exact h _

theorem quiet_onChannel {s : State} {k : Nat} {go : Fin 4 → State × Reply} (h : ∀ c, QuietRefusal s (go c)) :
    QuietRefusal s (onChannel s k go) := by
  unfold onChannel refuse
  split
  · exact h _
  · exact quiet_same s _

/-! ### The shared form of a request -/

/-- How exec runs one request: on its link by the shared operation, with a body that touches no link and no frame. -/
structure RunsAs (c : Instr) (l : Link) (kind : Nat) (h : Head) (len : Nat) (ends : State → Option ReplyEnd)
    (body : State → State × Reply) : Prop where
  runs : ((∀ s, exec c s = .next (requestUntil ends l kind h len body s)) ∧ ∀ t, (body t).1.tape = t.tape) ∨
    ∃ reads, ∀ s, exec c s = .next (s.withReads reads (requestUntil ends l kind h len body))
  sent : ∀ t, (body t).1.sent = t.sent
  pending : ∀ t, (body t).1.pending = t.pending
  links : ∀ t, (body t).1.links = t.links
  quiet : mayActRefused c = false → ∀ t, QuietRefusal t (body t)

/-- The work of a request on the state whose receiver is HUNTING again; nothing for another event. -/
def bodyOf : Instr → State → State × Reply
  | .identify _ => identifyBody
  | .reset _ => resetBody
  | .set _ code v => setBody code v
  | .get _ code => getBody code
  | .save _ => saveBody
  | .load _ => loadBody
  | .defaults _ => defaultsBody
  | .lineAdd _ id slot style size ordered => lineAddBody id slot style size ordered
  | .pairAdd _ id1 id2 slot1 slot2 ordered style size => pairAddBody id1 id2 slot1 slot2 ordered style size
  | .lineResize _ id ordered => lineResizeBody id ordered
  | .lineCancel _ id => lineCancelBody id
  | .lineRemove _ id => lineRemoveBody id
  | .lineRead _ id => lineReadBody id
  | .pieceDefine _ slot code margin offsets band => pieceDefineBody slot code margin offsets band
  | .variantDefine _ slot o w g => variantDefineBody slot o w g
  | .variantRows _ slot o row start runs => variantRowsBody slot o row start runs
  | .pieceReady _ slot => pieceReadyBody slot
  | .pieceErase _ slot => pieceEraseBody slot
  | .pieceRead _ slot row => pieceReadBody slot row
  | .bankMode _ bank mode => bankModeBody bank mode
  | .hideOpen _ tag w g b => hideOpenBody tag w g b
  | .rows _ slot y x runs => rowsBody slot y x runs
  | .thickness _ slot es => thicknessBody slot es
  | .flaw _ _ slot x _ => flawBody slot x
  | .flawsClear _ slot => flawsClearBody slot
  | .mapCommit _ slot => mapCommitBody slot
  | .hideRead _ slot => hideReadBody slot
  | .placementsRead _ slot first => placementsReadBody slot first
  | .discard _ _ slot => discardBody slot
  | .close _ slot => closeBody slot
  | .nest _ slot steps => nestBody slot steps
  | .place _ slot line o x y _ => placeBody slot line o x y
  | .placePair _ slot line a b _ => placePairBody slot line a b
  | .strike _ slot i => strikeBody slot i
  | .release _ slot u m => releaseBody slot u m
  | .hold _ => holdBody
  | .run _ => runBody
  | .cutterEnable _ k => cutterEnableBody k
  | .cutterDisable _ k => cutterDisableBody k
  | .cutterReset _ k _ => cutterResetBody k
  | .cutterRead _ k => cutterReadBody k
  | .storeRead _ => storeReadBody
  | .attnSummary _ => attnSummaryBody
  | .attnRead _ source => attnReadBody source
  | .attnClear _ source list => attnClearBody source list
  | .ready d _ _ => readyBody d
  | .cutReport d _ n o r k => cutReportBody d n o r k
  | .cutterFault d _ code _ => cutterFaultBody d code
  | _ => fun s => (s, .accept .nothing)

/-- Every request runs by the shared operation. -/
theorem request_runs {c : Instr} {l : Link} {kind : Nat} {h : Head} {len : Nat}
    (hc : asRequest c = some (l, kind, h, len)) : ∃ ends, RunsAs c l kind h len ends (bodyOf c) := by
  cases c <;> simp only [asRequest, Option.some.injEq, Prod.mk.injEq, reduceCtorEq] at hc <;>
    obtain ⟨rfl, rfl, rfl, rfl⟩ := hc
  case identify => exact ⟨_, show RunsAs _ _ _ _ _ _ (identifyBody) from ⟨Or.inl ⟨fun _ => rfl, by simp⟩, by simp, by simp, by simp,
    fun _ t => quiet_accept _ _ _⟩⟩
  case reset => exact ⟨_, show RunsAs _ _ _ _ _ _ (resetBody) from ⟨Or.inl ⟨fun _ => rfl, by simp⟩, by simp, by simp, by simp,
    fun _ t => quiet_accept _ _ _⟩⟩
  case set _ code v =>
    refine ⟨_, show RunsAs _ _ _ _ _ _ (setBody code v) from ⟨Or.inl ⟨fun _ => rfl, by simp⟩, by simp, by simp, by simp, fun _ t => ?_⟩⟩
    unfold setBody refuse
    (repeat' split) <;> first | exact quiet_same _ _ | exact quiet_accept _ _ _
  case get _ code =>
    refine ⟨_, show RunsAs _ _ _ _ _ _ (getBody code) from ⟨Or.inl ⟨fun _ => rfl, by simp⟩, by simp, by simp, by simp, fun _ t => ?_⟩⟩
    unfold getBody refuse
    (repeat' split) <;> exact quiet_same _ _
  case save =>
    exact ⟨_, show RunsAs _ _ _ _ _ _ (saveBody) from ⟨Or.inl ⟨fun _ => rfl, by simp⟩, by simp, by simp, by simp, fun _ t => quiet_checked
      (quiet_accept _ _ _)⟩⟩
  case load =>
    exact ⟨_, show RunsAs _ _ _ _ _ _ (loadBody) from ⟨Or.inl ⟨fun _ => rfl, by simp⟩, by simp, by simp, by simp, fun _ t => quiet_checked
      (quiet_accept _ _ _)⟩⟩
  case defaults =>
    exact ⟨_, show RunsAs _ _ _ _ _ _ (defaultsBody) from ⟨Or.inl ⟨fun _ => rfl, by simp⟩, by simp, by simp, by simp, fun _ t => quiet_accept _ _ _⟩⟩
  case lineAdd _ id slot style size ordered =>
    exact ⟨_, show RunsAs _ _ _ _ _ _ (lineAddBody id slot style size ordered) from ⟨Or.inl ⟨fun _ => rfl, by simp⟩, by simp, by simp, by simp,
      fun _ t => quiet_checked (quiet_accept _ _ _)⟩⟩
  case pairAdd _ id1 id2 slot1 slot2 ordered style size =>
    exact ⟨_, show RunsAs _ _ _ _ _ _ (pairAddBody id1 id2 slot1 slot2 ordered style size) from ⟨Or.inl ⟨fun _ => rfl, by simp⟩, by simp, by simp,
      by simp,
      fun _ t => quiet_checked (quiet_accept _ _ _)⟩⟩
  case lineResize _ id ordered =>
    refine ⟨_, show RunsAs _ _ _ _ _ _ (lineResizeBody id ordered) from ⟨Or.inl ⟨fun _ => rfl, by simp⟩, by simp, by simp, by simp, fun _ t => ?_⟩⟩
    unfold lineResizeBody refuse
    split
    · exact quiet_same _ _
    · exact quiet_checked (quiet_accept _ _ _)
  case lineCancel _ id =>
    refine ⟨_, show RunsAs _ _ _ _ _ _ (lineCancelBody id) from ⟨Or.inl ⟨fun _ => rfl, by simp⟩, by simp, by simp, by simp, fun _ t => ?_⟩⟩
    unfold lineCancelBody refuse
    split
    · exact quiet_same _ _
    · exact quiet_checked (quiet_accept _ _ _)
  case lineRemove _ id =>
    refine ⟨_, show RunsAs _ _ _ _ _ _ (lineRemoveBody id) from ⟨Or.inl ⟨fun _ => rfl, by simp⟩, by simp, by simp, by simp, fun _ t => ?_⟩⟩
    unfold lineRemoveBody refuse
    split
    · exact quiet_same _ _
    · exact quiet_checked (quiet_accept _ _ _)
  case lineRead _ id =>
    refine ⟨_, show RunsAs _ _ _ _ _ _ (lineReadBody id) from ⟨Or.inl ⟨fun _ => rfl, by simp⟩, by simp, by simp, by simp, fun _ t => ?_⟩⟩
    unfold lineReadBody refuse
    split <;> exact quiet_same _ _
  case pieceDefine _ slot code margin offsets band =>
    exact ⟨_, show RunsAs _ _ _ _ _ _ (pieceDefineBody slot code margin offsets band) from ⟨Or.inl ⟨fun _ => rfl, by simp⟩, by simp, by simp, by simp,
      fun _ t => quiet_checked (quiet_accept _ _ _)⟩⟩
  case variantDefine _ slot o w g =>
    refine ⟨_, show RunsAs _ _ _ _ _ _ (variantDefineBody slot o w g) from ⟨Or.inl ⟨fun _ => rfl, by simp⟩, by simp, by simp, by simp, fun _ t => ?_⟩⟩
    unfold variantDefineBody refuse
    refine quiet_checked ?_
    split
    · exact quiet_same _ _
    · exact quiet_accept _ _ _
  case variantRows _ slot o row start runs =>
    refine ⟨_, show RunsAs _ _ _ _ _ _ (variantRowsBody slot o row start runs) from ⟨Or.inl ⟨fun _ => rfl, by simp⟩, by simp, by simp, by simp,
      fun _ t => ?_⟩⟩
    unfold variantRowsBody refuse
    refine quiet_checked ?_
    split
    · exact quiet_same _ _
    · exact quiet_accept _ _ _
  case pieceReady _ slot =>
    refine ⟨_, show RunsAs _ _ _ _ _ _ (pieceReadyBody slot) from ⟨Or.inl ⟨fun _ => rfl, by simp⟩, by simp, by simp, by simp, fun _ t => ?_⟩⟩
    unfold pieceReadyBody refuse
    refine quiet_checked ?_
    split
    · exact quiet_same _ _
    · exact quiet_checked (quiet_accept _ _ _)
  case pieceErase _ slot =>
    exact ⟨_, show RunsAs _ _ _ _ _ _ (pieceEraseBody slot) from ⟨Or.inl ⟨fun _ => rfl, by simp⟩, by simp, by simp, by simp,
      fun _ t => quiet_checked (quiet_accept _ _ _)⟩⟩
  case pieceRead _ slot row =>
    exact ⟨_, show RunsAs _ _ _ _ _ _ (pieceReadBody slot row) from ⟨Or.inl ⟨fun _ => rfl, by simp⟩, by simp, by simp, by simp,
      fun _ t => quiet_checked (quiet_accept _ _ _)⟩⟩
  case bankMode _ bank mode =>
    refine ⟨_, show RunsAs _ _ _ _ _ _ (bankModeBody bank mode) from ⟨Or.inl ⟨fun _ => rfl, by simp⟩, by simp, by simp, by simp, fun _ t => ?_⟩⟩
    unfold bankModeBody refuse
    (repeat' split) <;> first | exact quiet_same _ _ | exact quiet_accept _ _ _
  case hideOpen _ tag w g b =>
    refine ⟨_, show RunsAs _ _ _ _ _ _ (hideOpenBody tag w g b) from ⟨Or.inl ⟨fun _ => rfl, by simp⟩, by simp, by simp, by simp, fun _ t => ?_⟩⟩
    unfold hideOpenBody refuse
    refine quiet_checked ?_
    split
    · exact quiet_same _ _
    · exact quiet_accept _ _ _
  case rows _ slot y x runs =>
    exact ⟨_, show RunsAs _ _ _ _ _ _ (rowsBody slot y x runs) from ⟨Or.inl ⟨fun _ => rfl, by simp⟩, by simp, by simp, by simp,
      fun _ t => quiet_onHide fun g => quiet_checked (quiet_accept _ _ _)⟩⟩
  case thickness _ slot es =>
    exact ⟨_, show RunsAs _ _ _ _ _ _ (thicknessBody slot es) from ⟨Or.inl ⟨fun _ => rfl, by simp⟩, by simp, by simp, by simp,
      fun _ t => quiet_onHide fun g => quiet_checked (quiet_accept _ _ _)⟩⟩
  case flaw _ _ slot x reads =>
    refine ⟨_, show RunsAs _ _ _ _ _ _ (flawBody slot x) from ⟨Or.inr ⟨reads, fun _ => rfl⟩, by simp, by simp, by simp, fun _ t => ?_⟩⟩
    refine quiet_onHide fun g => quiet_checked ?_
    split <;> exact quiet_accept _ _ _
  case flawsClear _ slot =>
    exact ⟨_, show RunsAs _ _ _ _ _ _ (flawsClearBody slot) from ⟨Or.inl ⟨fun _ => rfl, by simp⟩, by simp, by simp, by simp,
      fun _ t => quiet_onHide fun g => quiet_accept _ _ _⟩⟩
  case mapCommit _ slot =>
    exact ⟨_, show RunsAs _ _ _ _ _ _ (mapCommitBody slot) from ⟨Or.inl ⟨fun _ => rfl, by simp⟩, by simp, by simp, by simp,
      fun _ t => quiet_onHide fun g => quiet_accept _ _ _⟩⟩
  case hideRead _ slot =>
    exact ⟨_, show RunsAs _ _ _ _ _ _ (hideReadBody slot) from ⟨Or.inl ⟨fun _ => rfl, by simp⟩, by simp, by simp, by simp,
      fun _ t => quiet_checked (quiet_accept _ _ _)⟩⟩
  case placementsRead _ slot first =>
    exact ⟨_, show RunsAs _ _ _ _ _ _ (placementsReadBody slot first) from ⟨Or.inl ⟨fun _ => rfl, by simp⟩, by simp, by simp, by simp,
      fun _ t => quiet_onHide fun g => quiet_checked (quiet_accept _ _ _)⟩⟩
  case discard _ _ slot =>
    refine ⟨_, show RunsAs _ _ _ _ _ _ (discardBody slot) from ⟨Or.inl ⟨fun _ => rfl, by simp⟩, by simp, by simp, by simp, fun _ t => ?_⟩⟩
    refine quiet_onHide fun g => ?_
    split <;> exact quiet_accept _ _ _
  case close _ slot =>
    exact ⟨_, show RunsAs _ _ _ _ _ _ (closeBody slot) from ⟨Or.inl ⟨fun _ => rfl, by simp⟩, by simp, by simp, by simp,
      fun _ t => quiet_onHide fun g => quiet_accept _ _ _⟩⟩
  case nest _ slot steps =>
    exact ⟨_, show RunsAs _ _ _ _ _ _ (nestBody slot steps) from ⟨Or.inl ⟨fun _ => rfl, by simp⟩, by simp, by simp, by simp,
      fun _ t => quiet_onHide fun g => quiet_checked (quiet_accept _ _ _)⟩⟩
  case place _ slot line o x y reads =>
    exact ⟨_, show RunsAs _ _ _ _ _ _ (placeBody slot line o x y) from ⟨Or.inr ⟨reads, fun _ => rfl⟩, by simp, by simp, by simp,
      fun hq => by cases hq⟩⟩
  case placePair _ slot line a b reads =>
    exact ⟨_, show RunsAs _ _ _ _ _ _ (placePairBody slot line a b) from ⟨Or.inr ⟨reads, fun _ => rfl⟩, by simp, by simp, by simp,
      fun hq => by cases hq⟩⟩
  case strike _ slot i =>
    exact ⟨_, show RunsAs _ _ _ _ _ _ (strikeBody slot i) from ⟨Or.inl ⟨fun _ => rfl, by simp⟩, by simp, by simp, by simp,
      fun _ t => quiet_onHide fun g => quiet_checked (quiet_accept _ _ _)⟩⟩
  case release _ slot u m =>
    exact ⟨_, show RunsAs _ _ _ _ _ _ (releaseBody slot u m) from ⟨Or.inl ⟨fun _ => rfl, by simp⟩, by simp, by simp, by simp,
      fun _ t => quiet_onHide fun g => quiet_checked (quiet_accept _ _ _)⟩⟩
  case hold => exact ⟨_, show RunsAs _ _ _ _ _ _ (holdBody) from ⟨Or.inl ⟨fun _ => rfl, by simp⟩, by simp, by simp, by simp,
    fun _ t => quiet_accept _ _ _⟩⟩
  case run => exact ⟨_, show RunsAs _ _ _ _ _ _ (runBody) from ⟨Or.inl ⟨fun _ => rfl, by simp⟩, by simp, by simp, by simp,
    fun _ t => quiet_accept _ _ _⟩⟩
  case cutterEnable _ k =>
    exact ⟨_, show RunsAs _ _ _ _ _ _ (cutterEnableBody k) from ⟨Or.inl ⟨fun _ => rfl, by simp⟩, by simp, by simp, by simp,
      fun _ t => quiet_onChannel fun d => quiet_accept _ _ _⟩⟩
  case cutterDisable _ k =>
    refine ⟨_, show RunsAs _ _ _ _ _ _ (cutterDisableBody k) from ⟨Or.inl ⟨fun _ => rfl, by simp⟩, by simp, by simp, by simp, fun _ t => ?_⟩⟩
    refine quiet_onChannel fun d => ?_
    split
    · exact quiet_same _ _
    · exact quiet_accept _ _ _
  case cutterReset _ k reads =>
    exact ⟨_, show RunsAs _ _ _ _ _ _ (cutterResetBody k) from ⟨Or.inr ⟨reads, fun _ => rfl⟩, by simp, by simp, by simp,
      fun _ t => quiet_onChannel fun d => quiet_accept _ _ _⟩⟩
  case cutterRead _ k =>
    exact ⟨_, show RunsAs _ _ _ _ _ _ (cutterReadBody k) from ⟨Or.inl ⟨fun _ => rfl, by simp⟩, by simp, by simp, by simp,
      fun _ t => quiet_onChannel fun d => quiet_accept _ _ _⟩⟩
  case storeRead => exact ⟨_, show RunsAs _ _ _ _ _ _ (storeReadBody) from ⟨Or.inl ⟨fun _ => rfl, by simp⟩, by simp, by simp, by simp,
    fun _ t => quiet_accept _ _ _⟩⟩
  case attnSummary =>
    exact ⟨_, show RunsAs _ _ _ _ _ _ (attnSummaryBody) from ⟨Or.inl ⟨fun _ => rfl, by simp⟩, by simp, by simp, by simp,
      fun _ t => quiet_accept _ _ _⟩⟩
  case attnRead _ source =>
    exact ⟨_, show RunsAs _ _ _ _ _ _ (attnReadBody source) from ⟨Or.inl ⟨fun _ => rfl, by simp⟩, by simp, by simp, by simp,
      fun _ t => quiet_checked (quiet_accept _ _ _)⟩⟩
  case attnClear _ source list =>
    exact ⟨_, show RunsAs _ _ _ _ _ _ (attnClearBody source list) from ⟨Or.inl ⟨fun _ => rfl, by simp⟩, by simp, by simp, by simp,
      fun _ t => quiet_checked (quiet_accept _ _ _)⟩⟩
  case ready d _ reads =>
    exact ⟨_, show RunsAs _ _ _ _ _ _ (readyBody d) from ⟨Or.inr ⟨reads, fun _ => rfl⟩, by simp, by simp, by simp, fun _ t => quiet_accept _ _ _⟩⟩
  case cutReport d _ n o r k =>
    exact ⟨_, show RunsAs _ _ _ _ _ _ (cutReportBody d n o r k) from ⟨Or.inl ⟨fun _ => rfl, by simp⟩, by simp, by simp, by simp,
      fun hq => by cases hq⟩⟩
  case cutterFault d _ code reads =>
    exact ⟨_, show RunsAs _ _ _ _ _ _ (cutterFaultBody d code) from ⟨Or.inr ⟨reads, fun _ => rfl⟩, by simp, by simp, by simp,
      fun _ t => quiet_accept _ _ _⟩⟩

end Sys2Proof.Laws
end

