-- ==== Sys2Proof/Laws/Stable.lean ====
section
/-! SUPPORT. Conditions that the small writes keep, and that the operations made of those writes therefore keep. -/

namespace Sys2Proof.Laws

open Sys2Proof.Machine

/-- A condition on the part that the writes of a read, a fit test, a strike and a sweep keep. -/
structure Steady (P : State → Prop) : Prop where
  tape : ∀ s x, P s → P { s with tape := x }
  links : ∀ s x, P s → P { s with links := x }
  sent : ∀ s x, P s → P { s with sent := x }
  pending : ∀ s x, P s → P { s with pending := x }
  attn : ∀ s ev w, P s → P { s with attn := { s.attn with events := ev, waiting := w } }
  throttle : ∀ s x, P s → P { s with grid := { s.grid with throttle := x } }
  corrected : ∀ s x, P s → P { s with grid := { s.grid with corrected := x } }
  contents : ∀ s a b, P s → P { s with grid := { s.grid with contents := Mem.write outsideCode s.grid.contents a b } }
  covers : ∀ s a b, P s → P { s with grid := { s.grid with covers := Mem.write noCover s.grid.covers a b } }
  note : ∀ s slot f, (∀ h, (f h).state = h.state ∧ (f h).frames = h.frames ∧ (f h).thick = h.thick ∧
    (f h).placements = h.placements ∧ (f h).release = h.release ∧ (f h).channel = h.channel ∧ (f h).route = h.route) →
    P s → P (s.modHide slot f)
  strikeOne : ∀ s slot i, P s → P (s.strikeOne slot i)
  marker : ∀ s slot i b, P s → P (s.modPlacement slot i fun p => { p with marker := b })

namespace Steady

variable {P : State → Prop} (H : Steady P)

include H

/-! ### Links and the Attention Unit -/

theorem putLink (s : State) (l : Link) (v : LinkState) (h : P s) : P (s.putLink l v) := by
  cases l <;> exact H.links _ _ h

theorem hunt (s : State) (l : Link) (h : P s) : P (s.hunt l) := H.putLink _ _ _ h

theorem setInHand (s : State) (l : Link) (q : Option InHand) (h : P s) : P (s.setInHand l q) := H.putLink _ _ _ h

theorem raise (s : State) (e : Event) (h : P s) : P (s.raise e) := by
  rw [raise_writes]; exact H.attn _ _ _ h

theorem clearHide (s : State) (slot : Nat) (h : P s) : P (s.clearHide slot) := H.attn _ _ _ h

/-- A command with reads keeps the condition where its effect does. -/
theorem withReads (s : State) (reads : List ReadOutcome) (f : State → State) (hf : ∀ t, P t → P (f t)) (hs : P s) :
    P (s.withReads reads f) := withReads_keeps s reads f (fun t x => H.tape t x) hf hs

/-! ### The Grid Store -/

theorem toThrottled (s : State) (h : P s) : P s.toThrottled := by
  unfold State.toThrottled
  split
  · exact h
  · exact H.raise _ _ (H.throttle _ _ h)

theorem toNormal (s : State) (h : P s) : P s.toNormal := by
  unfold State.toNormal
  split
  · exact h
  · exact H.raise _ _ (H.throttle _ _ h)

theorem allocationEval (s : State) (h : P s) : P s.allocationEval := by
  unfold State.allocationEval
  split
  · exact H.toThrottled _ h
  · exact h

theorem releaseEval (s : State) (h : P s) : P s.releaseEval := by
  unfold State.releaseEval
  split
  · exact H.toNormal _ h
  · exact h

theorem markEval (s : State) (h : P s) : P s.markEval := by
  unfold State.markEval
  (repeat' split) <;> first | exact H.toThrottled _ h | exact H.toNormal _ h | exact h

theorem poisonTile (s : State) (slot tile : Nat) (h : P s) : P (s.poisonTile slot tile) :=
  H.raise _ _ (H.note _ _ _ (fun _ => ⟨rfl, rfl, rfl, rfl, rfl, rfl, rfl⟩) h)

theorem readCell (s : State) (slot x y : Nat) (h : P s) : P (s.readCell slot x y).1 := by
  unfold State.readCell
  split
  · exact h
  · split
    · exact h
    · split
      · exact h
      · split
        · exact H.poisonTile _ _ _ (H.tape _ _ h)
        · exact H.corrected _ _ (H.tape _ _ h)
        · exact H.tape _ _ h

/-- Covers written one address after another. -/
theorem coverWrites (addrs : List Nat) (f : Mem → Nat → Byte) (s : State) (h : P s) :
    P { s with grid := { s.grid with
      covers := addrs.foldl (fun m a => Mem.write noCover m a (f m a)) s.grid.covers } } := by
  induction addrs generalizing s with
  | nil => exact h
  | cons a t ih => exact ih _ (H.covers s a (f s.grid.covers a) h)

theorem markCover (s : State) (slot m : Nat) (v : Variant) (x y : Nat) (h : P s) : P (s.markCover slot m v x y) :=
  H.coverWrites _ (fun m a => Mem.read noCover m a + 1) s h

theorem unmarkCover (s : State) (slot a b x y : Nat) (h : P s) : P (s.unmarkCover slot a b x y) := by
  unfold State.unmarkCover
  split
  · exact h
  · exact H.coverWrites _ (fun m a => Mem.read noCover m a - 1) s h

theorem coverFor (s : State) (slot a b x y : Nat) (h : P s) : P (s.coverFor slot a b x y) := by
  unfold State.coverFor
  split
  · exact h
  · exact H.markCover _ _ _ _ _ _ h

theorem coverFound (s : State) (slot : Nat) (q : Search) (o x y : Nat) (h : P s) : P (coverFound slot q o x y s) := by
  unfold Machine.coverFound
  split
  · exact h
  · exact H.markCover _ _ _ _ _ _ h

theorem writeCell (s : State) (slot y : Nat) (c : Nat × Nat) (h : P s) : P (State.writeCell slot y s c) := by
  unfold State.writeCell
  split
  · exact h
  · split
    · exact h
    · exact H.contents _ _ _ h

/-! ### Fit tests, strikes and sweeps -/

theorem testCell (retest : Bool) (slot : Nat) (band : Option (Nat × Nat)) (g : Hide) (zone x y : Nat) (s : State)
    (h : P s) : P (testCell retest slot band g zone x y s).1 := by
  have hr := H.readCell s slot x y h
  unfold Machine.testCell
  split
  · exact h
  · simp only
    (repeat' split) <;> exact hr

theorem testCells (retest : Bool) (slot : Nat) (band : Option (Nat × Nat)) (g : Hide) (x y : Nat)
    (cells : List BodyCell) (s : State) (h : P s) : P (testCells retest slot band g x y cells s).1 := by
  induction cells generalizing s with
  | nil => exact h
  | cons c t ih =>
    have h1 := H.testCell retest slot band g c.zone (x + c.i) (y + c.j) s h
    unfold Machine.testCells
    simp only
    split
    · exact ih _ h1
    · exact h1

theorem fitTest (retest : Bool) (slot : Nat) (band : Option (Nat × Nat)) (v : Variant) (x y : Nat) (s : State)
    (h : P s) : P (fitTest retest slot band v x y s).1 := by
  unfold Machine.fitTest
  split
  · exact h
  · exact H.testCells _ _ _ _ _ _ _ _ h

theorem tryFit (slot a o x y : Nat) (s : State) (h : P s) : P (tryFit slot a o x y s).1 := by
  unfold Machine.tryFit
  split
  · exact h
  · exact H.fitTest _ _ _ _ _ _ _ h

theorem strike (s : State) (slot i : Nat) (h : P s) : P (s.strike slot i) := by
  unfold State.strike
  split
  · exact H.strikeOne _ _ _ h
  · exact H.strikeOne _ _ _ (H.strikeOne _ _ _ h)

theorem retest (slot : Nat) (w : Sweep) (i : Nat) (h : P w.s) : P (Sweep.retest slot w i).s := by
  unfold Sweep.retest
  split
  · exact h
  · split
    · split
      · exact h
      · next p _ _ _ pc v _ =>
        have h1 := H.fitTest true slot pc.band v p.x p.y w.s h
        simp only
        split
        · exact h1
        · exact H.strike _ _ _ h1
    · exact h

theorem mark (slot : Nat) (w : Sweep) (i : Nat) (h : P w.s) : P (Sweep.mark slot w i).s :=
  H.raise _ _ (H.marker _ _ _ _ h)

theorem round (slot : Nat) (area changed : Nat → Nat → Bool) (w : Sweep) (h : P w.s) :
    P (Sweep.round slot area changed w).s :=
  foldl_inv (Sweep.mark slot) (fun w => P w.s) (fun w i => H.mark slot w i) _ _
    (foldl_inv (Sweep.retest slot) (fun w => P w.s) (fun w i => H.retest slot w i) _ _ h)

theorem rounds (slot cols fuel : Nat) (w : Sweep) (h : P w.s) : P (Sweep.rounds slot cols fuel w).s := by
  induction fuel generalizing w with
  | zero => exact h
  | succ n ih =>
    unfold Sweep.rounds
    split
    · exact h
    · exact ih _ (H.round _ _ _ _ h)

theorem sweep (s : State) (slot : Nat) (area changed : Nat → Nat → Bool) (h : P s) : P (s.sweep slot area changed).s :=
  H.rounds _ _ _ _ (H.round _ _ _ ⟨s, 0, [], []⟩ h)

theorem sweepTile (s : State) (slot tile : Nat) (h : P s) : P (s.sweepTile slot tile).s := H.sweep _ _ _ _ h

theorem writeGrade (slot x y : Nat) (g : Grade) (s : State) (h : P s) : P (writeGrade slot x y g s) := by
  unfold Machine.writeGrade
  split
  · exact h
  · exact H.contents _ _ _ h

theorem applyCell (slot cols : Nat) (g : Grade) (a : Applied) (c : Nat × Nat) (h : P a.s) :
    P (applyCell slot cols g a c).s := by
  have h1 := H.readCell a.s slot c.1 c.2 h
  unfold Machine.applyCell
  simp only
  (repeat' split) <;> first | exact h1 | exact H.writeGrade _ _ _ _ _ h1

theorem applyFlaw (slot : Nat) (f : Flaw) (s : State) (h : P s) : P (applyFlaw slot f s).s := by
  unfold Machine.applyFlaw
  split
  · exact h
  · exact foldl_inv (Machine.applyCell slot _ _) (fun a => P a.s) (fun a c => H.applyCell _ _ _ a c) _ ⟨s, [], []⟩ h

theorem sweepFlaw (slot : Nat) (rect : Rect) (a : Applied) (h : P a.s) : P (sweepFlaw slot rect a).s :=
  H.sweep _ _ _ _ h

theorem findInside (slot : Nat) (cells : List (Nat × Nat)) (s : State) (h : P s) : P (findInside slot cells s).1 := by
  induction cells generalizing s with
  | nil => exact h
  | cons c t ih =>
    have h1 := H.readCell s slot c.1 c.2 h
    unfold Machine.findInside
    simp only
    split
    · exact ih _ h1
    · exact ih _ h1
    · exact h1
    · exact h1

theorem findOffHide (slot k : Nat) (flaws : List Flaw) (s : State) (h : P s) : P (findOffHide slot k flaws s).1 := by
  induction flaws generalizing s k with
  | nil => exact h
  | cons f t ih => exact ih _ _ (H.findInside _ _ _ h)

theorem applyStaged (slot : Nat) (flaws : List Flaw) (s : State) (h : P s) : P (applyStaged slot flaws s) :=
  foldl_inv (fun t f => (Machine.applyFlaw slot f t).s) P (fun t f => H.applyFlaw slot f t) _ _ h

theorem returnCheck (slot : Nat) (w : Sweep) (i : Nat) (h : P w.s) : P (returnCheck slot w i).s := by
  unfold Machine.returnCheck
  split
  · exact h
  · split
    · exact h
    · split
      · exact H.strike _ _ _ h
      · split
        · split
          · exact h
          · next p _ _ _ _ _ pc v _ =>
            have h1 := H.fitTest true slot pc.band v p.x p.y w.s h
            simp only
            split
            · exact H.marker _ _ _ _ h1
            · exact H.strike _ _ _ h1
        · exact h

theorem returnChecks (s : State) (slot : Nat) (is : List Nat) (h : P s) : P (s.returnChecks slot is) :=
  H.rounds _ _ _ _ (foldl_inv (Machine.returnCheck slot) (fun w => P w.s) (fun w i => H.returnCheck slot w i) _ _ h)

end Steady

/-- A condition that every small write keeps: the writes that all the operations are made of. -/
structure Stable (P : State → Prop) : Prop extends Steady P where
  engine : ∀ s x, P s → P { s with engine := x }
  released : ∀ s x, P s → P { s with hides := { s.hides with released := x } }
  takeFrame : ∀ s slot tile, P s → P (State.takeFrame slot s tile)
  freeSlot : ∀ s slot, P s → P (s.freeSlot slot)
  hide : ∀ s slot f, (∀ h, (f h).frames = h.frames ∧ (f h).thick = h.thick ∧ (f h).release = h.release) →
    P s → P (s.modHide slot f)
  reserve : ∀ s t id, s.claimReserve id = some t → P s → P t
  resolve : ∀ s id, P s → P (s.claimResolve id)
  claimReturn : ∀ s id, P s → P (s.claimReturn id)
  leave : ∀ s slot, P s → P (s.leaveWaiting slot)
  chan : ∀ s c f, (∀ ch, (f ch).state = .idle → ch.state = .idle) → P s → P (s.modChan c f)

/-- A strike is made of writes of the hide, of the covers, of the line and of the events. -/
theorem strikeOne_of {P : State → Prop}
    (attn : ∀ s ev w, P s → P { s with attn := { s.attn with events := ev, waiting := w } })
    (covers : ∀ s a b, P s → P { s with grid := { s.grid with covers := Mem.write noCover s.grid.covers a b } })
    (hide : ∀ s slot f, (∀ h, (f h).frames = h.frames ∧ (f h).thick = h.thick ∧ (f h).release = h.release) →
      P s → P (s.modHide slot f))
    (claimReturn : ∀ s id, P s → P (s.claimReturn id)) (s : State) (slot i : Nat) (h : P s) : P (s.strikeOne slot i) := by
  have writes : ∀ (addrs : List Nat) (s : State), P s → P { s with grid := { s.grid with
      covers := addrs.foldl (fun m a => Mem.write noCover m a (Mem.read noCover m a - 1)) s.grid.covers } } := by
    intro addrs
    induction addrs with
    | nil => exact fun s h => h
    | cons a t ih => exact fun s h => ih _ (covers s a (Mem.read noCover s.grid.covers a - 1) h)
  unfold State.strikeOne
  split
  · exact h
  · split
    · rw [raise_writes]
      refine attn _ _ _ (claimReturn _ _ ?_)
      have h1 := hide s slot (fun h => { h with placements := h.placements.modify i fun q => { q with state := .struck } })
        (fun _ => ⟨rfl, rfl, rfl⟩) h
      unfold State.unmarkCover
      split
      · exact h1
      · exact writes _ _ h1
    · exact h

namespace Stable

variable {P : State → Prop} (H : Stable P)

include H

theorem layRows (s : State) (slot y : Nat) (tiles : List Nat) (cells : List (Nat × Nat)) (h : P s) :
    P (s.layRows slot y tiles cells) := by
  unfold State.layRows
  have h1 := foldl_inv (State.writeCell slot y) P (fun t c => H.writeCell t slot y c) cells _
    (foldl_inv (State.takeFrame slot) P (fun t c => H.takeFrame t slot c) tiles s h)
  simp only
  split
  · exact h1
  · exact H.allocationEval _ h1

theorem modPlacement (s : State) (slot i : Nat) (f : Placement → Placement) (h : P s) : P (s.modPlacement slot i f) :=
  H.hide _ _ _ (fun _ => ⟨rfl, rfl, rfl⟩) h

theorem completeCommit (slot : Nat) (g : Hide) (s : State) (h : P s) : P (completeCommit slot g s) := by
  have h1 := H.findOffHide slot 0 g.staged _ (H.findInside slot (framedCells g) s h)
  unfold Machine.completeCommit
  simp only
  split
  · refine H.raise _ _ (H.hide _ _ _ (fun _ => ⟨rfl, rfl, rfl⟩) ?_)
    exact H.applyStaged _ _ _ h1
  · exact H.raise _ _ (H.hide _ _ _ (fun _ => ⟨rfl, rfl, rfl⟩) h1)

/-! ### Discards and passes -/

theorem withdraw (s : State) (slot i : Nat) (h : P s) : P (State.withdraw slot s i) := by
  unfold State.withdraw
  split
  · exact h
  · split
    · exact H.claimReturn _ _ (H.unmarkCover _ _ _ _ _ _ (H.modPlacement _ _ _ _ h))
    · exact h

theorem withdrawAll (s : State) (slot : Nat) (h : P s) : P (s.withdrawAll slot) := by
  unfold State.withdrawAll
  split
  · exact h
  · exact foldl_inv (State.withdraw slot) P (fun t i => H.withdraw t slot i) _ _ h

theorem setStack (s : State) (stack : List Entry) (h : P s) : P (s.setStack stack) := H.engine _ _ h

theorem popEntry (s : State) (slot : Nat) (e : Entry) (h : P s) : P (State.popEntry slot s e) :=
  H.claimReturn _ _ (H.unmarkCover _ _ _ _ _ _ h)

theorem popAll (s : State) (slot : Nat) (h : P s) : P (s.popAll slot) := by
  unfold State.popAll
  split
  · exact h
  · exact H.setStack _ _ (foldl_inv (State.popEntry slot) P (fun t e => H.popEntry t slot e) _ _ h)

theorem popTop (s : State) (slot : Nat) (h : P s) : P (s.popTop slot) := by
  unfold State.popTop
  split
  · exact h
  · exact H.setStack _ _ (H.popEntry _ _ _ h)

theorem completeDiscard (s : State) (slot : Nat) (h : P s) : P (s.completeDiscard slot) :=
  H.raise _ _ (H.clearHide _ _ (H.freeSlot _ _ (H.leave _ _ (H.engine _ _ (H.popAll _ _ (H.withdrawAll _ _ h))))))

theorem setPhase (s : State) (ph : Phase) (h : P s) : P (s.setPhase ph) := H.engine _ _ h

theorem putPass (s : State) (p : Option Pass) (h : P s) : P (s.putPass p) := H.engine _ _ h

theorem makeDone (s : State) (slot : Nat) (h : P s) : P (s.makeDone slot) :=
  H.raise _ _ (H.hide _ _ _ (fun _ => ⟨rfl, rfl, rfl⟩) h)

/-! ### Tickets -/

theorem returnPlacement (s : State) (c : Fin 4) (slot i : Nat) (h : P s) : P (s.returnPlacement c slot i) :=
  H.modPlacement _ _ _ _ h

theorem returnAll (s : State) (c : Fin 4) (slot : Nat) (h : P s) : P (s.returnAll c slot) :=
  H.returnChecks _ _ _ (foldl_inv (fun t i => State.returnPlacement c slot i t) P
    (fun t i => H.returnPlacement t c slot i) _ _ h)

theorem resolveTicket (s : State) (slot i : Nat) (o : CutOutcome) (reason : Nat × Nat) (h : P s) :
    P (s.resolve slot i o reason) := by
  unfold State.resolve
  split
  · exact h
  · split
    · exact H.resolve _ _ (H.modPlacement _ _ _ _ h)
    · exact H.claimReturn _ _ (H.modPlacement _ _ _ _ h)
    · exact H.claimReturn _ _ (H.unmarkCover _ _ _ _ _ _ (H.modPlacement _ _ _ _ h))

theorem dropDeadline (s : State) (c : Fin 4) (t : TicketRef) (h : P s) : P (s.dropDeadline c t) :=
  H.chan _ _ _ (fun _ e => e) h

theorem endOwn (s : State) (c : Fin 4) (h : P s) : P (s.endOwn c) := H.chan _ _ _ (fun _ e => e) h

theorem sendOwn (s : State) (c : Fin 4) (r : OwnRequest) (f : OutFrame) (h : P s) : P (s.sendOwn c r f) :=
  H.sent _ _ (H.chan _ _ _ (fun _ e => e) h)

end Stable

end Sys2Proof.Laws
end

