-- ==== Sys2Proof/Laws/Taken.lean ====
section
/-! SUPPORT. A request that is taken and whose checks pass, in one step. -/

namespace Sys2Proof.Laws

open Sys2Proof.Machine

/-- A request taken whose work is known. -/
theorem request_next {s : State} {l : Link} {h : Head} {len : Nat} (kind : Nat) (body : State → State × Reply) (t :
    State) (r : Reply)
    (ht : s.takes l h len) (hb : body (s.hunt l) = (t, r)) : request l kind h len body s = t.replied l kind h r := by
  rw [request_taken kind body ht, hb]

/-- The tape is no part of a link. -/
theorem hunt_withTape (s : State) (l : Link) (x) : State.hunt { s with tape := x } l = { s.hunt l with tape := x } := by
  cases l <;> rfl

/-- Whether a request is taken does not depend on the tape. -/
theorem takes_withTape {s : State} {l : Link} {h : Head} {len : Nat} (x) (ht : s.takes l h len) : State.takes
    { s with tape := x } l h len := by
  cases l <;> exact ht

/-- The ATTENTION frame that leads a reply leaves the tape alone. -/
theorem lead_withTape (s : State) (l : Link) (x) : State.lead l { s with tape := x } = { s.lead l with tape := x } := by
  cases l
  case control => unfold State.lead; dsimp only; split <;> rfl
  all_goals rfl

/-- The tape is no part of a request in hand. -/
theorem setInHand_withTape (s : State) (l : Link) (q x) :
    State.setInHand { s with tape := x } l q = { s.setInHand l q with tape := x } := by cases l <;> rfl

/-- A reply sent leaves the tape alone. -/
theorem answer_withTape (s : State) (l : Link) (tag r x) : State.answer { s with tape := x } l tag r =
    { s.answer l tag r with tape := x } := by
  have hb : State.beingSent { s with tape := x } l = s.beingSent l := by cases l <;> rfl
  unfold State.answer
  rw [hb, lead_withTape]
  cases s.beingSent l with
  | none => rfl
  | some q => exact setInHand_withTape _ _ _ _

/-- A request that stays in hand leaves the tape alone. -/
theorem hold_withTape (s : State) (l : Link) (k tag b e r x) : State.hold { s with tape := x } l k tag b e r =
    { s.hold l k tag b e r with tape := x } := by
  cases b
  · exact setInHand_withTape _ _ _ _
  · simp only [State.hold, if_true, lead_withTape]; exact setInHand_withTape _ _ _ _

/-- A reply leaves the tape alone. -/
theorem replied_withTape (s : State) (l : Link) (k h r x) : State.replied { s with tape := x } l k h r =
    { s.replied l k h r with tape := x } := by
  unfold State.replied
  split
  · exact hold_withTape _ _ _ _ _ _ _ _
  · exact answer_withTape _ _ _ _ _

/-- A request with reads, taken, whose work is known. -/
theorem reads_request_next {s : State} {l : Link} {h : Head} {len : Nat} (kind : Nat) (body : State → State × Reply)
    (reads) (t : State) (r : Reply)
    (ht : s.takes l h len) (hb : body { s.hunt l with tape := reads } = (t, r)) : s.withReads reads
      (request l kind h len body) = { t.replied l kind h r with tape := s.tape } := by
  rw [withReads_eq, request_taken kind body (takes_withTape reads ht), hunt_withTape, hb]

/-- Checks that pass may be passed over. -/
theorem firstFail_append (a b : List Check) (h : firstFail a = none) : firstFail (a ++ b) = firstFail b := by
  induction a with
  | nil => rfl
  | cons c a ih =>
    obtain ⟨ok, r, d⟩ := c
    simp only [firstFail] at h
    split at h
    · next hk => simp [firstFail, hk, ih h]
    · cases h

/-- The checks of a run list pass on runs of legal codes and lengths that fit. -/
theorem runChecks_pass (codeOk : Nat → Bool) (longest width k e : Nat) (runs : List Run)
    (h : ∀ r ∈ runs, codeOk r.code = true ∧ 1 ≤ r.length ∧ r.length ≤ longest) (hs : e +
      (runs.map Run.length).sum ≤ width) :
    firstFail (runChecks codeOk longest width k e runs) = none := by
  induction runs generalizing k e with
  | nil => rfl
  | cons r t ih =>
    obtain ⟨c1, c2, c3⟩ := h r (List.mem_cons_self)
    simp at hs
    have : e + r.length ≤ width := by omega
    simp [runChecks, firstFail, c1, c2, c3, this]
    exact ih (k+1) (e + r.length) (fun r hr => h r (List.mem_cons_of_mem _ hr)) (by omega)

/-- A request on a hide in a state that takes it. -/
theorem onHide_in {s : State} {slot : Nat} {taken busy : List HideState} {go : Hide → State × Reply} {g : Hide}
    (h1 : slot < 12) (h2 : s.hide slot = some g) (h3 : taken.contains g.state = true) : onHide s slot taken busy go =
      go g := by
  unfold onHide; rw [if_pos h1, h2]; simp only [h3]; rfl

/-- The members of an event list with one added. -/
theorem mem_insertEvent (e d : Event) (l : List Event) : d ∈ insertEvent e l ↔ d = e ∨ d ∈ l := by
  induction l with
  | nil => simp [insertEvent]
  | cons a t ih =>
    simp only [insertEvent]
    split
    · next h => subst h; simp
    · split
      · simp
      · simp only [List.mem_cons, ih]; exact or_left_comm

end Sys2Proof.Laws
end

