-- ==== Sys2Proof/Laws/Kept.lean ====
section
/-! SUPPORT. What every step keeps, from what the small writes, the evaluations and a few requests keep. -/

namespace Sys2Proof.Laws

open Sys2Proof.Machine

/-- A condition `P` that the small writes keep, with a weaker one `W` that also a channel becoming IDLE, a hide joining
the waiting list and a new release keep, and from which an evaluation leads back to `P`. -/
structure Evaluated (P W : State → Prop) : Prop where
  strong : Stable P
  loose : Stable W
  weaken : ∀ s, P s → W s
  anyChan : ∀ s c f, W s → W (s.modChan c f)
  anyRelease : ∀ s slot f, (∀ h, (f h).frames = h.frames ∧ (f h).thick = h.thick) → W s → W (s.modHide slot f)
  join : ∀ s slot, W s → W (s.joinWaiting slot)
  evaluate : ∀ s, W s → P s.evaluate

namespace Evaluated

variable {P W : State → Prop} (E : Evaluated P W)

include E

theorem settle (s : State) (slot : Nat) (h : P s) : P (s.settle slot) := by
  unfold State.settle
  split
  · exact h
  · split
    · split
      · exact h
      · exact E.strong.makeDone _ _ (E.strong.leave _ _ h)
    · split
      · exact h
      · split
        · refine E.strong.chan _ _ _ (fun ch e => ?_) h
          revert e
          cases hc : ch.state <;> (repeat' split) <;> simp_all [State.workState] <;> split <;> simp
        · exact E.evaluate _ (E.loose.makeDone _ _ (E.anyChan _ _ _ (E.weaken _ h)))
    · exact h

theorem handPoison (s : State) (slot tile : Nat) (h : P s) : P (s.handPoison slot tile) := by
  unfold State.handPoison
  split
  · exact h
  · next g hg =>
    (repeat' split) <;> first
      | exact h
      | exact E.settle _ _ (E.strong.sweepTile _ _ _ h)
      | (rw [← modHide_some (fun k : Hide => { k with deferredPoison := insertNat tile k.deferredPoison }) hg]
         exact E.strong.hide _ _ _ (fun _ => ⟨rfl, rfl, rfl⟩) h)

theorem handFresh (s : State) (slot : Nat) (fresh : Option Nat) (h : P s) : P (s.handFresh slot fresh) := by
  unfold State.handFresh
  split
  · exact h
  · exact E.handPoison _ _ _ h

theorem enterService (s : State) (c : Fin 4) (h : P s) : P (s.enterService c) := by
  unfold State.enterService
  split
  · exact E.evaluate _ (E.anyChan _ _ _ (E.weaken _ h))
  · exact h

/-- A hide given back joins the waiting list, or is DONE. -/
theorem giveBack_loose (s : State) (slot : Nat) (h : W s) : W (s.giveBack slot) := by
  unfold State.giveBack
  split
  · exact E.loose.raise _ _ (E.join _ _ (E.loose.hide _ _ _ (fun _ => ⟨rfl, rfl, rfl⟩) h))
  · exact E.loose.makeDone _ _ h

theorem letGo_loose (s : State) (c : Fin 4) (h : W s) : W (s.letGo c) := by
  unfold State.letGo
  split
  · exact h
  · split
    · exact E.giveBack_loose _ _ (E.loose.returnAll _ _ _ h)
    · split
      · exact E.loose.completeDiscard _ _ h
      · exact h

/-- A channel that is not at work lets its hide go without a join. -/
theorem letGo_strong (s : State) (c : Fin 4) (hc : (s.chan c).state.atWork = false) (h : P s) : P (s.letGo c) := by
  unfold State.letGo
  split
  · exact h
  · rw [hc]
    simp only [Bool.false_eq_true, if_false]
    split
    · exact E.strong.completeDiscard _ _ h
    · exact h

theorem channelFault (s : State) (c : Fin 4) (cause : FaultCause) (code : Nat) (h : P s) :
    P (s.channelFault c cause code) := by
  unfold State.channelFault
  simp only
  split
  · exact E.evaluate _ (E.loose.raise _ _ (E.anyChan _ _ _ (E.anyChan _ _ _ (E.letGo_loose _ _ (E.weaken _ h)))))
  · next hc =>
    refine E.strong.raise _ _ (E.strong.chan _ _ _ (fun ch e => e) (E.strong.chan _ _ _ (fun ch e => ?_) ?_))
    · cases e
    · exact E.letGo_strong _ _ (by simpa using hc) h

/-- A hide let go and not given to the waiting list is DONE, or gone. -/
theorem letGo_done (s : State) (c : Fin 4) (hr : s.redispatched c = false) (h : P s) : P (s.letGo c) := by
  cases hc : (s.chan c).state.atWork with
  | false => exact E.letGo_strong _ _ hc h
  | true =>
    unfold State.redispatched at hr
    rw [hc] at hr
    cases ha : s.assigned c with
    | none => unfold State.letGo; rw [ha]; exact h
    | some e =>
      obtain ⟨slot, g⟩ := e
      have hl : s.letGo c = (s.returnAll c slot).giveBack slot := by
        unfold State.letGo; rw [ha]; simp only [hc, if_true]
      rw [ha, Option.any_some, Bool.true_and, hl] at hr
      rw [hl]
      have hp := E.strong.returnAll s c slot h
      unfold State.giveBack at hr ⊢
      split
      · next hpl =>
        rw [if_pos hpl] at hr
        cases hk : (s.returnAll c slot).hide slot with
        | none => rw [hk] at hpl; cases hpl
        | some k =>
          unfold State.hide at hr
          have hj : ∀ t : State, (t.joinWaiting slot).hides = t.hides := fun _ => rfl
          rw [raise_hides, hj, modHide_some _ hk] at hr
          have : Tab.get (State.putHide (s.returnAll c slot) slot
              { k with state := .dispatchWait, channel := none }).hides.slots slot =
              some { k with state := .dispatchWait, channel := none } := get_put_self _ _ _
          rw [this] at hr
          simp at hr
      · exact E.strong.makeDone _ _ hp

theorem cutterReset (s : State) (c : Fin 4) (h : P s) : P (s.cutterReset c) := by
  unfold State.cutterReset
  simp only
  split
  · exact E.evaluate _ (E.anyChan _ _ _ (E.anyChan _ _ _ (E.letGo_loose _ _ (E.weaken _ h))))
  · next hc =>
    simp only [Bool.or_eq_true, decide_eq_true_eq, not_or, Bool.not_eq_true] at hc
    refine E.strong.chan _ _ _ (fun ch e => e) (E.strong.chan _ _ _ (fun ch e => ?_) ?_)
    · exact absurd e hc.2
    · exact E.letGo_done _ _ hc.1 h

theorem endAbort (s : State) (c : Fin 4) (h : W s) : W (endAbort c s) := by
  unfold Machine.endAbort
  split
  · exact h
  · exact E.anyChan _ _ _ (E.loose.completeDiscard _ _ h)

theorem resolveReport (s : State) (c : Fin 4) (t : TicketRef) (slot : Nat) (o : CutOutcome) (reason : Nat × Nat) (h : P s) :
    P (s.resolveReport c t slot o reason) :=
  E.settle _ _ (E.strong.chan _ _ _ (fun _ e => e)
    (E.strong.dropDeadline _ _ _ (E.strong.resolveTicket _ _ _ _ _ h)))

theorem ticketRefused (s : State) (c : Fin 4) (t : TicketRef) (reason : Nat × Nat) (h : P s) :
    P (ticketRefused c t reason s) := by
  unfold Machine.ticketRefused
  split
  · exact h
  · exact E.settle _ _ (E.strong.dropDeadline _ _ _ (E.strong.resolveTicket _ _ _ _ _ h))

theorem stillOut (s : State) (c : Fin 4) (t : TicketRef) (h : P s) : P (stillOut c t s) := by
  have h1 : P (s.modChan c fun ch => { ch with
      deadlines := ch.deadlines.map (Deadline.restart t s.settings.cutDeadline), queryCount := ch.queryCount + 1 }) :=
    E.strong.chan _ _ _ (fun _ e => e) h
  unfold Machine.stillOut
  split
  · exact h
  · unfold compareLimit
    split
    · split
      · exact E.strong.chan _ _ _ (fun _ e => e) (E.strong.raise _ _ h1)
      · exact E.channelFault _ _ _ _ h1
    · exact h1

theorem unknownTicket (s : State) (c : Fin 4) (t : TicketRef) (h : P s) : P (unknownTicket c t s) := by
  unfold Machine.unknownTicket
  split
  · exact h
  · exact E.settle _ _ (E.strong.returnChecks _ _ _ (E.strong.dropDeadline _ _ _ (E.strong.returnPlacement _ _ _ _ h)))

theorem finishedTicket (s : State) (c : Fin 4) (t : TicketRef) (o : CutOutcome) (reason : Nat × Nat) (h : P s) :
    P (finishedTicket c t o reason s) := by
  unfold Machine.finishedTicket
  split
  · exact h
  · exact E.resolveReport _ _ _ _ _ _ h

end Evaluated

/-- A condition that the work of every request keeps: what the small writes and the evaluations keep, and the requests
whose writes are their own. -/
structure Bodies (P W : State → Prop) : Prop extends Evaluated P W where
  lineAdd : ∀ s id slot style size n, P s → P (lineAddBody id slot style size n s).1
  pairAdd : ∀ s a b c d n e f, P s → P (pairAddBody a b c d n e f s).1
  lineResize : ∀ s id n, P s → P (lineResizeBody id n s).1
  lineCancel : ∀ s id, P s → P (lineCancelBody id s).1
  lineRemove : ∀ s id, P s → P (lineRemoveBody id s).1
  clearNotices : ∀ s ids, P s → P (s.clearNotices ids)
  pieceDefine : ∀ s a b c d e, P s → P (pieceDefineBody a b c d e s).1
  variantDefine : ∀ s a b c d, P s → P (variantDefineBody a b c d s).1
  variantRows : ∀ s a b c d e, P s → P (variantRowsBody a b c d e s).1
  pieceReady : ∀ s a, P s → P (pieceReadyBody a s).1
  pieceErase : ∀ s a, P s → P (pieceEraseBody a s).1
  bankMode : ∀ s a b, P s → P (bankModeBody a b s).1
  hideOpen : ∀ s a b c d, P s → P (hideOpenBody a b c d s).1
  thickness : ∀ s a b, P s → P (thicknessBody a b s).1
  hold : ∀ s, P s → P (holdBody s).1
  run : ∀ s, P s → P (runBody s).1
  set : ∀ s a b, P s → P (setBody a b s).1
  save : ∀ s, P s → P (saveBody s).1
  load : ∀ s, P s → P (loadBody s).1
  defaults : ∀ s, P s → P (defaultsBody s).1

/-- Checks keep what the work behind them keeps. -/
theorem kept_checked {P : State → Prop} {s : State} {checks : List Check} {go : State × Reply} (h : P s) (hgo : P go.1) :
    P (checked s checks go).1 := by
  unfold checked
  split
  · exact h
  · exact hgo

/-- A request on a hide keeps what its work on that hide keeps. -/
theorem kept_onHide {P : State → Prop} {s : State} {slot : Nat} {taken busy : List HideState} {go : Hide → State × Reply} (h : P s)
    (hgo : ∀ g, s.hide slot = some g → P (go g).1) : P (onHide s slot taken busy go).1 := by
  unfold onHide refuse
  split
  · split
    · exact h
    · next g hg =>
      split
      · exact hgo g hg
      · split <;> exact h
  · exact h

theorem kept_onChannel {P : State → Prop} {s : State} {k : Nat} {go : Fin 4 → State × Reply} (h : P s) (hgo : ∀ c, P (go c).1) :
    P (onChannel s k go).1 := by
  unfold onChannel refuse
  split
  · exact hgo _
  · exact h

namespace Bodies

variable {P W : State → Prop} (K : Bodies P W)

include K

/-- A hide's record written with its tile table, its thickness entries and its release as they were. -/
theorem putHide {s : State} {slot : Nat} {g : Hide} (f : Hide → Hide) (hg : s.hide slot = some g)
    (hf : ∀ k, (f k).frames = k.frames ∧ (f k).thick = k.thick ∧ (f k).release = k.release) (h : P s) :
    P (s.putHide slot (f g)) := by
  rw [← modHide_some f hg]; exact K.strong.hide _ _ _ hf h

theorem flaw (slot : Nat) (f : Flaw) (s : State) (h : P s) : P (flawBody slot f s).1 := by
  unfold flawBody
  refine kept_onHide h fun g hg => kept_checked h ?_
  split
  · exact K.putHide (fun k => { k with staged := k.staged ++ [f] }) hg (fun _ => ⟨rfl, rfl, rfl⟩) h
  · exact K.putHide (fun k => { k with deferred := k.deferred ++ [f] }) hg (fun _ => ⟨rfl, rfl, rfl⟩) h
  · exact K.settle _ _ (K.strong.sweepFlaw _ _ _ (K.strong.applyFlaw _ _ _ h))

theorem discard (slot : Nat) (s : State) (h : P s) : P (discardBody slot s).1 := by
  unfold discardBody
  refine kept_onHide h fun g hg => ?_
  have h1 : ∀ r, P (s.beginDiscard slot r) := fun r => K.strong.hide _ _ _ (fun _ => ⟨rfl, rfl, rfl⟩) h
  split
  · exact h1 _
  · show P (State.abortChannel _ _)
    unfold State.abortChannel
    split
    · exact h1 _
    · exact K.strong.chan _ _ _ (fun ch e => by cases e) (h1 _)
  · exact K.strong.completeDiscard _ _ h

theorem release (slot u : Nat) (mask : Byte) (s : State) (h : P s) : P (releaseBody slot u mask s).1 := by
  unfold releaseBody
  refine kept_onHide h fun g hg => kept_checked h (K.evaluate _ (K.join _ _ ?_))
  have hg' : State.hide { s with hides := { s.hides with released := s.hides.released + 1 } } slot = some g := hg
  rw [← modHide_some (fun k : Hide => { k with
    state := .dispatchWait
    release := some ⟨s.hides.released + 1, (urgencyOf u).getD .normal, mask⟩ }) hg']
  exact K.anyRelease _ _ _ (fun _ => ⟨rfl, rfl⟩) (K.loose.released _ _ (K.weaken _ h))

theorem commitManual (s : State) (slot : Nat) (ps : List Placement) (h : P s) : P (s.commitManual slot ps) :=
  K.strong.hide _ _ _ (fun _ => ⟨rfl, rfl, rfl⟩) h

theorem place (a b c d e : Nat) (s : State) (h : P s) : P (placeBody a b c d e s).1 := by
  unfold placeBody
  refine kept_onHide h fun g hg => ?_
  split
  · exact h
  · next l _ =>
    refine kept_checked h ?_
    have h1 := K.strong.tryFit a l.slot c d e s h
    unfold placeWork
    simp only
    split
    · exact K.handFresh _ _ _ h1
    · split
      · exact h1
      · next t ht => exact K.commitManual _ _ _ (K.strong.coverFor _ _ _ _ _ _ (K.strong.reserve _ _ _ ht h1))

theorem placePair (a b : Nat) (p q : Spot) (s : State) (h : P s) : P (placePairBody a b p q s).1 := by
  unfold placePairBody
  refine kept_onHide h fun g hg => ?_
  split
  · exact h
  · next l _ =>
    refine kept_checked h ?_
    have h1 := K.strong.tryFit a l.slot p.orientation p.x p.y s h
    have h2 := K.strong.tryFit a (((s.mirrorOf l).bind (·.2)).map Line.slot |>.getD 0) q.orientation q.x q.y _
      (K.strong.coverFor _ a l.slot p.orientation p.x p.y h1)
    unfold placePairWork
    simp only
    split
    · exact K.handFresh _ _ _ h1
    · split
      · exact K.handFresh _ _ _ (K.strong.unmarkCover _ _ _ _ _ _ h2)
      · split
        · exact K.strong.unmarkCover _ _ _ _ _ _ h2
        · next t ht =>
          unfold reserveBoth at ht
          obtain ⟨u, hu, ht⟩ := Option.bind_eq_some_iff.1 ht
          exact K.commitManual _ _ _ (K.strong.coverFor _ _ _ _ _ _
            (K.strong.reserve _ _ _ ht (K.strong.reserve _ _ _ hu h2)))

theorem strike (a b : Nat) (s : State) (h : P s) : P (strikeBody a b s).1 := by
  unfold strikeBody
  exact kept_onHide h fun g hg => kept_checked h (K.settle _ _ (K.strong.strike _ _ _ h))

theorem nest (a : Nat) (steps : List StepReq) (s : State) (h : P s) : P (nestBody a steps s).1 := by
  unfold nestBody
  exact kept_onHide h fun g hg => kept_checked h (K.strong.engine _ _
    (K.putHide (fun k => { k with state := .nestWait }) hg (fun _ => ⟨rfl, rfl, rfl⟩) h))

theorem ready (c : Fin 4) (s : State) (h : P s) : P (readyBody c s).1 := by
  unfold readyBody
  simp only
  have h1 : P (s.modChan c fun ch => { ch with ready := true }) := K.strong.chan _ _ _ (fun _ e => e) h
  split
  · exact K.enterService _ _ (K.strong.raise _ _ h1)
  · exact h
  · exact K.strong.raise _ _ h1
  all_goals exact K.channelFault _ _ _ _ h

theorem cutReport (c : Fin 4) (n o r d : Nat) (s : State) (h : P s) : P (cutReportBody c n o r d s).1 := by
  unfold cutReportBody
  split
  · exact h
  · split
    · exact K.resolveReport _ _ _ _ _ _ h
    · exact K.strong.raise _ _ h

theorem attnClear (a : Nat) (list : List Nat) (s : State) (h : P s) : P (attnClearBody a list s).1 := by
  unfold attnClearBody
  refine kept_checked h ?_
  show P (clearListed _ _ _)
  unfold clearListed
  split
  · exact K.clearNotices _ _ h
  · exact K.strong.attn _ _ _ h

/-- The work of every request keeps the condition. -/
theorem body (c : Instr) (s : State) (h : P s) : P (bodyOf c s).1 := by
  have H := K.strong
  cases c
  case set => exact K.set _ _ _ h
  case get =>
    show P (getBody _ s).1
    unfold getBody refuse
    split <;> exact h
  case save => exact K.save _ h
  case load => exact K.load _ h
  case defaults => exact K.defaults _ h
  case lineAdd => exact K.lineAdd _ _ _ _ _ _ h
  case pairAdd => exact K.pairAdd _ _ _ _ _ _ _ _ h
  case lineResize => exact K.lineResize _ _ _ h
  case lineCancel => exact K.lineCancel _ _ h
  case lineRemove => exact K.lineRemove _ _ h
  case lineRead =>
    show P (lineReadBody _ s).1
    unfold lineReadBody refuse
    split <;> exact h
  case pieceDefine => exact K.pieceDefine _ _ _ _ _ _ h
  case variantDefine => exact K.variantDefine _ _ _ _ _ h
  case variantRows => exact K.variantRows _ _ _ _ _ _ h
  case pieceReady => exact K.pieceReady _ _ h
  case pieceErase => exact K.pieceErase _ _ h
  case pieceRead => exact kept_checked h h
  case bankMode => exact K.bankMode _ _ _ h
  case hideOpen => exact K.hideOpen _ _ _ _ _ h
  case rows => exact kept_onHide h fun _ _ => kept_checked h (H.layRows _ _ _ _ _ h)
  case thickness => exact K.thickness _ _ _ h
  case flaw => exact K.flaw _ _ _ h
  case flawsClear =>
    exact kept_onHide h fun g hg => K.putHide (fun k => { k with staged := [] }) hg (fun _ => ⟨rfl, rfl, rfl⟩) h
  case mapCommit =>
    exact kept_onHide h fun g hg =>
      K.putHide (fun k => { k with state := .committing }) hg (fun _ => ⟨rfl, rfl, rfl⟩) h
  case hideRead => exact kept_checked h h
  case placementsRead => exact kept_onHide h fun _ _ => kept_checked h h
  case discard => exact K.discard _ _ h
  case close => exact kept_onHide h fun _ _ => H.clearHide _ _ (H.freeSlot _ _ h)
  case nest => exact K.nest _ _ _ h
  case place => exact K.place _ _ _ _ _ _ h
  case placePair => exact K.placePair _ _ _ _ _ h
  case strike => exact K.strike _ _ _ h
  case release => exact K.release _ _ _ _ h
  case hold => exact K.hold _ h
  case run => exact K.run _ h
  case cutterEnable => exact kept_onChannel h fun c => K.enterService _ _ (H.chan _ _ _ (fun _ e => e) h)
  case cutterDisable =>
    refine kept_onChannel h fun c => ?_
    split
    · exact h
    · dsimp only
      refine H.chan _ _ _ (fun ch e => ?_) h
      revert e
      simp only
      split <;> simp_all
  case cutterReset => exact kept_onChannel h fun c => K.cutterReset _ _ h
  case cutterRead => exact kept_onChannel h fun _ => h
  case attnRead => exact kept_checked h h
  case attnClear => exact K.attnClear _ _ _ h
  case ready => exact K.ready _ _ h
  case cutReport => exact K.cutReport _ _ _ _ _ _ h
  case cutterFault => exact K.channelFault _ _ _ _ h
  all_goals exact h

end Bodies

/-- A condition that every command keeps: what the requests keep, and the events whose writes are their own. -/
structure Kept (P W : State → Prop) : Prop extends Bodies P W where
  sendAttention : ∀ s, P s → P s.sendAttention
  start : ∀ s, P s → P (start s)
  saveCompletion : ∀ s b, P s → P (saveCompletion b s)
  loadCompletion : ∀ s, P s → P (loadCompletion s)

namespace Kept

variable {P W : State → Prop} (K : Kept P W)

include K

/-! ### Replies and requests -/

theorem lead (s : State) (l : Link) (h : P s) : P (s.lead l) := by
  unfold State.lead
  (repeat' split) <;> first | exact K.sendAttention _ h | exact h

theorem answer (s : State) (l : Link) (tag : Nat) (r : Reply) (h : P s) : P (s.answer l tag r) := by
  unfold State.answer
  split
  · exact K.strong.sent _ _ (K.lead _ _ h)
  · exact K.strong.setInHand _ _ _ h

/-- A reply in hand sent keeps the condition. -/
theorem sendReply (s : State) (l : Link) (now : InHand → Bool) (h : P s) : P (sendReply l now s) := by
  unfold Machine.sendReply
  split
  · exact h
  · split
    · rw [sendBehind_eq]; exact K.strong.sent _ _ (K.answer _ _ _ _ (K.strong.setInHand _ _ _ h))
    · exact h

/-- The idle step keeps the condition. -/
theorem idle (s : State) (h : P s) : P (idle s) := by
  unfold Machine.idle
  split
  · exact h
  · exact foldl_inv (fun t l => Machine.sendReply l (atIdle s l) t) P (fun t l => K.sendReply t l _) _ _ h

/-- A request keeps the condition where its body does. -/
theorem requestUntil (s : State) (l : Link) (h : Head) (len kind : Nat) (body : State → State × Reply)
    (ends : State → Option ReplyEnd) (hbody : ∀ t, P t → P (body t).1) (hs : P s) :
    P (requestUntil ends l kind h len body s) :=
  requestUntil_keeps s l h len kind body ends (fun t v => K.strong.putLink t l v) (fun t => K.lead t l)
    (fun t tag r => K.answer t l tag r) hbody hs

theorem request (s : State) (l : Link) (h : Head) (len kind : Nat) (body : State → State × Reply)
    (hbody : ∀ t, P t → P (body t).1) (hs : P s) : P (request l kind h len body s) :=
  K.requestUntil s l h len kind body _ hbody hs

/-! ### The engine's events -/

theorem searchTest (p : Pass) (q : Search) (g : Hide) (s : State) (h : P s) : P (searchTest p q g s) := by
  unfold Machine.searchTest
  split
  · exact K.strong.setPhase _ _ h
  · split
    · exact K.strong.setPhase _ _ h
    · next v _ =>
      simp only
      split
      · exact K.strong.setPhase _ _ (K.strong.fitTest _ _ _ _ _ _ _ h)
      · exact K.strong.setPhase _ _ (K.handFresh _ _ _ (K.strong.fitTest _ _ _ _ _ _ _ h))

theorem fitTestEvent (s : State) (h : P s) : P (fitTestEvent s) := by
  unfold Machine.fitTestEvent
  split
  · exact h
  · split
    · exact K.searchTest _ _ _ _ h
    · exact h

theorem unitPush (s : State) (h : P s) : P (unitPush s) := by
  unfold Machine.unitPush
  split
  · exact h
  · split
    · next q o x y _ =>
      unfold pushFound
      split
      · split
        · exact K.strong.setPhase _ _ (K.strong.popTop _ _ h)
        · exact K.strong.setPhase _ _ h
      · next t ht =>
        have h1 : ∀ e a c d f, P (State.pushEntry e (coverFound a q c d f t)) := fun e a c d f =>
          K.strong.engine _ _ (K.strong.coverFound _ _ _ _ _ _ (K.strong.reserve _ _ _ (reserveFound_some ht).2 h))
        unfold afterPush
        split
        · exact K.strong.setPhase _ _ (K.strong.engine _ _ (h1 _ _ _ _ _))
        · exact K.strong.setPhase _ _ (K.strong.engine _ _ (h1 _ _ _ _ _))
        · split
          · exact h1 _ _ _ _ _
          · exact K.strong.setPhase _ _ (h1 _ _ _ _ _)
    · exact K.strong.setPhase _ _ (K.strong.popTop _ _ h)
    · exact h

theorem stepEnd (s : State) (h : P s) : P (stepEnd s) := by
  unfold Machine.stepEnd
  split
  · exact h
  · split
    · unfold endStep
      split
      · exact K.strong.putPass _ _ (K.strong.hide _ _ _ (fun _ => ⟨rfl, rfl, rfl⟩) (K.strong.popAll _ _ h))
      · exact K.strong.putPass _ _ (K.strong.hide _ _ _ (fun _ => ⟨rfl, rfl, rfl⟩)
          (K.strong.hide _ _ _ (fun _ => ⟨rfl, rfl, rfl⟩) h))
    · exact h

theorem passEnd (s : State) (h : P s) : P (passEndEvent s) := by
  unfold passEndEvent
  split
  · exact h
  · split
    · split
      · exact K.strong.setPhase _ _ h
      · refine K.strong.putPass _ _ (K.strong.raise _ _ (K.strong.hide _ _ _ (fun _ => ⟨rfl, rfl, rfl⟩) ?_))
        refine foldl_inv (deferredTile _) P (fun t i => K.strong.sweepTile t _ i) _ _
          (foldl_inv (deferredFlaw _) P (fun t f ht => ?_) _ _ h)
        unfold deferredFlaw
        split
        · exact ht
        · exact K.strong.sweepFlaw _ _ _ (K.strong.applyFlaw _ _ _ ht)
    · exact h

theorem passAbort (s : State) (h : P s) : P (passAbort s) := by
  unfold Machine.passAbort
  split
  · exact h
  · split
    · exact h
    · split
      · exact K.strong.putPass _ _ (K.strong.completeDiscard _ _ h)
      · exact h

/-! ### The channels' events -/

theorem ticketSend (s : State) (c : Fin 4) (h : P s) : P (ticketSend c s) := by
  unfold Machine.ticketSend
  split
  · split
    · exact h
    · split
      · exact h
      · exact K.settle _ _ (K.strong.chan _ _ _ (fun _ e => e) (K.strong.sendOwn _ _ _ _
          (K.strong.modPlacement _ _ _ _ h)))
  · exact h

theorem ticketAnswer (s : State) (c : Fin 4) (tag : Nat) (a : PlainAnswer) (h : P s) : P (ticketAnswer c tag a s) := by
  unfold Machine.ticketAnswer
  split
  · split
    · exact K.strong.endOwn _ _ h
    · exact K.ticketRefused _ _ _ _ (K.strong.endOwn _ _ h)
  · exact h

theorem queryAnswer (s : State) (c : Fin 4) (tag : Nat) (a : QueryReply) (h : P s) : P (queryAnswer c tag a s) := by
  unfold Machine.queryAnswer
  split
  · split
    · exact K.finishedTicket _ _ _ _ _ (K.strong.endOwn _ _ h)
    · exact K.stillOut _ _ _ (K.strong.endOwn _ _ h)
    · exact K.unknownTicket _ _ _ (K.strong.endOwn _ _ h)
    · exact K.stillOut _ _ _ (K.strong.endOwn _ _ h)
  · exact h

theorem queryTimeout (s : State) (c : Fin 4) (h : P s) : P (queryTimeout c s) := by
  unfold Machine.queryTimeout
  split
  · exact K.stillOut _ _ _ (K.strong.endOwn _ _ h)
  · exact h

/-! ### Every command -/

/-- Every command keeps the condition. -/
theorem exec_keeps (c : Instr) (s t : State) (h : P s) (he : exec c s = .next t) : P t := by
  have H := K.strong
  cases hr : asRequest c with
  | some r =>
    obtain ⟨l, kind, hd, len⟩ := r
    obtain ⟨ends, R⟩ := request_runs hr
    rcases R.runs with ⟨e, _⟩ | ⟨reads, e⟩ <;> rw [e] at he <;> cases he
    · exact K.requestUntil _ _ _ _ _ _ _ (fun _ h => K.body c _ h) h
    · exact H.withReads _ _ _ (fun _ h => K.requestUntil _ _ _ _ _ _ _ (fun _ h => K.body c _ h) h) h
  | none =>
    cases c <;> simp only [exec, asRequest, reduceCtorEq] at he hr <;> (injection he with he; subst he)
    case powerOn => exact K.start s h
    case resetInput => exact K.start s h
    case restartAfterReset =>
      unfold restartAfterReset
      split
      · exact h
      · exact K.start _ (K.answer _ _ _ _ (K.strong.setInHand _ _ _ h))
    case saveCompletion => exact K.saveCompletion _ _ h
    case loadCompletion => exact K.loadCompletion _ h
    case controlRateChange =>
      unfold controlRateChange switchRate
      (repeat' split) <;> first
        | exact h | exact K.sendReply _ _ _ h | exact H.links _ _ (K.sendReply _ _ _ h)
    case commitCompletion =>
      split
      · exact h
      · split
        · exact H.withReads _ _ _ (fun _ h => H.completeCommit _ _ _ h) h
        · exact h
    case nestTake =>
      unfold takeHide
      split
      · exact H.hide _ _ _ (fun _ => ⟨rfl, rfl, rfl⟩) (H.engine _ _ h)
      · exact h
    case stopChecks =>
      unfold stopChecks
      (repeat' split) <;> first | exact h | exact H.setPhase _ _ h
    case fitTest => exact H.withReads _ _ _ (fun _ h => K.fitTestEvent _ h) h
    case unitPush => exact K.unitPush _ h
    case stepEnd => exact K.stepEnd _ h
    case passEnd => exact H.withReads _ _ _ (fun _ h => K.passEnd _ h) h
    case passAbort => exact K.passAbort _ h
    case attentionSend =>
      unfold attentionSend
      split
      · exact K.sendAttention _ h
      · exact h
    case ticketSend => exact K.ticketSend _ _ h
    case ticketAnswer => exact K.ticketAnswer _ _ _ _ (H.hunt _ _ h)
    case ticketTimeout =>
      unfold ticketTimeout
      split
      · exact H.endOwn _ _ h
      · exact h
    case deadlineExpiry => exact H.chan _ _ _ (fun _ e => e) h
    case ticketQuerySend =>
      unfold ticketQuerySend
      (repeat' split) <;> first | exact h | exact H.sendOwn _ _ _ _ h
    case queryAnswer => exact H.withReads _ _ _ (fun _ h => K.queryAnswer _ _ _ _ (H.hunt _ _ h)) h
    case queryTimeout => exact H.withReads _ _ _ (fun _ h => K.queryTimeout _ _ h) h
    case abortHideSend =>
      unfold abortSend
      (repeat' split) <;> first | exact h | exact H.sendOwn _ _ _ _ h
    case abortAnswer =>
      unfold abortAnswer
      split
      · exact K.evaluate _ (K.endAbort _ _ (K.weaken _ (H.hunt _ _ h)))
      · exact H.hunt _ _ h
    case abortTimeout =>
      unfold abortTimeout
      split
      · exact K.evaluate _ (K.loose.raise _ _ (K.endAbort _ _ (K.weaken _ h)))
      · exact h
    case unexpectedReply => exact H.hunt _ _ h
    case interByteGap => exact H.hunt _ _ h
    case frameBegin =>
      unfold takeBytes
      split
      · exact H.putLink _ _ _ h
      · exact h
    all_goals
      first | unfold lenTooLong | unfold crcMismatch | unfold badKindFrame | unfold notOnLinkFrame | unfold dropReply
      (repeat' split) <;> first | exact h | exact K.answer _ _ _ _ (H.hunt _ _ h) | exact H.hunt _ _ h

/-- Every step keeps the condition. -/
theorem step_keeps (s t : State) (h : P s) (he : step s = .next t) : P t := by
  unfold step at he
  split at he
  · cases he; exact K.idle _ h
  · exact K.exec_keeps _ _ _ (K.strong.pending _ _ h) he

end Kept

end Sys2Proof.Laws
end

