-- ==== Sys2Proof/Laws/Coarse.lean ====
section
/-! SUPPORT. A condition that every command keeps, by what the work of each command keeps. -/

set_option linter.unusedSectionVars false
set_option linter.unusedSimpArgs false
set_option linter.unusedVariables false

namespace Sys2Proof.Laws

open Sys2Proof.Machine

/-- A condition that every command keeps, by what the work of each command keeps. -/
structure Coarse (P : State → Prop) : Prop extends Steady P where
  sendAttention : ∀ s, P s → P s.sendAttention
  start : ∀ s, P s → P (start s)
  body : ∀ c s, P s → P (bodyOf c s).1
  saveCompletion : ∀ s b, P s → P (saveCompletion b s)
  loadCompletion : ∀ s, P s → P (loadCompletion s)
  completeCommit : ∀ s slot g, s.hide slot = some g → g.state = .committing → P s → P (completeCommit slot g s)
  takeHide : ∀ s, P s → P (takeHide s)
  setPhase : ∀ s ph, ph ≠ .passEnd → P s → P (s.setPhase ph)
  handFresh : ∀ s slot fresh, P s → P (s.handFresh slot fresh)
  unitPush : ∀ s, P s → P (unitPush s)
  stepEnd : ∀ s, P s → P (stepEnd s)
  passEnd : ∀ s, P s → P (passEndEvent s)
  passAbort : ∀ s, P s → P (passAbort s)
  chan : ∀ s c f, (∀ ch, (f ch).state = ch.state ∧ (f ch).hide = ch.hide) → P s → P (s.modChan c f)
  ticketSend : ∀ s c, P s → P (ticketSend c s)
  ticketRefused : ∀ s c n r, P s → P (ticketRefused c n r s)
  finishedTicket : ∀ s c n o r, P s → P (finishedTicket c n o r s)
  stillOut : ∀ s c n, P s → P (stillOut c n s)
  unknownTicket : ∀ s c n, P s → P (unknownTicket c n s)
  abortEnd : ∀ s c, abortOut s c = true → P s → P (endAbort c s)
  evaluate : ∀ s, P s → P s.evaluate

namespace Coarse
variable {P : State → Prop} (K : Coarse P)
include K

/-- A reply's leading ATTENTION frame. -/
theorem lead (s : State) (l : Link) (h : P s) : P (s.lead l) := by
  unfold State.lead
  (repeat' split) <;> first | exact K.sendAttention _ h | exact h

/-- A reply put on a link. -/
theorem answer (s : State) (l : Link) (tag : Nat) (r : Reply) (h : P s) : P (s.answer l tag r) := by
  unfold State.answer
  split
  · exact K.sent _ _ (K.lead _ _ h)
  · exact K.setInHand _ _ _ h

/-- The reply in hand sent. -/
theorem sendReply (s : State) (l : Link) (now : InHand → Bool) (h : P s) : P (sendReply l now s) := by
  unfold Machine.sendReply
  split
  · exact h
  · split
    · rw [sendBehind_eq]; exact K.sent _ _ (K.answer _ _ _ _ (K.setInHand _ _ _ h))
    · exact h

/-- A step on an empty queue. -/
theorem idle (s : State) (h : P s) : P (idle s) := by
  unfold Machine.idle
  split
  · exact h
  · exact foldl_inv (fun t l => Machine.sendReply l (atIdle s l) t) P (fun t l => K.sendReply t l _) _ _ h

/-- A request, its effect keeping the condition. -/
theorem requestUntil (s : State) (l : Link) (h : Head) (len kind : Nat) (body : State → State × Reply)
    (ends : State → Option ReplyEnd) (hbody : ∀ t, P t → P (body t).1) (hs : P s) :
    P (requestUntil ends l kind h len body s) :=
  requestUntil_keeps s l h len kind body ends (fun t v => K.putLink t l v) (fun t => K.lead t l)
    (fun t tag r => K.answer t l tag r) hbody hs

/-- An own request ended. -/
theorem endOwn (s : State) (c : Fin 4) (h : P s) : P (s.endOwn c) := K.chan _ _ _ (fun _ => ⟨rfl, rfl⟩) h

/-- An own request sent. -/
theorem sendOwn (s : State) (c : Fin 4) (r : OwnRequest) (f : OutFrame) (h : P s) : P (s.sendOwn c r f) :=
  K.sent _ _ (K.chan _ _ _ (fun _ => ⟨rfl, rfl⟩) h)

/-- One test of a search. -/
theorem searchTest (p : Pass) (q : Search) (g : Hide) (s : State) (h : P s) : P (searchTest p q g s) := by
  have hs : searchOn g q ≠ .passEnd := by unfold searchOn; (repeat' split) <;> simp
  unfold Machine.searchTest
  split
  · exact K.setPhase _ _ hs h
  · split
    · exact K.setPhase _ _ hs h
    · next v _ =>
      simp only
      split
      · exact K.setPhase _ _ (by simp) (K.fitTest _ _ _ _ _ _ _ h)
      · exact K.setPhase _ _ hs (K.handFresh _ _ _ (K.fitTest _ _ _ _ _ _ _ h))

/-- FIT_TEST. -/
theorem fitTestEvent (s : State) (h : P s) : P (fitTestEvent s) := by
  unfold Machine.fitTestEvent
  split
  · exact h
  · split
    · exact K.searchTest _ _ _ _ h
    · exact h

/-- A search that begins is not pass end. -/
theorem beginSearch_phase (slot : Nat) (role : Role) (line : Nat) (noFit : Phase) (s : State) (h : noFit ≠ .passEnd) :
    beginSearch slot role line noFit s ≠ .passEnd := by
  unfold beginSearch; (repeat' split) <;> simp [h]

/-- The stop checks do not lead to pass end. -/
theorem stopPhase_phase (p : Pass) (h : Hide) (k : PlanStep) (s : State) : stopPhase p h k s ≠ .passEnd := by
  unfold stopPhase beginAttempt; (repeat' split) <;> (try simp) <;> exact beginSearch_phase K _ _ _ _ _ (by simp)

/-- TICKET_ANSWER. -/
theorem ticketAnswer (s : State) (c : Fin 4) (tag : Nat) (a : PlainAnswer) (h : P s) : P (ticketAnswer c tag a s) := by
  unfold Machine.ticketAnswer
  split
  · split
    · exact K.endOwn _ _ h
    · exact K.ticketRefused _ _ _ _ (K.endOwn _ _ h)
  · exact h

/-- QUERY_ANSWER. -/
theorem queryAnswer (s : State) (c : Fin 4) (tag : Nat) (a : QueryReply) (h : P s) : P (queryAnswer c tag a s) := by
  unfold Machine.queryAnswer
  split
  · split
    · exact K.finishedTicket _ _ _ _ _ (K.endOwn _ _ h)
    · exact K.stillOut _ _ _ (K.endOwn _ _ h)
    · exact K.unknownTicket _ _ _ (K.endOwn _ _ h)
    · exact K.stillOut _ _ _ (K.endOwn _ _ h)
  · exact h

/-- QUERY_TIMEOUT. -/
theorem queryTimeout (s : State) (c : Fin 4) (h : P s) : P (queryTimeout c s) := by
  unfold Machine.queryTimeout
  split
  · exact K.stillOut _ _ _ (K.endOwn _ _ h)
  · exact h

/-- Every command keeps the condition. -/
theorem exec_keeps (c : Instr) (s t : State) (h : P s) (he : exec c s = .next t) : P t := by
  have H := K.toSteady
  cases hr : asRequest c with
  | some r =>
    obtain ⟨l, kind, hd, len⟩ := r
    obtain ⟨ends, R⟩ := request_runs hr
    rcases R.runs with ⟨e, _⟩ | ⟨reads, e⟩ <;> rw [e] at he <;> cases he
    · exact K.requestUntil _ _ _ _ _ _ _ (fun _ h => K.body c _ h) h
    · exact H.withReads _ _ _ (fun _ h => K.requestUntil _ _ _ _ _ _ _ (fun _ h => K.body c _ h) h) h
  | none =>
    cases c <;> simp only [exec, asRequest, reduceCtorEq] at he hr <;> (injection he with he; subst he)
    case powerOn => exact K.start s h
    case resetInput => exact K.start s h
    case restartAfterReset =>
      unfold restartAfterReset
      split
      · exact h
      · exact K.start _ (K.answer _ _ _ _ (K.setInHand _ _ _ h))
    case saveCompletion => exact K.saveCompletion _ _ h
    case loadCompletion => exact K.loadCompletion _ h
    case controlRateChange =>
      unfold controlRateChange switchRate
      (repeat' split) <;> first
        | exact h | exact K.sendReply _ _ _ h | exact H.links _ _ (K.sendReply _ _ _ h)
    case commitCompletion =>
      split
      · exact h
      · next g hg =>
        split
        · next hc =>
          unfold State.withReads
          exact H.tape _ _ (K.completeCommit _ _ _ hg hc (H.tape _ _ h))
        · exact h
    case nestTake => exact K.takeHide _ h
    case stopChecks =>
      unfold stopChecks
      (repeat' split) <;> first | exact h | exact K.setPhase _ _ (stopPhase_phase K _ _ _ _) h
    case fitTest => exact H.withReads _ _ _ (fun _ h => K.fitTestEvent _ h) h
    case unitPush => exact K.unitPush _ h
    case stepEnd => exact K.stepEnd _ h
    case passEnd => exact H.withReads _ _ _ (fun _ h => K.passEnd _ h) h
    case passAbort => exact K.passAbort _ h
    case attentionSend =>
      unfold attentionSend
      split
      · exact K.sendAttention _ h
      · exact h
    case ticketSend => exact K.ticketSend _ _ h
    case ticketAnswer => exact K.ticketAnswer _ _ _ _ (H.hunt _ _ h)
    case ticketTimeout =>
      unfold ticketTimeout
      split
      · exact K.endOwn _ _ h
      · exact h
    case deadlineExpiry => exact K.chan _ _ _ (fun _ => ⟨rfl, rfl⟩) h
    case ticketQuerySend =>
      unfold ticketQuerySend
      (repeat' split) <;> first | exact h | exact K.sendOwn _ _ _ _ h
    case queryAnswer => exact H.withReads _ _ _ (fun _ h => K.queryAnswer _ _ _ _ (H.hunt _ _ h)) h
    case queryTimeout => exact H.withReads _ _ _ (fun _ h => K.queryTimeout _ _ h) h
    case abortHideSend =>
      unfold abortSend
      (repeat' split) <;> first | exact h | exact K.sendOwn _ _ _ _ h
    case abortAnswer =>
      unfold abortAnswer
      split
      · next hc => exact K.evaluate _ (K.abortEnd _ _ (by rw [Bool.and_eq_true] at hc; exact hc.1) (H.hunt _ _ h))
      · exact H.hunt _ _ h
    case abortTimeout =>
      unfold abortTimeout
      split
      · next hc => exact K.evaluate _ (H.raise _ _ (K.abortEnd _ _ hc h))
      · exact h
    case unexpectedReply => exact H.hunt _ _ h
    case interByteGap => exact H.hunt _ _ h
    case frameBegin =>
      unfold takeBytes
      split
      · exact H.putLink _ _ _ h
      · exact h
    all_goals
      first | unfold lenTooLong | unfold crcMismatch | unfold badKindFrame | unfold notOnLinkFrame | unfold dropReply
      (repeat' split) <;> first | exact h | exact K.answer _ _ _ _ (H.hunt _ _ h) | exact H.hunt _ _ h

/-- Every step keeps the condition. -/
theorem step_keeps (s t : State) (h : P s) (he : step s = .next t) : P t := by
  unfold step at he
  split at he
  · cases he; exact K.idle _ h
  · exact K.exec_keeps _ _ _ (K.pending _ _ h) he

end Coarse

end Sys2Proof.Laws
end

