-- ==== Sys2Proof/Laws/Cover.lean ====
section
/-! SUPPORT. Cover counts: the cells that a placement claims, and what counting them does. -/

namespace Sys2Proof.Laws

open Sys2Proof.Machine

/-- The cells that a placement claims: those within the margin of a cell of its body (R68). -/
theorem claimed_mem (margin x y : Nat) (v : Variant) (g : Hide) (hv : ∀ c ∈ v.body, c.i < v.width ∧ c.j < v.height)
    (a : Nat) :
    a ∈ claimed g margin v x y ↔ ∃ X Y, g.cellAt X Y = some a ∧ ∃ c ∈ v.body,
      X ≤ x + c.i + margin ∧ x + c.i ≤ X + margin ∧ Y ≤ y + c.j + margin ∧ y + c.j ≤ Y + margin := by
  simp only [claimed, List.mem_flatMap, List.mem_filterMap, List.mem_range]
  constructor
  · rintro ⟨b, hb, d, hd, h⟩
    split at h
    · next hc =>
      simp only [Bool.and_eq_true, decide_eq_true_eq, Variant.claims, List.any_eq_true] at hc
      obtain ⟨⟨h1, h2⟩, c, hcm, ⟨⟨h3, h4⟩, h5⟩, h6⟩ := hc
      exact ⟨_, _, h, c, hcm, by omega, by omega, by omega, by omega⟩
    · cases h
  · rintro ⟨X, Y, h, c, hc, h1, h2, h3, h4⟩
    obtain ⟨h5, h6⟩ := hv c hc
    refine ⟨Y + margin - y, by omega, X + margin - x, by omega, ?_⟩
    have e1 : x + (X + margin - x) - margin = X := by omega
    have e2 : y + (Y + margin - y) - margin = Y := by omega
    rw [e1, e2, if_pos, h]
    simp only [Bool.and_eq_true, decide_eq_true_eq, Variant.claims, List.any_eq_true]
    exact ⟨⟨by omega, by omega⟩, c, hc, ⟨⟨by omega, by omega⟩, by omega⟩, by omega⟩

/-- A placement claims no cell twice. -/
theorem claimed_nodup (margin x y : Nat) (v : Variant) (g : Hide) (hn : (g.frames.map (·.2)).Nodup) : (claimed g
    margin v x y).Nodup := by
  unfold claimed
  rw [List.nodup_flatMap]
  refine ⟨fun b hb => ?_, ?_⟩
  · refine List.Nodup.filterMap ?_ List.nodup_range
    intro a a' z hz hz'
    simp only [Option.mem_def] at hz hz'
    split at hz
    · split at hz'
      · next h1 h2 =>
        simp only [Bool.and_eq_true, decide_eq_true_eq] at h1 h2
        have := (cellAt_inj hn hz hz').1
        omega
      · cases hz'
    · cases hz
  · refine List.nodup_range.imp_of_mem ?_
    intro b b' hb hb' hne
    simp only [Function.onFun]
    intro a h1 h2
    simp only [List.mem_filterMap, List.mem_range] at h1 h2
    obtain ⟨d, hd, h1⟩ := h1
    obtain ⟨d', hd', h2⟩ := h2
    split at h1
    · split at h2
      · next c1 c2 =>
        simp only [Bool.and_eq_true, decide_eq_true_eq] at c1 c2
        have := (cellAt_inj hn h1 h2).2
        omega
      · cases h2
    · cases h1

/-- What one write at each of several addresses does to the covers. -/
theorem fold_cover (f : Byte → Byte) (addrs : List Nat) (hn : addrs.Nodup) (m : Mem) :
    let r := addrs.foldl (fun m a => Mem.write noCover m a (f (Mem.read noCover m a))) m
    (∀ a ∈ addrs, Mem.read noCover r a = f (Mem.read noCover m a)) ∧
    (∀ a, a ∉ addrs → Mem.read noCover r a = Mem.read noCover m a) ∧ (Mem.wf noCover m = true → Mem.wf noCover r =
        true) := by
  induction addrs generalizing m with
  | nil => exact ⟨fun _ h => absurd h (by simp), fun _ _ => rfl, id⟩
  | cons b t ih =>
    rw [List.nodup_cons] at hn
    obtain ⟨i1, i2, i3⟩ := ih hn.2 (Mem.write noCover m b (f (Mem.read noCover m b)))
    simp only [List.foldl_cons]
    refine ⟨fun a ha => ?_, fun a ha => ?_, fun h => i3 (wf_write _ _ h)⟩
    · rcases List.mem_cons.1 ha with rfl | ha
      · rw [i2 _ hn.1, read_write_self]
      · rw [i1 a ha, read_write_other (c := a) (a := b) _ _ _ (fun e => hn.1 (by rw [← e]; exact ha))]
    · rw [i2 a (fun h => ha (List.mem_cons_of_mem _ h)), read_write_other (c := a) (a := b) _ _ _ (fun e => ha (by
        rw [e]; exact List.mem_cons_self))]

/-- Two memories in canonical form that read the same are the same. -/
theorem wf_ext {d : Byte} : ∀ {m n : Mem}, Mem.wf d m = true → Mem.wf d n = true → (∀ a, Mem.read d m a = Mem.read
    d n a) → m = n := by
  intro m
  induction m with
  | nil =>
    intro n _ hn h
    cases n with
    | nil => rfl
    | cons e n =>
      exfalso
      obtain ⟨k, b⟩ := e
      have := h k
      simp only [Mem.read, Tab.get, if_true, Option.getD_none, Option.getD_some] at this
      exact (wf_iff.1 hn).2 _ List.mem_cons_self this.symm
  | cons e m ih =>
    obtain ⟨j, c⟩ := e
    intro n hm hn h
    have hm' := wf_iff.1 hm
    rw [sorted_cons] at hm'
    have gt : ∀ {t : Mem} {j k : Nat}, (∀ e ∈ t, j < e.1) → k ≤ j → Mem.read d t k = d := by
      intro t j k ht hk
      have : Tab.get t k = none := by
        cases hh : Tab.get t k with
        | none => rfl
        | some a => have := ht _ (mem_of_get hh); simp only at this; omega
      simp [Mem.read, this]
    cases n with
    | nil =>
      exfalso
      have := h j
      simp only [Mem.read, Tab.get, if_true, Option.getD_none, Option.getD_some] at this
      exact hm'.2 _ List.mem_cons_self this
    | cons e n =>
      obtain ⟨k, b⟩ := e
      have hn' := wf_iff.1 hn
      rw [sorted_cons] at hn'
      have hjk : j = k := by
        rcases Nat.lt_trichotomy j k with hlt | he | hlt
        · exfalso
          have h1 := h j
          have h2 : Mem.read d ((k, b) :: n) j = d := gt (j := j) (by
            intro e he
            rcases List.mem_cons.1 he with rfl | he
            · exact hlt
            · have := hn'.1.1 e he; omega) (le_refl _)
          rw [h2] at h1
          simp only [Mem.read, Tab.get, if_true, Option.getD_some] at h1
          exact hm'.2 _ List.mem_cons_self h1
        · exact he
        · exfalso
          have h1 := h k
          have h2 : Mem.read d ((j, c) :: m) k = d := gt (j := k) (by
            intro e he
            rcases List.mem_cons.1 he with rfl | he
            · exact hlt
            · have := hm'.1.1 e he; omega) (le_refl _)
          rw [h2] at h1
          simp only [Mem.read, Tab.get, if_true, Option.getD_some] at h1
          exact hn'.2 _ List.mem_cons_self h1.symm
      subst hjk
      have hcb : c = b := by have := h j; simpa [Mem.read, Tab.get] using this
      subst hcb
      have : m = n := by
        refine ih (wf_iff.2 ⟨hm'.1.2, fun e he => hm'.2 e (List.mem_cons_of_mem _ he)⟩) (wf_iff.2 ⟨hn'.1.2, fun e
            he => hn'.2 e (List.mem_cons_of_mem _ he)⟩) ?_
        intro a
        by_cases ha : a = j
        · subst ha; rw [gt hm'.1.1 (le_refl _), gt hn'.1.1 (le_refl _)]
        · have := h a
          simpa [Mem.read, Tab.get, Ne.symm ha] using this
      rw [this]

end Sys2Proof.Laws
end

