-- ==== Sys2Proof/Laws/Dispatch.lean ====
section
/-! SUPPORT. Grants and evaluations: what one grant writes, and what an evaluation leaves. -/

namespace Sys2Proof.Laws

open Sys2Proof.Machine

/-- Every channel is listed. -/
theorem mem_channels (c : Fin 4) : c ∈ channels := by fin_cases c <;> decide

/-- The channels after a grant. -/
theorem grant_chans (s : State) (slot : Nat) (c : Fin 4) (n : Nat) :
    (s.grant slot c n).chans = s.chans.set c.1
      { s.chan c with state := .running, hide := some slot, queryCount := 0, deadlines := [] } c.2 := by
  simp only [State.grant, State.modChan, State.putChan, State.chan, modHide_chans]

/-- A channel after a grant. -/
theorem chan_grant (s : State) (slot : Nat) (c : Fin 4) (n : Nat) (d : Fin 4) :
    (s.grant slot c n).chan d =
      if d = c then { s.chan c with state := .running, hide := some slot, queryCount := 0, deadlines := [] }
      else s.chan d := by
  unfold State.chan
  rw [grant_chans]
  split
  · next h => subst h; exact Vector.getElem_set_self d.2
  · next h => exact Vector.getElem_set_ne c.2 d.2 fun e => h (Fin.ext e.symm)

/-- The arbiter after a grant. -/
theorem grant_arbiter (s : State) (slot : Nat) (c : Fin 4) (n : Nat) :
    (s.grant slot c n).arbiter = { s.arbiter with
      waiting := s.arbiter.waiting.filter fun k => decide (k ≠ slot), ratio := n, lastGranted := c } := by
  simp only [State.grant, State.modChan, State.putChan, State.chan, modHide_arbiter]

/-- A grant of a live hide, as the writes it makes. -/
theorem grant_eq {s : State} {slot : Nat} {g : Hide} (hg : s.hide slot = some g) (c : Fin 4) (n : Nat) :
    s.grant slot c n = { (s.putHide slot { g with state := .cutting, channel := some c }).putChan c
        { s.chan c with state := .running, hide := some slot, queryCount := 0, deadlines := [] } with
      arbiter := { state := s.arbiter.state, waiting := s.arbiter.waiting.filter (fun k => decide (k ≠ slot)),
                   ratio := n, lastGranted := c } } := by
  have h2 : State.hide { s with arbiter := { s.arbiter with
      waiting := s.arbiter.waiting.filter (fun k => decide (k ≠ slot)) } } slot = some g := hg
  simp only [State.grant, modHide_some _ h2]
  rfl

/-- The ROTATE pick. -/
theorem pick_rotate : ∀ (last c : Fin 4) (f : Fin 4 → Bool), f c = true →
    (∀ k < c - (last + 1), f (last + 1 + k) = false) → (channels.map fun k => last + k + 1).find? f = some c := by
  intro last c f h1 h2
  have h0 := h2 0; have ha := h2 1; have hb := h2 2; have hc := h2 3
  unfold channels
  fin_cases last <;> fin_cases c <;> simp_all [List.find?] <;> (try simp_all (decide := true))

/-- The LOWEST pick. -/
theorem pick_lowest : ∀ (c : Fin 4) (f : Fin 4 → Bool), f c = true → (∀ d < c, f d = false) →
    channels.find? f = some c := by
  intro c f h1 h2
  have h0 := h2 0; have ha := h2 1; have hb := h2 2; have hc := h2 3
  unfold channels
  fin_cases c <;> simp_all [List.find?]

/-- Where RUN makes no grant, no waiting hide is grantable. -/
theorem nextGrant_none {s : State} (h : s.nextGrant = none) (hr : s.arbiter.state = .run) :
    ∀ slot ∈ s.arbiter.waiting, s.grantable slot = false := by
  unfold State.nextGrant at h
  rw [hr] at h
  have hc : s.choice = none := by
    cases hch : s.choice with
    | none => rfl
    | some p =>
      obtain ⟨slot, n⟩ := p
      rw [hch] at h
      simp only [Option.map_eq_none_iff] at h
      have : s.grantable slot = true := by
        have : ∃ u, s.firstOf u = some slot := by
          unfold State.choice at hch
          split at hch
          · cases hch
          · next a ha hb => simp at hch; exact ⟨.rush, by rw [ha, hch.1]⟩
          · next a ha hb => simp at hch; exact ⟨.normal, by rw [hb, hch.1]⟩
          · next a b ha hb =>
            split at hch <;> simp at hch
            · exact ⟨.rush, by rw [ha, hch.1]⟩
            · exact ⟨.normal, by rw [hb, hch.1]⟩
        obtain ⟨u, hu⟩ := this
        have := List.find?_some hu
        simp at this; exact this.1
      unfold State.grantable at this
      unfold State.pickChannel at h
      cases hrel : s.releaseOf slot with
      | none => rw [hrel] at this; cases this
      | some r =>
        rw [hrel] at this h
        simp only [Option.any_some, List.any_eq_true, Option.bind_some, List.find?_eq_none] at this h
        obtain ⟨c, _, hc⟩ := this
        exact absurd hc (h c (by
          unfold State.pickOrder
          split
          · fin_cases c <;> decide
          · generalize s.arbiter.lastGranted = l
            clear hc; revert l c; decide))
  intro slot hs
  by_contra hg
  rw [Bool.not_eq_false] at hg
  have hh : ∃ u, s.hasUrgency u slot = true := by
    unfold State.grantable at hg
    cases hrel : s.releaseOf slot with
    | none => rw [hrel] at hg; cases hg
    | some r => exact ⟨r.urgency, by simp [State.hasUrgency, hrel]⟩
  obtain ⟨u, hu⟩ := hh
  have : (s.firstOf u).isSome := by
    unfold State.firstOf; rw [List.find?_isSome]; exact ⟨slot, hs, by simp [hg, hu]⟩
  unfold State.choice at hc
  cases h1 : s.firstOf .rush <;> cases h2 : s.firstOf .normal <;> rw [h1, h2] at hc
  · cases u <;> simp_all
  · cases hc
  · cases hc
  · simp only at hc; split at hc <;> cases hc

/-- The channels that are IDLE. -/
def idles (s : State) : List (Fin 4) := channels.filter fun c => decide ((s.chan c).state = .idle)

/-- What a grant is made of. -/
theorem nextGrant_facts {s t : State} (h : s.nextGrant = some t) :
    s.arbiter.state = .run ∧ ∃ slot c n, slot ∈ s.arbiter.waiting ∧ (s.chan c).state = .idle ∧
      t = s.grant slot c n ∧ n ≤ max s.arbiter.ratio s.settings.rushRatio := by
  unfold State.nextGrant at h
  split at h
  · cases h
  · next hr =>
    refine ⟨hr, ?_⟩
    split at h
    · cases h
    · next slot n hc =>
      simp only [Option.map_eq_some_iff] at h
      obtain ⟨c, hp, rfl⟩ := h
      refine ⟨slot, c, n, ?_, ?_, rfl, ?_⟩
      · have : ∃ u, s.firstOf u = some slot := by
          unfold State.choice at hc
          split at hc
          · cases hc
          · next a ha hb => simp at hc; exact ⟨.rush, by rw [ha, hc.1]⟩
          · next a ha hb => simp at hc; exact ⟨.normal, by rw [hb, hc.1]⟩
          · next a b ha hb =>
            split at hc <;> simp at hc
            · exact ⟨.rush, by rw [ha, hc.1]⟩
            · exact ⟨.normal, by rw [hb, hc.1]⟩
        obtain ⟨u, hu⟩ := this
        exact List.mem_of_find?_eq_some hu
      · unfold State.pickChannel at hp
        cases hrel : s.releaseOf slot with
        | none => rw [hrel] at hp; cases hp
        | some r =>
          rw [hrel] at hp
          have := List.find?_some hp
          simp [State.eligible] at this; exact this.2
      · unfold State.choice at hc
        split at hc
        · cases hc
        · simp at hc; omega
        · simp at hc; omega
        · split at hc <;> simp at hc <;> omega

/-- A grant keeps the dispatch state. -/
theorem grant_state (s : State) (slot c n) : (s.grant slot c n).arbiter.state = s.arbiter.state := by
  simp [State.grant]

/-- The state of a channel after a grant. -/
theorem grant_chanState (s : State) (slot : Nat) (c : Fin 4) (n : Nat) (d : Fin 4) :
    ((s.grant slot c n).chan d).state = if d = c then .running else (s.chan d).state := by
  rw [chan_grant]; split <;> rfl

/-- A grant takes one IDLE channel. -/
theorem idles_grant {s t : State} (h : s.nextGrant = some t) : (idles t).length < (idles s).length := by
  obtain ⟨_, slot, c, n, _, hc, rfl, _⟩ := nextGrant_facts h
  have : (idles (s.grant slot c n)) = (idles s).filter fun d => decide (d ≠ c) := by
    unfold idles
    rw [List.filter_filter]
    apply List.filter_congr
    intro d _
    rw [grant_chanState]
    by_cases hd : d = c <;> simp [hd]
  rw [this]
  have hm : c ∈ idles s := by
    unfold idles; simp [hc]; fin_cases c <;> decide
  exact List.length_filter_lt_length_iff_exists.2 ⟨c, hm, by simp⟩

/-- Enough grants end with none to make. -/
theorem grants_ends (n : Nat) : ∀ s : State, (idles s).length ≤ n → (State.grants n s).1.nextGrant = none := by
  induction n with
  | zero =>
    intro s h
    cases hn : s.nextGrant with
    | none => exact hn
    | some t => have := idles_grant hn; omega
  | succ n ih =>
    intro s h
    unfold State.grants
    split
    · assumption
    · next t ht => exact ih t (by have := idles_grant ht; omega)

/-- Grants keep the dispatch state, and are as many as allowed at most. -/
theorem grants_state (n : Nat) : ∀ s : State,
    (State.grants n s).1.arbiter.state = s.arbiter.state ∧ (State.grants n s).2 ≤ n := by
  induction n with
  | zero => intro s; exact ⟨rfl, le_refl _⟩
  | succ n ih =>
    intro s
    unfold State.grants
    split
    · exact ⟨rfl, by simp⟩
    · next t ht =>
      obtain ⟨_, slot, c, m, _, _, rfl, _⟩ := nextGrant_facts ht
      exact ⟨by rw [(ih _).1, grant_state], by have := (ih (s.grant slot c m)).2; simp; exact this⟩

/-- The hide table after a grant. -/
theorem grant_hides (s : State) (slot : Nat) (c : Fin 4) (n : Nat) :
    (s.grant slot c n).hides = (s.modHide slot fun h => { h with state := .cutting, channel := some c }).hides := by
  cases hg : s.hide slot with
  | some g => rw [grant_eq hg, modHide_some _ hg]; rfl
  | none =>
    rw [modHide_none _ hg]
    have h2 : State.hide { s with arbiter := { s.arbiter with
        waiting := s.arbiter.waiting.filter (fun k => decide (k ≠ slot)) } } slot = none := hg
    simp only [State.grant, modHide_none _ h2]
    rfl

/-- An evaluation keeps the dispatch state. -/
theorem evaluate_state (s : State) : s.evaluate.arbiter.state = s.arbiter.state := (grants_state 4 s).1

/-- After an evaluation in RUN no waiting hide is grantable. -/
theorem evaluate_quiet (s : State) (h : s.arbiter.state = .run) :
    ∀ slot ∈ s.evaluate.arbiter.waiting, s.evaluate.grantable slot = false :=
  nextGrant_none (grants_ends 4 s ((List.length_filter_le _ _).trans (le_refl 4)))
    ((evaluate_state s).trans h)

/-- What every grant keeps, an evaluation keeps. -/
theorem evaluate_keeps {P : State → Prop} (h : ∀ s t, P s → s.nextGrant = some t → P t) (s : State) (hs : P s) :
    P s.evaluate := by
  have key : ∀ n (s : State), P s → P (State.grants n s).1 := by
    intro n
    induction n with
    | zero => intro s hs; exact hs
    | succ n ih =>
      intro s hs
      unfold State.grants
      split
      · exact hs
      · next t ht => exact ih t (h s t hs ht)
  exact key 4 s hs

end Sys2Proof.Laws
end

