-- ==== Sys2Proof/Laws/Joint.lean ====
section
/-! SUPPORT. The records that name one another, by themselves: what each change of a hide's place in the part leaves of
the conditions on them (R133, R145). -/

namespace Sys2Proof.Laws

open Sys2Proof.Machine

/-- What joins a hide to the other blocks. -/
structure Core where
  state : HideState
  release : Option Release
  channel : Option (Fin 4)
  route : Option Route

/-- The records of a part that name a hide, with the hides. -/
structure Joint where
  hide : Nat → Option Core
  waiting : List Nat
  released : Nat
  chanState : Fin 4 → ChannelState
  chanHide : Fin 4 → Option Nat
  queue : List Nat
  pass : Option Nat

/-- The hide is the engine's. -/
def Core.inPass (k : Core) : Prop := k.state = .nesting ∨ (k.state = .discarding ∧ k.route = some .engine)

/-- The release number of a hide, 0 where it has none. -/
def Joint.number (v : Joint) (slot : Nat) : Nat := (((v.hide slot).bind Core.release).map Release.number).getD 0

/-- The conditions, but for what one channel holds. -/
structure Joint.Ok (v : Joint) (x : Option (Fin 4)) : Prop where
  wait : ∀ slot, slot ∈ v.waiting ↔ ∃ k, v.hide slot = some k ∧ k.state = .dispatchWait
  order : v.waiting.Pairwise fun a b => v.number a < v.number b
  count : ∀ slot k r, v.hide slot = some k → k.release = some r → r.number ≤ v.released
  distinct : ∀ a b k l q r, v.hide a = some k → v.hide b = some l → k.release = some q → l.release = some r → q.number
    = r.number → a = b
  numbered : ∀ slot k, v.hide slot = some k → k.state = .dispatchWait ∨ k.state = .cutting → k.release ≠ none
  busy : ∀ c, some c ≠ x → ((v.chanState c).busy = true ↔ v.chanHide c ≠ none)
  holds : ∀ c slot, some c ≠ x → (v.chanHide c = some slot ↔ ∃ k, v.hide slot = some k ∧ k.channel = some c)
  free : ∀ c slot k, some c = x → v.hide slot = some k → k.channel ≠ some c
  channel : ∀ slot k, v.hide slot = some k → (k.channel ≠ none ↔ k.state = .cutting ∨ k.route = some .channel)
  route : ∀ slot k, v.hide slot = some k → (k.route ≠ none ↔ k.state = .discarding)
  abort : ∀ slot k c, v.hide slot = some k → k.channel = some c → (k.state = .discarding ↔ v.chanState c = .aborting)
  nodup : v.queue.Nodup
  queued : ∀ slot, slot ∈ v.queue ↔ ∃ k, v.hide slot = some k ∧ k.state = .nestWait
  passing : ∀ slot, v.pass = some slot ↔ ∃ k, v.hide slot = some k ∧ k.inPass

namespace Joint

/-- A hide of no other block: between jobs. -/
def Idle (k : Core) :
    Prop := k.channel = none ∧ k.route = none ∧ (k.state = .mapping ∨ k.state = .committing ∨ k.state = .mapped ∨
    k.state = .nested ∨ k.state = .done)

variable {v : Joint} {x : Option (Fin 4)}

/-- A list with a slot put in by a number. -/
def insertBy (f : Nat → Nat) (slot : Nat) : List Nat → List Nat
  | [] => [slot]
  | k :: t => if f slot < f k then slot :: k :: t else k :: insertBy f slot t

/-- What a list holds after an insertion. -/
theorem mem_insertBy (f : Nat → Nat) (slot j : Nat) (l : List Nat) : j ∈ insertBy f slot l ↔ j = slot ∨ j ∈ l := by
  induction l with
  | nil => simp [insertBy]
  | cons a t ih => unfold insertBy; split <;> simp [ih]; tauto

/-- An insertion keeps the list in order. -/
theorem insertBy_sorted (f : Nat → Nat) (slot : Nat) (l : List Nat) (hl : l.Pairwise fun a b => f a < f b)
    (hn : ∀ j ∈ l, f j ≠ f slot) :
    (insertBy f slot l).Pairwise fun a b => f a < f b := by
  induction l with
  | nil => simp [insertBy]
  | cons a t ih =>
    rw [List.pairwise_cons] at hl
    unfold insertBy
    split
    · next h =>
      refine List.pairwise_cons.2 ⟨fun b hb => ?_, List.pairwise_cons.2 hl⟩
      rcases List.mem_cons.1 hb with rfl | hb
      · exact h
      · exact lt_trans h (hl.1 b hb)
    · next h =>
      refine List.pairwise_cons.2 ⟨fun b hb => ?_, ih hl.2 fun j hj => hn j (List.mem_cons_of_mem _ hj)⟩
      rcases (mem_insertBy f slot b t).1 hb with rfl | hb
      · have := hn a List.mem_cons_self; omega
      · exact hl.1 b hb

/-- Numbers of the waiting slots as before. -/
theorem order_congr {f g : Nat → Nat} {l : List Nat} (hn : ∀ j ∈ l, g j = f j) (h : l.Pairwise fun a b => f a < f b) :
   l.Pairwise fun a b => g a < g b :=
  List.Pairwise.imp_of_mem (fun ha hb hab => by rw [hn _ ha, hn _ hb]; exact hab) h

/-- The number of a hide with a release. -/
theorem number_of {w : Joint} {j : Nat} (h : (w.hide j).bind Core.release = (v.hide j).bind Core.release) :
    w.number j = v.number j := by
  unfold number; rw [h]

end Joint

/-- What a transition leaves as it was. -/
structure Joint.Rest (v w : Joint) (slot : Nat) (k : Option Core) : Prop where
  hide : ∀ j, w.hide j = if j = slot then k else v.hide j
  released : w.released = v.released

namespace Joint
variable {v w : Joint} {x : Option (Fin 4)}

/-- Numbers where only one hide changes, its release as before. -/
theorem rest_number {slot : Nat} {k : Core} {k' : Option Core} (hr : Rest v w slot k') (hk : v.hide slot = some k)
    (h : ∀ l, k' = some l → l.release = k.release) (hs : k' ≠ none) (j : Nat) :
    w.number j = v.number j := by
  refine number_of ?_
  rw [hr.hide]
  by_cases hj : j = slot
  · subst hj; rw [if_pos rfl, hk]
    cases k' with
    | none => exact absurd rfl hs
    | some l => exact h l rfl
  · rw [if_neg hj]

/-- The number of another hide stands. -/
theorem rest_number_other {slot : Nat} {k' : Option Core} (hr : Rest v w slot k') {j : Nat} (hj : j ≠ slot) :
    w.number j = v.number j :=
  number_of (by rw [hr.hide, if_neg hj])

/-- equal joints -/
theorem ok_same (e1 : w.hide = v.hide) (e2 : w.waiting = v.waiting) (e3 : w.released = v.released)
    (e4 : w.chanState = v.chanState)
   (e5 : w.chanHide = v.chanHide) (e6 : w.queue = v.queue) (e7 : w.pass = v.pass) (h : v.Ok x) : w.Ok x := by
  obtain ⟨⟩ := v; obtain ⟨⟩ := w; simp at *; subst_vars; exact h

/-- A hide of no other block changes between such states. -/
theorem ok_idle {slot : Nat} {k k' : Core} (hr : Rest v w slot (some k')) (e2 : w.waiting = v.waiting)
    (e4 : w.chanState = v.chanState)
    (e5 : w.chanHide = v.chanHide) (e6 : w.queue = v.queue) (e7 : w.pass = v.pass)
    (hk : v.hide slot = some k) (i : Idle k) (i' : Idle k') (hrel : k'.release = k.release) (h : v.Ok x) : w.Ok x := by
  have hnum := rest_number hr hk (by rintro l ⟨⟩; exact hrel) (by simp)
  have e := hr.hide
  have e3 := hr.released
  obtain ⟨i1, i2, i3⟩ := i
  obtain ⟨j1, j2, j3⟩ := i'
  obtain ⟨wait, order, count, distinct, numbered, busy, holds, free, channel, route, abort, nodup, queued, passing⟩ := h
  constructor
  case order => rw [e2]; exact order_congr (fun j _ => hnum j) order
  all_goals intros
  case wait j => have := wait j; grind
  case count j c r _ _ => have := count j; grind
  case busy => grind
  case holds c j hc => have := holds c j hc; grind
  case nodup => grind
  case queued j => have := queued j; grind
  case passing j => have := passing j; grind [Core.inPass]
  all_goals grind

/-- A new hide in an empty slot. -/
theorem ok_new {slot : Nat} {k' : Core} (hr : Rest v w slot (some k')) (e2 : w.waiting = v.waiting)
    (e4 : w.chanState = v.chanState)
    (e5 : w.chanHide = v.chanHide) (e6 : w.queue = v.queue) (e7 : w.pass = v.pass)
    (hk : v.hide slot = none) (i' : Idle k') (hrel : k'.release = none) (h : v.Ok x) : w.Ok x := by
  have hnum : ∀ j ∈ v.waiting, w.number j = v.number j := by
    intro j hj
    refine rest_number_other hr ?_
    rintro rfl
    obtain ⟨k, hk', _⟩ := (h.wait j).1 hj
    rw [hk] at hk'; cases hk'
  have e := hr.hide
  have e3 := hr.released
  obtain ⟨j1, j2, j3⟩ := i'
  obtain ⟨wait, order, count, distinct, numbered, busy, holds, free, channel, route, abort, nodup, queued, passing⟩ := h
  constructor
  case order => rw [e2]; exact order_congr (fun j hj => hnum j hj) order
  all_goals intros
  case wait j => have := wait j; grind
  case count j c r _ _ => have := count j; grind
  case busy => grind
  case holds c j hc => have := holds c j hc; grind
  case nodup => grind
  case queued j => have := queued j; grind
  case passing j => have := passing j; grind [Core.inPass]
  all_goals grind

/-- A hide freed: none of the engine's pass; what the channel held is let go. -/
theorem ok_free {slot : Nat} {k : Core} (hr : Rest v w slot none)
    (e2 : w.waiting = v.waiting.filter fun j => decide (j ≠ slot)) (e4 : w.chanState = v.chanState)
    (e5 : w.chanHide = v.chanHide) (e6 : w.queue = v.queue.filter fun j => decide (j ≠ slot))
      (e7 : w.pass = v.pass ∧ ¬ k.inPass ∨ w.pass = none ∧ k.inPass)
    (hk : v.hide slot = some k) {y : Option (Fin 4)} (hx : (k.channel = none ∧ y = x) ∨ (k.channel = y ∧ x = none))
      (h : v.Ok x) : w.Ok y := by
  have e := hr.hide
  have e3 := hr.released
  have hnum : ∀ j ∈ w.waiting, w.number j = v.number j := by
    intro j hj
    rw [e2] at hj
    refine rest_number_other hr (by simpa using (List.mem_filter.1 hj).2)
  obtain ⟨wait, order, count, distinct, numbered, busy, holds, free, channel, route, abort, nodup, queued, passing⟩ := h
  constructor
  case order =>
    refine order_congr (fun j hj => hnum j hj) ?_
    rw [e2]; exact order.filter _
  all_goals intros
  case wait j => have := wait j; rw [e2, List.mem_filter]; grind
  case count j c r _ _ => have := count j; grind
  case busy c hc => have := busy c; have := holds c slot; grind
  case holds c j hc => have := holds c j; grind
  case free c j l hc hl => have := holds c j; have := holds c slot; have := free c j; have := free c slot; grind
  case nodup => rw [e6]; exact nodup.filter _
  case queued j => have := queued j; rw [e6, List.mem_filter]; grind
  case passing j => have := passing j; have := passing slot; grind [Core.inPass]
  all_goals grind

/-- A grant. -/
theorem ok_grant {slot : Nat} {k : Core} {c : Fin 4}
    (hr : Rest v w slot (some { k with state := .cutting, channel := some c }))
    (e2 : w.waiting = v.waiting.filter fun j => decide (j ≠ slot))
      (e4 : ∀ d, w.chanState d = if d = c then .running else v.chanState d)
    (e5 : ∀ d, w.chanHide d = if d = c then some slot else v.chanHide d) (e6 : w.queue = v.queue) (e7 : w.pass = v.pass)
    (hk : v.hide slot = some k) (hw : k.state = .dispatchWait) (hc : v.chanState c = .idle) (h : v.Ok none) : w.Ok
      none := by
  have e := hr.hide
  have e3 := hr.released
  have hnum := rest_number hr hk (by rintro l ⟨⟩; rfl) (by simp)
  have hnb : v.chanHide c = none := by
    have := h.busy c (by simp)
    rw [hc] at this
    by_contra hne
    have := this.2 hne
    revert this; decide
  have hb : (ChannelState.running).busy = true := by decide
  obtain ⟨wait, order, count, distinct, numbered, busy, holds, free, channel, route, abort, nodup, queued, passing⟩ := h
  constructor
  case order =>
    rw [e2]
    refine order_congr (fun j hj => hnum j) (order.filter _)
  all_goals intros
  case wait j => have := wait j; rw [e2, List.mem_filter]; grind
  case count j c r _ _ => have := count j; grind
  case busy d hd => have := busy d; grind
  case holds d j hd => have := holds d j; have := holds c j; grind
  case nodup => grind
  case queued j => have := queued j; grind
  case passing j => have := passing j; grind [Core.inPass]
  all_goals grind

/-- A hide given back by its channel to the waiting list. -/
theorem ok_giveBack {slot : Nat} {k : Core} {c : Fin 4}
    (hr : Rest v w slot (some { k with state := .dispatchWait, channel := none }))
    (e2 : w.waiting = insertBy w.number slot v.waiting) (e4 : w.chanState = v.chanState)
    (e5 : w.chanHide = v.chanHide) (e6 : w.queue = v.queue) (e7 : w.pass = v.pass)
    (hk : v.hide slot = some k) (hw : k.state = .cutting) (hc : k.channel = some c) (h : v.Ok none) : w.Ok (some c) :=
      by
  have e := hr.hide
  have e3 := hr.released
  have hnum := rest_number hr hk (by rintro l ⟨⟩; rfl) (by simp)
  have hns : slot ∉ v.waiting := by
    intro hm
    obtain ⟨k', hk', hs⟩ := (h.wait slot).1 hm
    rw [hk] at hk'; cases hk'; rw [hw] at hs; cases hs
  have hne : ∀ j ∈ v.waiting, w.number j ≠ w.number slot := by
    intro j hj
    rw [hnum, hnum]
    obtain ⟨l, hl, hs⟩ := (h.wait j).1 hj
    have h1 := h.numbered j l hl (.inl hs)
    have h2 := h.numbered slot k hk (.inr hw)
    obtain ⟨q, hq⟩ := Option.ne_none_iff_exists'.1 h1
    obtain ⟨r, hr⟩ := Option.ne_none_iff_exists'.1 h2
    intro he
    have : q.number = r.number := by
      unfold number at he
      rw [hl, hk] at he
      simpa [hq, hr] using he
    have := h.distinct j slot l k q r hl hk hq hr this
    subst this; exact hns hj
  obtain ⟨wait, order, count, distinct, numbered, busy, holds, free, channel, route, abort, nodup, queued, passing⟩ := h
  constructor
  case order =>
    rw [e2]
    exact insertBy_sorted _ _ _ (order_congr (fun j hj => hnum j) order) hne
  all_goals intros
  case wait j => have := wait j; rw [e2, mem_insertBy]; grind
  case count j c r _ _ => have := count j; grind
  case busy d hd => have := busy d; grind
  case holds d j hd => have := holds d j; grind
  case free d j l hd hl => have := holds d j; have := holds d slot; grind
  case nodup => grind
  case queued j => have := queued j; grind
  case passing j => have := passing j; grind [Core.inPass]
  all_goals grind

/-- A released hide joins the waiting list. -/
theorem ok_release {slot : Nat} {k : Core} {r : Release}
    (e : ∀ j, w.hide j = if j = slot then some { k with state := .dispatchWait, release := some r } else v.hide j)
    (e3 : w.released = v.released + 1) (hr : r.number = v.released + 1)
    (e2 : w.waiting = insertBy w.number slot v.waiting) (e4 : w.chanState = v.chanState)
    (e5 : w.chanHide = v.chanHide) (e6 : w.queue = v.queue) (e7 : w.pass = v.pass)
    (hk : v.hide slot = some k) (hw : Idle k) (h : v.Ok none) : w.Ok none := by
  obtain ⟨i1, i2, i3⟩ := hw
  have hns : slot ∉ v.waiting := by
    intro hm
    obtain ⟨k', hk', hs⟩ := (h.wait slot).1 hm
    rw [hk] at hk'; cases hk'; grind
  have hnum : ∀ j ∈ v.waiting, w.number j = v.number j := by
    intro j hj
    refine number_of ?_
    rw [e, if_neg]; rintro rfl; exact hns hj
  have hle : ∀ j, v.number j ≤ v.released := by
    intro j
    unfold number
    cases hj : v.hide j with
    | none => simp
    | some l =>
      cases hl : l.release with
      | none => simp [hl]
      | some q => simp [hl]; exact h.count j l q hj hl
  have hme : w.number slot = v.released + 1 := by unfold number; rw [e, if_pos rfl]; simp [hr]
  obtain ⟨wait, order, count, distinct, numbered, busy, holds, free, channel, route, abort, nodup, queued, passing⟩ := h
  constructor
  case order =>
    rw [e2]
    refine insertBy_sorted _ _ _ (order_congr hnum order) fun j hj => ?_
    rw [hnum j hj, hme]; have := hle j; omega
  all_goals intros
  case wait j => have := wait j; rw [e2, mem_insertBy]; grind
  case count j c q _ _ => have := count j; grind
  case distinct a b k1 l1 q1 r1 h1 h2 h3 h4 h5 => have := count a; have := count b; rw [e] at h1 h2; grind
  case busy d hd => have := busy d; grind
  case holds d j hd => have := holds d j; grind
  case nodup => grind
  case queued j => have := queued j; grind
  case passing j => have := passing j; grind [Core.inPass]
  all_goals grind

/-- A waiting hide DONE. -/
theorem ok_doneWaiting {slot : Nat} {k : Core} (hr : Rest v w slot (some { k with state := .done, channel := none }))
    (e2 : w.waiting = v.waiting.filter fun j => decide (j ≠ slot)) (e4 : w.chanState = v.chanState)
    (e5 : w.chanHide = v.chanHide) (e6 : w.queue = v.queue) (e7 : w.pass = v.pass)
    (hk : v.hide slot = some k) (hw : k.state = .dispatchWait) (h : v.Ok x) : w.Ok x := by
  have e := hr.hide
  have e3 := hr.released
  have hnum := rest_number hr hk (by rintro l ⟨⟩; rfl) (by simp)
  obtain ⟨wait, order, count, distinct, numbered, busy, holds, free, channel, route, abort, nodup, queued, passing⟩ := h
  constructor
  case order =>
    rw [e2]
    refine order_congr (fun j hj => hnum j) (order.filter _)
  all_goals intros
  case wait j => have := wait j; rw [e2, List.mem_filter]; grind
  case count j c r _ _ => have := count j; grind
  case busy d hd => have := busy d; grind
  case holds d j hd => have := holds d j; grind
  case nodup => grind
  case queued j => have := queued j; grind
  case passing j => have := passing j; grind [Core.inPass]
  all_goals grind

/-- A hide on a channel DONE. -/
theorem ok_doneCutting {slot : Nat} {k : Core} {c : Fin 4}
    (hr : Rest v w slot (some { k with state := .done, channel := none }))
    (e2 : w.waiting = v.waiting) (e4 : w.chanState = v.chanState)
    (e5 : w.chanHide = v.chanHide) (e6 : w.queue = v.queue) (e7 : w.pass = v.pass)
    (hk : v.hide slot = some k) (hw : k.state = .cutting) (hc : k.channel = some c) (h : v.Ok none) : w.Ok (some c) :=
      by
  have e := hr.hide
  have e3 := hr.released
  have hnum := rest_number hr hk (by rintro l ⟨⟩; rfl) (by simp)
  obtain ⟨wait, order, count, distinct, numbered, busy, holds, free, channel, route, abort, nodup, queued, passing⟩ := h
  constructor
  case order =>
    rw [e2]
    refine order_congr (fun j hj => hnum j) order
  all_goals intros
  case wait j => have := wait j; grind
  case count j c r _ _ => have := count j; grind
  case busy d hd => have := busy d; grind
  case holds d j hd => have := holds d j; grind
  case free d j l hd hl => have := holds d j; have := holds d slot; grind
  case nodup => grind
  case queued j => have := queued j; grind
  case passing j => have := passing j; grind [Core.inPass]
  all_goals grind

/-- A channel that holds no hide. -/
theorem ok_leave {c : Fin 4} (hc : v.chanHide c = none) (h : v.Ok none) : v.Ok (some c) := by
  obtain ⟨wait, order, count, distinct, numbered, busy, holds, free, channel, route, abort, nodup, queued, passing⟩ := h
  constructor
  all_goals first | assumption | skip
  case busy => intro d _; exact busy d (by simp)
  case holds => intro d j _; exact holds d j (by simp)
  case free => intro d j l hd hl; have := holds d j; grind

/-- A channel let go comes to rest. -/
theorem ok_rest {c : Fin 4} (e1 : w.hide = v.hide) (e2 : w.waiting = v.waiting) (e3 : w.released = v.released)
    (e4 : ∀ d, d ≠ c → w.chanState d = v.chanState d) (e5 : ∀ d, w.chanHide d = if d = c then none else v.chanHide d)
      (e6 : w.queue = v.queue) (e7 : w.pass = v.pass)
    (hb : (w.chanState c).busy = false) (h : v.Ok (some c)) : w.Ok none := by
  have hnum : ∀ j, w.number j = v.number j := fun j => number_of (by rw [e1])
  obtain ⟨wait, order, count, distinct, numbered, busy, holds, free, channel, route, abort, nodup, queued, passing⟩ := h
  constructor
  case order => rw [e2]; exact order_congr (fun j hj => hnum j) order
  all_goals (try simp only [e1, e2, e3, e6, e7])
  all_goals first | assumption | skip
  case busy => intro d hd; have := busy d; by_cases hdc : d = c <;> grind
  case holds =>
    intro d j hd; have := holds d j; have := free d j; by_cases hdc : d = c
    · rw [e5, if_pos hdc]; subst hdc
      constructor
      · intro h; cases h
      · rintro ⟨k, hk, hkc⟩; exact absurd hkc (free d j k rfl hk)
    · exact (by rw [e5, if_neg hdc]; exact holds d j (fun e => hdc (Option.some.inj e)))
  case free => intro d j k hd; cases hd
  case abort =>
    intro j k d hj hd
    by_cases hdc : d = c
    · subst hdc; exact absurd hd (free d j k rfl hj)
    · rw [e4 d hdc]; exact abort j k d hj hd

/-- A channel changes between states of one kind. -/
theorem ok_chan (e1 : w.hide = v.hide) (e2 : w.waiting = v.waiting) (e3 : w.released = v.released)
    (e5 : w.chanHide = v.chanHide) (e6 : w.queue = v.queue) (e7 : w.pass = v.pass)
    (hb : ∀ c, (w.chanState c).busy = (v.chanState c).busy ∧ (w.chanState c = .aborting ↔ v.chanState c = .aborting))
      (h : v.Ok x) : w.Ok x := by
  have hnum : ∀ j, w.number j = v.number j := fun j => number_of (by rw [e1])
  obtain ⟨wait, order, count, distinct, numbered, busy, holds, free, channel, route, abort, nodup, queued, passing⟩ := h
  constructor
  case order => rw [e2]; exact order_congr (fun j hj => hnum j) order
  all_goals (try simp only [e1, e2, e3, e5, e6, e7])
  all_goals first | assumption | skip
  case busy => intro d hd; rw [(hb d).1]; exact busy d hd
  case abort => intro j k d hj hd; rw [(hb d).2]; exact abort j k d hj hd

/-- A discard of a nesting hide begins. -/
theorem ok_discardEngine {slot : Nat} {k : Core}
    (hr : Rest v w slot (some { k with state := .discarding, route := some .engine }))
    (e2 : w.waiting = v.waiting) (e4 : w.chanState = v.chanState)
    (e5 : w.chanHide = v.chanHide) (e6 : w.queue = v.queue) (e7 : w.pass = v.pass)
    (hk : v.hide slot = some k) (hw : k.state = .nesting) (h : v.Ok none) : w.Ok none := by
  have e := hr.hide
  have e3 := hr.released
  have hnum := rest_number hr hk (by rintro l ⟨⟩; rfl) (by simp)
  obtain ⟨wait, order, count, distinct, numbered, busy, holds, free, channel, route, abort, nodup, queued, passing⟩ := h
  constructor
  case order =>
    rw [e2]
    refine order_congr (fun j hj => hnum j) order
  all_goals intros
  case wait j => have := wait j; grind
  case count j c r _ _ => have := count j; grind
  case busy d hd => have := busy d; grind
  case holds d j hd => have := holds d j; grind
  case nodup => grind
  case queued j => have := queued j; grind
  case passing j => have := passing j; grind [Core.inPass]
  all_goals grind

/-- A discard of a hide on a channel begins. -/
theorem ok_discardChannel {slot : Nat} {k : Core} {c : Fin 4}
    (hr : Rest v w slot (some { k with state := .discarding, route := some .channel }))
    (e2 : w.waiting = v.waiting) (e4 : ∀ d, w.chanState d = if d = c then .aborting else v.chanState d)
    (e5 : w.chanHide = v.chanHide) (e6 : w.queue = v.queue) (e7 : w.pass = v.pass)
    (hk : v.hide slot = some k) (hw : k.state = .cutting) (hc : k.channel = some c) (h : v.Ok none) : w.Ok none := by
  have e := hr.hide
  have e3 := hr.released
  have hnum := rest_number hr hk (by rintro l ⟨⟩; rfl) (by simp)
  have hb : (ChannelState.aborting).busy = true := by decide
  obtain ⟨wait, order, count, distinct, numbered, busy, holds, free, channel, route, abort, nodup, queued, passing⟩ := h
  constructor
  case order =>
    rw [e2]
    refine order_congr (fun j hj => hnum j) order
  all_goals intros
  case wait j => have := wait j; grind
  case count j c r _ _ => have := count j; grind
  case busy d hd => have := busy d; have := holds c slot; grind
  case holds d j hd => have := holds d j; grind
  case abort j l d hj hd =>
    have := holds d j; have := holds d slot; have := abort j l d; grind
  case nodup => grind
  case queued j => have := queued j; grind
  case passing j => have := passing j; grind [Core.inPass]
  all_goals grind

/-- A hide joins the nest queue. -/
theorem ok_nest {slot : Nat} {k : Core} (hr : Rest v w slot (some { k with state := .nestWait }))
    (e2 : w.waiting = v.waiting) (e4 : w.chanState = v.chanState)
    (e5 : w.chanHide = v.chanHide) (e6 : w.queue = v.queue ++ [slot]) (e7 : w.pass = v.pass)
    (hk : v.hide slot = some k) (hw : Idle k) (h : v.Ok none) : w.Ok none := by
  obtain ⟨i1, i2, i3⟩ := hw
  have e := hr.hide
  have e3 := hr.released
  have hnum := rest_number hr hk (by rintro l ⟨⟩; rfl) (by simp)
  obtain ⟨wait, order, count, distinct, numbered, busy, holds, free, channel, route, abort, nodup, queued, passing⟩ := h
  constructor
  case order =>
    rw [e2]
    refine order_congr (fun j hj => hnum j) order
  all_goals intros
  case wait j => have := wait j; grind
  case count j c r _ _ => have := count j; grind
  case busy d hd => have := busy d; grind
  case holds d j hd => have := holds d j; grind
  case nodup =>
    rw [e6, List.nodup_append]
    have := queued slot
    grind
  case queued j => have := queued j; rw [e6, List.mem_append]; grind
  case passing j => have := passing j; grind [Core.inPass]
  all_goals grind

/-- The engine takes the head of its queue. -/
theorem ok_take {slot : Nat} {k : Core} {q : List Nat} (hr : Rest v w slot (some { k with state := .nesting }))
    (e2 : w.waiting = v.waiting) (e4 : w.chanState = v.chanState)
    (e5 : w.chanHide = v.chanHide) (e6 : v.queue = slot :: q) (e6' : w.queue = q) (e7 : w.pass = some slot)
      (e7' : v.pass = none)
    (hk : v.hide slot = some k) (h : v.Ok none) : w.Ok none := by
  have e := hr.hide
  have e3 := hr.released
  have hnum := rest_number hr hk (by rintro l ⟨⟩; rfl) (by simp)
  obtain ⟨wait, order, count, distinct, numbered, busy, holds, free, channel, route, abort, nodup, queued, passing⟩ := h
  have hks : k.state = .nestWait := by have := queued slot; grind
  constructor
  case order =>
    rw [e2]
    refine order_congr (fun j hj => hnum j) order
  all_goals intros
  case wait j => have := wait j; grind
  case count j c r _ _ => have := count j; grind
  case busy d hd => have := busy d; grind
  case holds d j hd => have := holds d j; grind
  case nodup => rw [e6] at nodup; rw [e6']; exact (List.nodup_cons.1 nodup).2
  case queued j => have := queued j; rw [e6] at nodup; have := (List.nodup_cons.1 nodup).1; grind
  case passing j => have := passing j; grind [Core.inPass]
  all_goals grind

/-- The engine gives a hide back. -/
theorem ok_nested {slot : Nat} {k : Core} (hr : Rest v w slot (some { k with state := .nested }))
    (e2 : w.waiting = v.waiting) (e4 : w.chanState = v.chanState)
    (e5 : w.chanHide = v.chanHide) (e6 : w.queue = v.queue) (e7 : w.pass = none)
    (hk : v.hide slot = some k) (hw : k.state = .nesting) (h : v.Ok none) : w.Ok none := by
  have e := hr.hide
  have e3 := hr.released
  have hnum := rest_number hr hk (by rintro l ⟨⟩; rfl) (by simp)
  obtain ⟨wait, order, count, distinct, numbered, busy, holds, free, channel, route, abort, nodup, queued, passing⟩ := h
  constructor
  case order =>
    rw [e2]
    refine order_congr (fun j hj => hnum j) order
  all_goals intros
  case wait j => have := wait j; grind
  case count j c r _ _ => have := count j; grind
  case busy d hd => have := busy d; grind
  case holds d j hd => have := holds d j; grind
  case nodup => grind
  case queued j => have := queued j; grind
  case passing j => have := passing j; have := passing slot; grind [Core.inPass]
  all_goals grind

end Joint
end Sys2Proof.Laws
end

