-- ==== Sys2Proof/Laws/Sound.lean ====
section
/-! SUPPORT. The settings, the memories and the arbiter: when they are sound, and what decides it. -/

namespace Sys2Proof.Laws

open Sys2Proof.Machine

/-! ### The settings -/

/-- What the soundness of the settings says of each place that holds them. -/
theorem settingsSound_iff (s : State) : s.settingsSound = true ↔ s.profile.settings.sound = true ∧ (∀ g,
    s.profile.image =
    .good g → g.sound = true) ∧ ∀ g, s.profile.busy = .saving g → g.sound = true := by
  unfold State.settingsSound State.settings
  cases s.profile.image <;> cases s.profile.busy <;> simp [and_assoc]

/-- Only the Profile Store decides it. -/
theorem settingsSound_same {s t : State} (h : t.profile = s.profile) (hs : s.settingsSound = true) : t.settingsSound =
    true := by
  unfold State.settingsSound State.settings at *
  rw [h]; exact hs

/-- A value taken by one setting, with the orders kept, leaves the settings sound. -/
theorem sound_with {g g' : Settings} {v code : Nat} (h : g.sound = true) (hw : g.with v code = some g') (ho :
    g'.ordered = true) : g'.sound = true := by
  unfold Settings.sound at h
  simp only [Bool.and_eq_true, between, decide_eq_true_eq] at h
  unfold Settings.with inRange rateOf onOff attnModeOf pickOf overdueOf at hw
  unfold Settings.sound
  simp only [Bool.and_eq_true, between, decide_eq_true_eq, ho, and_true]
  split at hw <;> (try cases hw) <;> simp only [Option.map_eq_some_iff] at hw <;> obtain ⟨a, ha, rfl⟩ :=
      hw <;> (repeat' split at ha) <;> (try (cases ha; done)) <;> simp_all

/-- Settings put in force change no other field of the Profile Store. -/
theorem putInForce_profile (g : Settings) (s : State) : (putInForce g s).profile = { s.profile with settings := g } :=
    by
  unfold putInForce
  simp only
  (repeat' split) <;> simp

/-- The fixed defaults are sound. -/
theorem fixed_sound : Settings.fixed.sound = true := by decide

/-- The two orders of R185. -/
theorem ord_iff (g : Settings) : (g.sevT1 ≤ g.sevT2 ∧ g.sevT2 ≤ g.sevT3 ∧ g.frameLow < g.frameResume) ↔ g.ordered =
    true := by
  simp [Settings.ordered, and_assoc]

/-! ### Memories and tables -/

/-- What the canonical form says of each memory and table. -/
theorem canonical_iff (s : State) : s.tablesCanonical = true ↔ Mem.wf outsideCode s.grid.contents = true ∧
    Mem.wf noCover s.grid.covers = true ∧ Tab.sorted s.library.pieces = true ∧
   (∀ e ∈ s.library.pieces, e.2.canonical = true) ∧ Tab.sorted s.hides.slots = true ∧ ∀ e ∈ s.hides.slots,
   e.2.canonical = true := by
  simp [State.tablesCanonical, and_assoc]

/-- Only the store, the library and the hides decide it. -/
theorem canonical_same {s t : State} (h1 : t.grid = s.grid) (h2 : t.library = s.library) (h3 : t.hides = s.hides) (h :
    s.tablesCanonical = true) : t.tablesCanonical = true := by
  rw [canonical_iff] at *; rw [h1, h2, h3]; exact h

/-- A write of a hide that keeps the form of its tables keeps the canonical form. -/
theorem canonical_modHide {s : State} {slot : Nat} {f : Hide → Hide} (hf : ∀ k, k.canonical = true →
    (f k).canonical = true)
    (h : s.tablesCanonical = true) : (s.modHide slot f).tablesCanonical = true := by
  cases hg : s.hide slot with
  | none => rw [modHide_none _ hg]; exact h
  | some g =>
    rw [modHide_some _ hg]
    rw [canonical_iff] at *
    obtain ⟨a, b, c, d, e, e2⟩ := h
    exact ⟨a, b, c, d, sorted_put _ _ e, all_put e2 (hf g (e2 _ (mem_of_get hg)))⟩

/-- Only the tile table and the thickness entries decide the form of a hide. -/
theorem hide_canonical_same {h k : Hide} (h1 : k.frames = h.frames) (h2 : k.thick = h.thick) (hc : h.canonical = true) :
    k.canonical = true := by
  unfold Hide.canonical at *; rw [h1, h2]; exact hc

/-- A write of a piece in canonical form. -/
theorem canonical_putPiece {s : State} {slot : Nat} {p : Piece} (h : s.tablesCanonical = true) (hp : p.canonical = true) :
    (s.putPiece slot p).tablesCanonical = true := by
  rw [canonical_iff] at *
  obtain ⟨a, b, c, d, e⟩ := h
  exact ⟨a, b, sorted_put _ _ c, all_put d hp, e⟩

/-- A piece of a canonical state. -/
theorem piece_canonical {s : State} {slot : Nat} {p : Piece} (h : s.tablesCanonical = true) (hp : s.piece slot = some p) :
    p.canonical = true := by
  rw [canonical_iff] at h
  exact h.2.2.2.1 _ (mem_of_get hp)

/-! ### The arbiter -/

/-- What the soundness of the arbiter says. -/
theorem arbiterSound_iff (s : State) : s.arbiterSound = true ↔ s.arbiter.ratio ≤ 8 ∧ (s.arbiter.state =
    .hold ∨ ∀ slot ∈ s.arbiter.waiting, s.grantable slot = false) := by
  simp [State.arbiterSound]

/-- A write of a hide that keeps its release keeps every release. -/
theorem releaseOf_modHide (s : State) (slot : Nat) (f : Hide → Hide) (hf : ∀ g, s.hide slot = some g → (f g).release =
    g.release) (k : Nat) : (s.modHide slot f).releaseOf k = s.releaseOf k := by
  cases hg : s.hide slot with
  | none => rw [modHide_none _ hg]
  | some g =>
    rw [modHide_some _ hg]
    unfold State.releaseOf
    by_cases hk : k = slot
    · subst hk
      have : (s.putHide k (f g)).hide k = some (f g) := get_put_self _ _ _
      rw [this, hg]; exact hf g hg
    · have : (s.putHide slot (f g)).hide k = s.hide k := get_put_other _ _ hk
      rw [this]

/-- A hide that is not grantable stays so where no channel becomes IDLE and no release is new. -/
theorem grantable_mono {s t : State} {slot : Nat} (hi : ∀ c, (t.chan c).state = .idle → (s.chan c).state = .idle)
    (hr : t.releaseOf slot = s.releaseOf slot ∨ t.releaseOf slot = none) (h : s.grantable slot = false) :
    t.grantable slot = false := by
  unfold State.grantable at *
  rcases hr with hr | hr
  · rw [hr]
    cases hq : s.releaseOf slot with
    | none => rfl
    | some r =>
      rw [hq] at h
      simp only [Option.any_some, List.any_eq_false] at *
      intro c hc hh
      refine h c hc ?_
      unfold State.eligible at *
      simp only [Bool.and_eq_true, decide_eq_true_eq] at *
      exact ⟨hh.1, hi c hh.2⟩
  · rw [hr]; rfl

/-- The arbiter stays sound where no hide joins, no channel becomes IDLE and no release is new. -/
theorem arbiterSound_mono {s t : State} (h1 : t.arbiter.state = s.arbiter.state)
    (h2 : t.arbiter.ratio = s.arbiter.ratio)
    (hw : ∀ k ∈ t.arbiter.waiting, k ∈ s.arbiter.waiting) (hi : ∀ c, (t.chan c).state = .idle → (s.chan c).state =
    .idle)
    (hr : ∀ k, t.releaseOf k = s.releaseOf k ∨ t.releaseOf k = none) (h : s.arbiterSound = true) : t.arbiterSound =
    true := by
  rw [arbiterSound_iff] at *
  refine ⟨h2 ▸ h.1, ?_⟩
  rcases h.2 with h | h
  · exact .inl (h1.trans h)
  · exact .inr fun k hk => grantable_mono hi (hr k) (h k (hw k hk))

/-- Only the arbiter, the channels and the hides decide it. -/
theorem arbiterSound_same {s t : State} (h1 : t.arbiter = s.arbiter) (h2 : t.chans = s.chans) (h3 : t.hides = s.hides)
    (h :
    s.arbiterSound = true) : t.arbiterSound = true :=
  arbiterSound_mono (by rw [h1]) (by rw [h1]) (by rw [h1]; intro k hk; exact hk)
      (by intro c; unfold State.chan; rw [h2]; exact id)
    (by intro k; left; unfold State.releaseOf State.hide; rw [h3]) h

/-- One grant more than there are IDLE channels is never made. -/
theorem grants_more (n : Nat) : ∀ s : State, (idles s).length ≤ n → State.grants (n+1) s = State.grants n s := by
  induction n with
  | zero =>
    intro s h
    have := grants_ends 0 s h
    simp only [State.grants] at this ⊢
    rw [this]
  | succ n ih =>
    intro s h
    rw [State.grants]
    conv => rhs; rw [State.grants]
    cases hn : s.nextGrant with
    | none => rfl
    | some t => 
      simp only
      rw [ih t (by have := idles_grant hn; omega)]

end Sys2Proof.Laws
end

