-- ==== Sys2Proof/Laws/Pool.lean ====
section
/-! SUPPORT. The frame pool: the lowest free frame, what taking a frame and freeing a slot do to the owned and the
retired frames, and that both keep each frame named at most once. -/

namespace Sys2Proof.Laws

open Sys2Proof.Machine

/-! ### The lowest free frame (R60) -/

/-- What the search for an unused number answers. -/
theorem lowestUnused_spec {used : List Nat} {fuel i f : Nat} (h : lowestUnused used fuel i = some f) :
    i ≤ f ∧ f < i + fuel ∧ f ∉ used ∧ ∀ k, i ≤ k → k < f → k ∈ used := by
  induction fuel generalizing i with
  | zero => cases h
  | succ n ih =>
    simp only [lowestUnused] at h
    split at h
    · next hc =>
      obtain ⟨h1, h2, h3, h4⟩ := ih h
      refine ⟨by omega, by omega, h3, fun k hk hf => ?_⟩
      by_cases hki : k = i
      · subst hki; simpa using hc
      · exact h4 k (by omega) hf
    · next hc =>
      cases h
      exact ⟨Nat.le_refl _, by omega, by simpa using hc, fun k h1 h2 => absurd h1 (by omega)⟩

/-- Where the search answers nothing, every number of its range is used. -/
theorem lowestUnused_none {used : List Nat} {fuel i : Nat} (h : lowestUnused used fuel i = none) :
    ∀ k, i ≤ k → k < i + fuel → k ∈ used := by
  induction fuel generalizing i with
  | zero => intro k h1 h2; omega
  | succ n ih =>
    simp only [lowestUnused] at h
    split at h
    · next hc =>
      intro k h1 h2
      by_cases hki : k = i
      · subst hki; simpa using hc
      · exact ih h k (by omega) (by omega)
    · cases h

/-- What the pool's lowest free frame is. -/
theorem lowestFree_spec {s : State} {f : Nat} (h : s.lowestFree = some f) :
    f < 8192 ∧ f ∉ s.ownedFrames ∧ f ∉ s.grid.retired ∧ ∀ k < f, k ∈ s.ownedFrames ∨ k ∈ s.grid.retired := by
  obtain ⟨_, h2, h3, h4⟩ := lowestUnused_spec h
  simp only [List.mem_append, not_or] at h3
  exact ⟨by simpa [Config.tileFrames] using h2, h3.1, h3.2, fun k hk => by simpa using h4 k (Nat.zero_le _) hk⟩

/-- While the free count is not 0, the pool has a free frame. -/
theorem lowestFree_exists {s : State} (h : 1 ≤ s.free) : ∃ f, s.lowestFree = some f := by
  cases hf : s.lowestFree with
  | some f => exact ⟨f, rfl⟩
  | none =>
    have hall := lowestUnused_none hf
    have hsub : List.range 8192 ⊆ s.ownedFrames ++ s.grid.retired := by
      intro k hk
      exact hall k (Nat.zero_le _) (by simpa [Config.tileFrames] using hk)
    have hle := (List.nodup_range.subperm hsub).length_le
    simp only [State.free, State.owned, Config.tileFrames, List.length_range, List.length_append] at h hle
    omega

/-! ### Owned frames after a write of a hide -/

/-- How often a frame is named in a table of hides after one of them is written anew. -/
theorem count_put {t : Tab Hide} {slot : Nat} {g : Hide} (k : Hide) (a : Nat) (hs : Tab.sorted t = true)
    (hg : Tab.get t slot = some g) :
    ((Tab.put t slot k).flatMap fun e => e.2.frames.map (·.2)).count a + (g.frames.map (·.2)).count a =
      (t.flatMap fun e => e.2.frames.map (·.2)).count a + (k.frames.map (·.2)).count a := by
  induction t with
  | nil => cases hg
  | cons e t ih =>
    obtain ⟨j, b⟩ := e
    rw [sorted_cons] at hs
    simp only [Tab.get] at hg
    by_cases hj : j = slot
    · subst hj
      simp only [if_true, Option.some.injEq] at hg
      subst hg
      simp only [Tab.put, lt_irrefl, if_false, if_true, List.flatMap_cons, List.count_append]
      omega
    · rw [if_neg hj] at hg
      have := hs.1 _ (mem_of_get hg)
      have hlt : ¬ slot < j := by simp only at this; omega
      have := ih hs.2 hg
      simp only [Tab.put, hlt, if_false, hj, List.flatMap_cons, List.count_append]
      omega

/-- The same after one of them is dropped. -/
theorem count_del {t : Tab Hide} {slot : Nat} {g : Hide} (a : Nat) (hs : Tab.sorted t = true)
    (hg : Tab.get t slot = some g) :
    ((Tab.del t slot).flatMap fun e => e.2.frames.map (·.2)).count a + (g.frames.map (·.2)).count a =
      (t.flatMap fun e => e.2.frames.map (·.2)).count a := by
  induction t with
  | nil => cases hg
  | cons e t ih =>
    obtain ⟨j, b⟩ := e
    rw [sorted_cons] at hs
    simp only [Tab.get] at hg
    by_cases hj : j = slot
    · subst hj
      simp only [if_true, Option.some.injEq] at hg
      subst hg
      have : Tab.del ((j, b) :: t) j = t := by
        simp only [Tab.del, List.filter_cons, ne_eq, not_true, decide_false, Bool.false_eq_true, if_false]
        rw [List.filter_eq_self]
        intro e he
        have := hs.1 e he
        simp only [ne_eq, decide_eq_true_eq]; omega
      rw [this, List.flatMap_cons, List.count_append]
      exact Nat.add_comm _ _
    · rw [if_neg hj] at hg
      have := ih hs.2 hg
      have hd : Tab.del ((j, b) :: t) slot = (j, b) :: Tab.del t slot := by
        simp only [Tab.del, List.filter_cons, ne_eq, hj, not_false_eq_true, decide_true, if_true]
      rw [hd]
      simp only [List.flatMap_cons, List.count_append]
      omega

/-- How often a frame is named in a tile table after one tile's frame is written. -/
theorem count_frame (t : Tab Nat) (tile f a : Nat) :
    ((Tab.put t tile f).map (·.2)).count a ≤ (t.map (·.2)).count a + [f].count a ∧
    (Tab.get t tile = none →
      ((Tab.put t tile f).map (·.2)).count a = (t.map (·.2)).count a + [f].count a) := by
  induction t with
  | nil => simp [Tab.put]
  | cons e t ih =>
    obtain ⟨j, b⟩ := e
    simp only [Tab.put, Tab.get]
    (repeat' split) <;> simp only [List.map_cons, List.count_cons, List.count_nil] at * <;>
      refine ⟨?_, fun hn => ?_⟩ <;> first | omega | cases hn | (have := ih.2 hn; omega)

/-- The owned frames after a write of a hide. -/
theorem owned_putHide {s : State} {slot : Nat} {g : Hide} (k : Hide) (a : Nat)
    (hs : Tab.sorted s.hides.slots = true) (hg : s.hide slot = some g) :
    (s.putHide slot k).ownedFrames.count a + (g.frames.map (·.2)).count a =
      s.ownedFrames.count a + (k.frames.map (·.2)).count a := count_put k a hs hg

/-- A hide's frames are among the owned ones. -/
theorem owned_of_hide {s : State} {slot : Nat} {g : Hide} (hg : s.hide slot = some g) {f : Nat}
    (hf : f ∈ g.frames.map (·.2)) : f ∈ s.ownedFrames :=
  List.mem_flatMap.2 ⟨_, mem_of_get hg, hf⟩

/-! ### Frames taken and given back -/

/-- What the soundness of the pool says: frame by frame, at most one mention. -/
theorem framesSound_iff (s : State) : s.framesSound = true ↔
    (∀ a, s.ownedFrames.count a + s.grid.retired.count a ≤ 1) ∧ s.grid.retired.Pairwise (· < ·) ∧
      ∀ a, a ∈ s.ownedFrames ∨ a ∈ s.grid.retired → a < 8192 := by
  simp only [State.framesSound, Bool.and_eq_true, decide_eq_true_eq, List.all_eq_true, List.mem_append,
    List.nodup_iff_count_le_one, List.count_append, Config.tileFrames, and_assoc]

/-- The pool decides it alone: the owned frames, as a multiset, and the retired ones. -/
theorem framesSound_same {s t : State} (h1 : ∀ a, t.ownedFrames.count a ≤ s.ownedFrames.count a)
    (h2 : t.grid.retired = s.grid.retired) (h : s.framesSound = true) : t.framesSound = true := by
  rw [framesSound_iff] at *
  rw [h2]
  refine ⟨fun a => ?_, h.2.1, fun a ha => h.2.2 a (ha.imp_left fun h3 => ?_)⟩
  · have := h.1 a; have := h1 a; omega
  · have := h1 a
    have := List.count_pos_iff.2 h3
    exact List.count_pos_iff.1 (by omega)

/-- A write of a hide that keeps its tile table keeps the pool sound. -/
theorem framesSound_modHide {s : State} {slot : Nat} {f : Hide → Hide} (hs : Tab.sorted s.hides.slots = true)
    (hf : ∀ g, s.hide slot = some g → (f g).frames = g.frames) (h : s.framesSound = true) :
    (s.modHide slot f).framesSound = true := by
  cases hg : s.hide slot with
  | none => rw [modHide_none _ hg]; exact h
  | some g =>
    rw [modHide_some _ hg]
    refine framesSound_same (s := s) (fun a => ?_) rfl h
    have := owned_putHide (f g) a hs hg
    rw [hf g hg] at this
    omega

/-- What taking a frame does to a hide. -/
theorem takeFrame_eq {s : State} {slot tile f : Nat} {g : Hide} (hg : s.hide slot = some g)
    (hf : s.lowestFree = some f) : State.takeFrame slot s tile =
      { s.putHide slot { g with frames := Tab.put g.frames tile f } with grid := { s.grid with
        contents := Mem.clear s.grid.contents (f * Config.frameCells) Config.frameCells
        covers := Mem.clear s.grid.covers (f * Config.frameCells) Config.frameCells } } := by
  simp only [State.takeFrame, hf, modHide_some _ hg]; rfl

/-- Taking a frame keeps the pool sound. -/
theorem framesSound_takeFrame {s : State} {slot tile : Nat} (hs : Tab.sorted s.hides.slots = true)
    (h : s.framesSound = true) : (State.takeFrame slot s tile).framesSound = true := by
  cases hf : s.lowestFree with
  | none => simpa [State.takeFrame, hf] using h
  | some f =>
    cases hg : s.hide slot with
    | none =>
      simp only [State.takeFrame, hf, modHide_none _ hg]
      exact framesSound_same (fun _ => le_refl _) rfl h
    | some g =>
      obtain ⟨h1, h2, h3, _⟩ := lowestFree_spec hf
      rw [takeFrame_eq hg hf]
      have hc : ∀ a, (s.putHide slot { g with frames := Tab.put g.frames tile f }).ownedFrames.count a ≤
          s.ownedFrames.count a + [f].count a := by
        intro a
        have e1 := owned_putHide { g with frames := Tab.put g.frames tile f } a hs hg
        have e2 := (count_frame g.frames tile f a).1
        simp only at e1
        omega
      generalize s.putHide slot { g with frames := Tab.put g.frames tile f } = u at hc
      rw [framesSound_iff] at h ⊢
      have hf0 : ∀ a, f ≠ a → [f].count a = 0 := fun a ha => List.count_eq_zero.2 (by simpa using Ne.symm ha)
      refine ⟨fun a => ?_, h.2.1, fun a ha => ?_⟩
      · show u.ownedFrames.count a + s.grid.retired.count a ≤ 1
        have := hc a
        have := h.1 a
        by_cases hfa : f = a
        · subst hfa
          have := List.count_eq_zero.2 h2
          have := List.count_eq_zero.2 h3
          simp only [List.count_singleton_self] at *
          omega
        · have := hf0 a hfa
          omega
      · rcases ha with ha | ha
        · have := hc a
          have h4 : 0 < u.ownedFrames.count a := List.count_pos_iff.2 ha
          by_cases hfa : f = a
          · omega
          · have := hf0 a hfa
            exact h.2.2 a (.inl (List.count_pos_iff.1 (by omega)))
        · exact h.2.2 a (.inr ha)

theorem mem_insertNat (k j : Nat) (l : List Nat) : j ∈ insertNat k l ↔ j = k ∨ j ∈ l := by
  induction l with
  | nil => simp [insertNat]
  | cons a t ih =>
    simp only [insertNat]
    (repeat' split) <;> (simp_all; try tauto)

theorem insertNat_sorted (k : Nat) (l : List Nat) (h : l.Pairwise (· < ·)) : (insertNat k l).Pairwise (· < ·) := by
  induction l with
  | nil => simp [insertNat]
  | cons a t ih =>
    rw [List.pairwise_cons] at h
    simp only [insertNat]
    split
    · next hk =>
      refine List.pairwise_cons.2 ⟨fun b hb => ?_, List.pairwise_cons.2 h⟩
      rcases List.mem_cons.1 hb with rfl | hb
      · exact hk
      · have := h.1 b hb; omega
    · split
      · exact List.pairwise_cons.2 h
      · refine List.pairwise_cons.2 ⟨fun b hb => ?_, ih h.2⟩
        rcases (mem_insertNat k b t).1 hb with rfl | hb
        · omega
        · exact h.1 b hb

/-- The retired frames after the frames of a list retire. -/
theorem retire_spec (fs r : List Nat) (h : r.Pairwise (· < ·)) :
    (fs.foldl (fun r f => insertNat f r) r).Pairwise (· < ·) ∧
      ∀ f, f ∈ fs.foldl (fun r f => insertNat f r) r ↔ f ∈ r ∨ f ∈ fs := by
  induction fs generalizing r with
  | nil => exact ⟨h, fun f => by simp⟩
  | cons a t ih =>
    obtain ⟨h1, h2⟩ := ih _ (insertNat_sorted a r h)
    refine ⟨h1, fun f => ?_⟩
    rw [List.foldl_cons, h2, mem_insertNat, List.mem_cons]
    tauto

/-- The frames of the poisoned tiles are frames of the hide. -/
theorem mem_poisonedFrames {g : Hide} {f : Nat} :
    f ∈ State.poisonedFrames g ↔ ∃ tile ∈ g.poisoned, Tab.get g.frames tile = some f := by
  simp [State.poisonedFrames]

/-- A slot freed: its hide is gone, its poisoned frames are retired, and only the throttle may change besides. -/
theorem freeSlot_eq {s : State} {slot : Nat} {g : Hide} (hg : s.hide slot = some g) : s.freeSlot slot =
    State.releaseEval { s with
      hides := { s.hides with slots := Tab.del s.hides.slots slot }
      grid := { s.grid with
        retired := (State.poisonedFrames g).foldl (fun r f => insertNat f r) s.grid.retired } } := by
  simp only [State.freeSlot, hg]; rfl

/-- Freeing a slot keeps the pool sound. -/
theorem framesSound_freeSlot {s : State} {slot : Nat} (hs : Tab.sorted s.hides.slots = true)
    (h : s.framesSound = true) : (s.freeSlot slot).framesSound = true := by
  cases hg : s.hide slot with
  | none => simpa [State.freeSlot, hg] using h
  | some g =>
    rw [freeSlot_eq hg]
    have hr : ∀ u : State, (State.releaseEval u).grid.retired = u.grid.retired ∧
        (State.releaseEval u).hides = u.hides := by
      intro u
      unfold State.releaseEval State.toNormal
      (repeat' split) <;> simp
    refine framesSound_same (s := { s with
      hides := { s.hides with slots := Tab.del s.hides.slots slot }
      grid := { s.grid with
        retired := (State.poisonedFrames g).foldl (fun r f => insertNat f r) s.grid.retired } }) (fun a => ?_)
      (hr _).1 ?_
    · simp only [State.ownedFrames, (hr _).2, le_refl]
    rw [framesSound_iff] at *
    obtain ⟨r1, r2⟩ := retire_spec (State.poisonedFrames g) s.grid.retired h.2.1
    have hdel : ∀ a, ((Tab.del s.hides.slots slot).flatMap fun e => e.2.frames.map (·.2)).count a =
        s.ownedFrames.count a - (g.frames.map (·.2)).count a := by
      intro a
      have := count_del a hs hg
      simp only [State.ownedFrames]
      omega
    have hsub : ∀ a, (g.frames.map (·.2)).count a ≤ s.ownedFrames.count a := by
      intro a
      have := count_del a hs hg
      simp only [State.ownedFrames]
      omega
    have hpf : ∀ f, f ∈ State.poisonedFrames g → f ∈ g.frames.map (·.2) := by
      intro f hf
      obtain ⟨tile, _, ht⟩ := mem_poisonedFrames.1 hf
      exact List.mem_map.2 ⟨_, mem_of_get ht, rfl⟩
    refine ⟨fun a => ?_, r1, fun a ha => ?_⟩
    · have h1 := h.1 a
      have h2 := hdel a
      have h3 := hsub a
      have hnd : ((State.poisonedFrames g).foldl (fun r f => insertNat f r) s.grid.retired).count a ≤ 1 :=
        List.nodup_iff_count_le_one.1 (r1.imp fun h => Nat.ne_of_lt h) a
      show List.count a (List.flatMap _ _) +
        List.count a ((State.poisonedFrames g).foldl (fun r f => insertNat f r) s.grid.retired) ≤ 1
      rw [h2]
      by_cases hm : a ∈ (State.poisonedFrames g).foldl (fun r f => insertNat f r) s.grid.retired
      · rcases (r2 a).1 hm with hm | hm
        · have := List.count_pos_iff.2 hm; omega
        · have := List.count_pos_iff.2 (hpf a hm); omega
      · have := List.count_eq_zero.2 hm; omega
    · rcases ha with ha | ha
      · have h4 := List.count_pos_iff.2 ha
        have h2 := hdel a
        exact h.2.2 a (.inl (List.count_pos_iff.1 (by simp only [State.ownedFrames] at *; omega)))
      · rcases (r2 a).1 ha with ha | ha
        · exact h.2.2 a (.inr ha)
        · exact h.2.2 a (.inl (owned_of_hide hg (hpf a ha)))

/-- Taking a frame for a tile without one takes one from the free count. -/
theorem free_takeFrame {s : State} {slot tile : Nat} {g : Hide} (hs : Tab.sorted s.hides.slots = true)
    (hg : s.hide slot = some g) (ht : Tab.get g.frames tile = none) (h : 1 ≤ s.free) :
    (State.takeFrame slot s tile).free + 1 = s.free := by
  obtain ⟨f, hf⟩ := lowestFree_exists h
  rw [takeFrame_eq hg hf]
  have hp : (s.putHide slot { g with frames := Tab.put g.frames tile f }).ownedFrames.Perm (f :: s.ownedFrames) := by
    rw [List.perm_iff_count]
    intro a
    have e1 := owned_putHide { g with frames := Tab.put g.frames tile f } a hs hg
    have e2 := (count_frame g.frames tile f a).2 ht
    rw [List.count_cons]
    simp only [List.count_cons, List.count_nil] at e1 e2
    omega
  have hl := hp.length_eq
  simp only [State.free, State.owned, Config.tileFrames] at *
  simp only [List.length_cons] at hl
  show 8192 - ((s.putHide slot { g with frames := Tab.put g.frames tile f }).ownedFrames.length + s.grid.retired.length) + 1 = _
  omega

/-- Taking a frame keeps memories and tables canonical. -/
theorem canonical_takeFrame {s : State} (slot tile : Nat) (h : s.canonical = true) :
    (State.takeFrame slot s tile).canonical = true := by
  simp only [State.canonical, Bool.and_eq_true] at h ⊢
  have h1 := (canonical_iff s).1 h.1
  refine ⟨?_, framesSound_takeFrame h1.2.2.2.2.1 h.2⟩
  unfold State.takeFrame
  split
  · exact h.1
  · next f hf =>
    have h2 := canonical_modHide (s := s) (slot := slot)
      (f := fun h => { h with frames := Tab.put h.frames tile f }) (fun k hk => by
      unfold Hide.canonical at *
      simp only [Bool.and_eq_true] at *
      exact ⟨sorted_put _ _ hk.1, hk.2⟩) h.1
    rw [canonical_iff] at h2 ⊢
    exact ⟨wf_clear _ _ h2.1, wf_clear _ _ h2.2.1, h2.2.2⟩

end Sys2Proof.Laws
end

