-- ==== Sys2Proof/Laws/Tickets.lean ====
section
/-! SUPPORT. The channels: their records, the placements out on them, and a hide given back. -/

namespace Sys2Proof.Laws

open Sys2Proof.Machine

/-- Of two writes of a channel the second stands. -/
theorem putChan_putChan (s : State) (c : Fin 4) (a b : Channel) : (s.putChan c a).putChan c b = s.putChan c b := by
  simp [State.putChan]

/-- A channel written as it stands. -/
theorem putChan_same (s : State) (c : Fin 4) : s.putChan c (s.chan c) = s := by
  unfold State.putChan State.chan
  have : s.chans.set c.1 (s.chans.get c) c.2 = s.chans := by
    ext i hi
    rw [Vector.getElem_set]
    split
    · next h => subst h; rfl
    · rfl
  rw [this]

/-- The assigned hide of a channel. -/
theorem assigned_of {s : State} {c : Fin 4} {slot : Nat} {g : Hide} (h1 : (s.chan c).hide = some slot) (h2 :
    s.hide slot = some g) :
   s.assigned c = some (slot, g) := by simp [State.assigned, h1, h2]

/-- A placement that is out on a channel under a number. -/
theorem outAs_iff (c n) (p : Placement) : outAs c n p = true ↔ p.state = .ticketed ∧ p.ticket = some (n, c) := by
  simp [outAs]

/-- The states of a channel at work. -/
theorem atWork_iff (st : ChannelState) : st.atWork = true ↔ st = .running ∨ st = .draining ∨ st = .held := by
  cases st <;> simp [ChannelState.atWork]

/-- The first index that passes. -/
theorem findIdx_first {α} (l : List α) (f : α → Bool) (i : Nat) (p : α) (h1 : l[i]? = some p) (h2 : f p = true) (h3 :
    ∀ j q, j < i → l[j]? = some q → f q = false) : l.findIdx? f = some i := by
  rw [List.findIdx?_eq_some_iff_getElem]
  obtain ⟨hi, rfl⟩ := List.getElem?_eq_some_iff.1 h1
  refine ⟨hi, h2, fun j hj => ?_⟩
  have := h3 j l[j] hj (List.getElem?_eq_getElem (by omega))
  simp [this]

/-- The placement that a report of a channel at work resolves. -/
theorem findAtWork_of {s : State} {c : Fin 4} {slot : Nat} {g : Hide} {i n : Nat} {p : Placement} (hw :
    (s.chan c).state = .running ∨ (s.chan c).state = .draining ∨ (s.chan c).state = .held)
  (h1 : (s.chan c).hide = some slot) (h2 : s.hide slot = some g) (hp : g.placements[i]? = some p) (ho : p.state =
  .ticketed ∧ p.ticket = some (n, c))
  (hf : ∀ j q, j < i → g.placements[j]? = some q → ¬ (q.state = .ticketed ∧ q.ticket = some (n, c))) :
  s.findAtWork c n = some (slot, i) := by
  unfold State.findAtWork State.findOut
  rw [if_pos ((atWork_iff _).2 hw), assigned_of h1 h2]
  have := findIdx_first g.placements (outAs c n) i p hp ((outAs_iff c n p).2 ho) (fun j q hj hq => by
    rw [← Bool.not_eq_true, outAs_iff]; exact hf j q hj hq)
  simp [this]

/-- A report that resolves none. -/
theorem findAtWork_none {s : State} {c : Fin 4} {n : Nat} 
  (h : ¬ ((s.chan c).state = .running ∨ (s.chan c).state = .draining ∨ (s.chan c).state = .held) ∨ (s.chan c).hide =
  none ∨
        ∃ slot g, (s.chan c).hide = some slot ∧ s.hide slot = some g ∧ ∀ p ∈ g.placements, ¬ (p.state = .ticketed ∧
        p.ticket = some (n, c))) : s.findAtWork c n = none := by
  unfold State.findAtWork State.findOut
  rcases h with h | h | ⟨slot, g, h1, h2, h3⟩
  · rw [if_neg (by rw [atWork_iff]; exact h)]
  · split
    · simp [State.assigned, h]
    · rfl
  · split
    · rw [assigned_of h1 h2]
      simp only [Option.bind_some, Option.map_eq_none_iff, List.findIdx?_eq_none_iff]
      intro p hp
      rw [← Bool.not_eq_true, outAs_iff]; exact h3 p hp
    · rfl

/-- The slot of a ticket still out. -/
theorem findTicket_of {s : State} {c : Fin 4} {slot : Nat} {g : Hide} {t : TicketRef} {p : Placement}
    (hw : (s.chan c).state = .running ∨ (s.chan c).state = .draining ∨ (s.chan c).state = .held)
    (h1 : (s.chan c).hide = some slot) (h2 : s.hide slot = some g) (hp : g.placements[t.index]? = some p)
    (ho : p.state = .ticketed ∧ p.ticket = some (t.number, c)) : s.findTicket c t = some slot := by
  unfold State.findTicket
  rw [if_pos ((atWork_iff _).2 hw), assigned_of h1 h2]
  simp [hp, (outAs_iff c t.number p).2 ho]

/-- A ticket that is out no longer, or whose channel is not at work. -/
theorem findTicket_none {s : State} {c : Fin 4} {slot : Nat} {g : Hide} {t : TicketRef}
    (h1 : (s.chan c).hide = some slot) (h2 : s.hide slot = some g)
    (h : (s.chan c).state = .aborting ∨ ∀ p, g.placements[t.index]? = some p →
      ¬ (p.state = .ticketed ∧ p.ticket = some (t.number, c))) : s.findTicket c t = none := by
  unfold State.findTicket
  split
  · next hw =>
    rcases h with h | h
    · rw [h] at hw; cases hw
    · rw [assigned_of h1 h2]
      cases hp : g.placements[t.index]? with
      | none => simp [hp]
      | some p =>
        have : outAs c t.number p = false := by rw [← Bool.not_eq_true, outAs_iff]; exact h p hp
        simp [hp, this]
  · rfl

/-- A placement of a live hide. -/
theorem placement_of {s : State} {slot i : Nat} {g : Hide} {p : Placement} (h2 : s.hide slot = some g) (hp :
    g.placements[i]? = some p) : s.placement slot i = some p := by
  simp [State.placement, h2, hp]

/-! ### A hide given back -/

/-- Letting a hide go writes no channel. -/
theorem letGo_chan (s : State) (c d : Fin 4) : (s.letGo c).chan d = s.chan d := by
  unfold State.chan; rw [letGo_chans]

/-- A hide with a PLACED placement joins the waiting list. -/
theorem giveBack_placed {u : State} {slot : Nat} {k : Hide} (hk : u.hide slot = some k) (hp : k.anyPlaced = true) :
   u.giveBack slot = (State.joinWaiting slot (u.putHide slot { k with state := .dispatchWait, channel :=
   none })).raise (.hide slot .redispatch) := by
  unfold State.giveBack
  rw [hk]; simp only [Option.any_some, hp, if_true]; rw [modHide_some _ hk]

/-- A hide without one is DONE. -/
theorem giveBack_none {u : State} {slot : Nat} {k : Hide} (hk : u.hide slot = some k) (hp : k.anyPlaced = false) :
   u.giveBack slot = (u.putHide slot { k with state := .done, channel := none }).raise (.hide slot .hideDone) := by
  unfold State.giveBack
  rw [hk]; simp only [Option.any_some, hp, Bool.false_eq_true, if_false, State.makeDone]; rw [modHide_some _ hk]

/-- Where no placement has a struck partner or a marker, the return checks change nothing. -/
theorem returnChecks_none (slot : Nat) (is : List Nat) (s : State)
   (h : ∀ i ∈ is, ∀ p, s.placement slot i = some p → s.partnerStruck slot p = false ∧ p.marker = false) :
   s.returnChecks slot is = s := by
  have key : is.foldl (returnCheck slot) ⟨s, 0, [], []⟩ = ⟨s, 0, [], []⟩ := by
    induction is with
    | nil => rfl
    | cons i t ih =>
      have : returnCheck slot ⟨s, 0, [], []⟩ i = ⟨s, 0, [], []⟩ := by
        unfold returnCheck
        cases hp : s.placement slot i with
        | none => rfl
        | some p =>
          obtain ⟨a, b⟩ := h i List.mem_cons_self p hp
          simp [a, b]
      rw [List.foldl_cons, this]
      exact ih (fun i hi => h i (List.mem_cons_of_mem _ hi))
  unfold State.returnChecks
  rw [key]
  have : ∀ n cols, Sweep.rounds slot cols n ⟨s, 0, [], []⟩ = ⟨s, 0, [], []⟩ := by
    intro n cols; cases n <;> rfl
  rw [this]

end Sys2Proof.Laws
end

