-- ==== Sys2Proof/Laws/Joined.lean ====
section
/-! SUPPORT. The records that name one another (State.joined): grants, settling, discards and faults keep them. -/

set_option linter.unusedSectionVars false
set_option linter.unusedSimpArgs false
set_option linter.unusedVariables false

namespace Sys2Proof.Laws

open Sys2Proof.Machine

/-- A hide's core. -/
def coreOf (h : Hide) : Core := ⟨h.state, h.release, h.channel, h.route⟩

/-- The joint of a state. -/
def jointOf (s : State) : Joint where
  hide j := (s.hide j).map coreOf
  waiting := s.arbiter.waiting
  released := s.hides.released
  chanState c := (s.chan c).state
  chanHide c := (s.chan c).hide
  queue := s.engine.queue.map QueueEntry.slot
  pass := s.engine.pass.map Pass.slot

/-- A hide's release number, by the joint. -/
theorem joint_number (s : State) (j : Nat) : (jointOf s).number j = s.numberOf j := by
  unfold Joint.number State.numberOf State.releaseOf jointOf
  show (((((s.hide j).map coreOf).bind Core.release).map Release.number).getD 0) = _
  cases s.hide j <;> simp [coreOf]

/-- At pass end the stack is empty. -/
def Drained (s : State) : Prop := ∀ p, s.engine.pass = some p → p.phase = .passEnd → p.stack = []

/-- All but what unitOf channel holds. -/
structure JointBut (x : Option (Fin 4)) (s : State) : Prop where
  ok : (jointOf s).Ok x
  dr : Drained s
  pl : ∀ slot h, s.hide slot = some h → h.placementsJoined

/-- A hide is in a pass by its core alone. -/
theorem inPass_iff (h : Hide) : h.inPass = true ↔ (coreOf h).inPass := by
  simp [Hide.inPass, Core.inPass, coreOf]

/-- The records are joined: the condition of this file, no channel left out. -/
theorem joined_iff (s : State) : s.joined ↔ JointBut none s := by
  have hex : ∀ (slot : Nat) (P : Core → Prop), (∃ k, (jointOf s).hide slot = some k ∧ P k) ↔ ∃ h, s.hide slot = some h
    ∧ P (coreOf h) := by
    intro slot P
    simp only [jointOf, Option.map_eq_some_iff]
    constructor
    · rintro ⟨_, ⟨h, hh, rfl⟩, hp⟩; exact ⟨h, hh, hp⟩
    · rintro ⟨h, hh, hp⟩; exact ⟨_, ⟨h, hh, rfl⟩, hp⟩
  have hin : ∀ h : Hide, h.inPass = true ↔ (coreOf h).inPass := inPass_iff
  constructor
  · rintro ⟨⟨w1, w2⟩, ⟨r1, r2, r3⟩, ⟨c1, c2, c3⟩, ⟨e1, e2, e3, e4⟩, hp⟩
    refine ⟨⟨fun slot => ?_, ?_, ?_, ?_, ?_, fun c _ => c1 c, fun c slot _ => ?_, (fun c slot k h => by cases h), ?_,
      ?_, ?_, e1, fun slot => ?_, fun slot => ?_⟩, e4, hp⟩
    · rw [hex slot (fun k => k.state = .dispatchWait)]; exact w1 slot
    · simp only [joint_number]; exact w2
    · intro slot k r hk hr
      simp only [jointOf, Option.map_eq_some_iff] at hk; obtain ⟨h, hh, rfl⟩ := hk; exact r1 slot h r hh hr
    · intro a b k l q r hk hl hq hr
      simp only [jointOf, Option.map_eq_some_iff] at hk hl; obtain ⟨h, hh, rfl⟩ := hk; obtain ⟨g, hg, rfl⟩ := hl
      exact r2 a b h g q r hh hg hq hr
    · intro slot k hk
      simp only [jointOf, Option.map_eq_some_iff] at hk; obtain ⟨h, hh, rfl⟩ := hk; exact r3 slot h hh
    · rw [hex slot (fun k => k.channel = some c)]; exact c2 c slot
    · intro slot k hk
      simp only [jointOf, Option.map_eq_some_iff] at hk; obtain ⟨h, hh, rfl⟩ := hk; exact (c3 slot h hh).1
    · intro slot k hk
      simp only [jointOf, Option.map_eq_some_iff] at hk; obtain ⟨h, hh, rfl⟩ := hk; exact (c3 slot h hh).2.1
    · intro slot k c hk
      simp only [jointOf, Option.map_eq_some_iff] at hk; obtain ⟨h, hh, rfl⟩ := hk; exact (c3 slot h hh).2.2 c
    · rw [hex slot (fun k => k.state = .nestWait)]; exact e2 slot
    · rw [hex slot (fun k => k.inPass)]; have := e3 slot; simp only [hin] at this; exact this
  · rintro ⟨⟨w1, w2, r1, r2, r3, c1, c2, _, c3, c4, c5, e1, e2, e3⟩, e4, hp⟩
    refine ⟨⟨fun slot => ?_, ?_⟩, ⟨?_, ?_, ?_⟩, ⟨fun c => c1 c (by simp), fun c slot => ?_, fun slot h hh =>
      ⟨?_, ?_, fun c => ?_⟩⟩, ⟨e1, fun slot => ?_, fun slot => ?_, e4⟩, hp⟩
    · have := w1 slot; rw [hex slot (fun k => k.state = .dispatchWait)] at this; exact this
    · simp only [joint_number] at w2; exact w2
    · intro slot h r hh; exact r1 slot (coreOf h) r (by simp [jointOf, hh])
    · intro a b h g q r hh hg; exact r2 a b (coreOf h) (coreOf g) q r (by simp [jointOf, hh]) (by simp [jointOf, hg])
    · intro slot h hh; exact r3 slot (coreOf h) (by simp [jointOf, hh])
    · have := c2 c slot (by simp); rw [hex slot (fun k => k.channel = some c)] at this; exact this
    · exact c3 slot (coreOf h) (by simp [jointOf, hh])
    · exact c4 slot (coreOf h) (by simp [jointOf, hh])
    · exact c5 slot (coreOf h) c (by simp [jointOf, hh])
    · have := e2 slot; rw [hex slot (fun k => k.state = .nestWait)] at this; exact this
    · have := e3 slot; rw [hex slot (fun k => k.inPass)] at this; simp only [hin]; exact this

variable {x : Option (Fin 4)} {s t : State}

/-- Nothing of it changes. -/
theorem jb_same (h1 : t.hides = s.hides) (h2 : t.arbiter.waiting = s.arbiter.waiting) (h3 : t.chans = s.chans)
    (h4 : t.engine = s.engine) (h : JointBut x s) : JointBut x t := by
  have hh : ∀ j, t.hide j = s.hide j := fun j => by unfold State.hide; rw [h1]
  refine ⟨Joint.ok_same (v := jointOf s) ?_ h2 ?_ ?_ ?_ ?_ ?_ h.ok,
    by unfold Drained; rw [h4]; exact h.dr, fun slot g hg => h.pl slot g (by rw [← hh]; exact hg)⟩
  · funext j; simp [jointOf, hh]
  · simp [jointOf, h1]
  · funext c; simp [jointOf, State.chan, h3]
  · funext c; simp [jointOf, State.chan, h3]
  · simp [jointOf, h4]
  · simp [jointOf, h4]

/-- One hide written: what it does to the joint. -/
theorem rest_modHide {slot : Nat} {g : Hide} (f : Hide → Hide) (hg : s.hide slot = some g) : Joint.Rest (jointOf s)
    (jointOf (s.modHide slot f)) slot (some (coreOf (f g))) := by
  refine ⟨fun j => ?_, ?_⟩
  · simp only [jointOf, hide_modHide]
    split
    · next h => subst h; rw [hg]; rfl
    · rfl
  · rw [modHide_some _ hg]; rfl

/-- The hides' placements after unitOf hide is written. -/
theorem pl_modHide {slot : Nat} {f : Hide → Hide} (h : ∀ slot h, s.hide slot = some h → h.placementsJoined)
    (hf : ∀ g, s.hide slot = some g → (f g).placementsJoined) :
    ∀ j k, (s.modHide slot f).hide j = some k → k.placementsJoined := by
  intro j k hk
  rw [hide_modHide] at hk
  split at hk
  · next e => rw [e, Option.map_eq_some_iff] at hk; obtain ⟨g, hg, rfl⟩ := hk; exact hf g hg
  · exact h j k hk

/-- A write that keeps the core. -/
theorem jb_keep {slot : Nat} {f : Hide → Hide} (hf : ∀ g, s.hide slot = some g → coreOf (f g) = coreOf g)
    (hp : ∀ g, s.hide slot = some g → g.placementsJoined → (f g).placementsJoined) (h : JointBut x s) : JointBut x
    (s.modHide slot f) := by
  refine ⟨Joint.ok_same (v := jointOf s) ?_ ?_ ?_ ?_ ?_ ?_ ?_ h.ok, ?_, pl_modHide h.pl fun g hg => hp g hg
    (h.pl slot g hg)⟩
  · funext j
    simp only [jointOf, hide_modHide]
    split
    · next e =>
      rw [e]
      cases hg : s.hide slot with
      | none => rfl
      | some g => simp only [Option.map_some]; rw [hf g hg]
    · rfl
  all_goals simp [jointOf, Drained, State.chan]
  exact h.dr

/-- Only the state, the channel and the placements matter. -/
theorem placementsJoined_same {g k : Hide} (h1 : k.state = g.state) (h2 : k.channel = g.channel)
    (h3 : k.placements = g.placements) (h : g.placementsJoined) : k.placementsJoined := by
  unfold Hide.placementsJoined Hide.anyPlaced at *; rw [h1, h2, h3]; exact h

/-- One placement changed: a state as before, or unitOf that is neither PLACED nor TICKETED. -/
theorem jb_modPlacement {slot i : Nat} {f : Placement → Placement}
    (hf : ∀ p, ((f p).state = p.state ∧ (f p).ticket = p.ticket) ∨ ((f p).state ≠ .ticketed ∧ (f p).state ≠ .placed))
      (h : JointBut x s) : JointBut x (s.modPlacement slot i f) := by
  refine jb_keep (fun g _ => rfl) (fun g _ hp => ?_) h
  unfold Hide.placementsJoined Hide.anyPlaced at *
  simp only
  have hm : ∀ p ∈ g.placements.modify i f, ∃ q ∈ g.placements, p = q ∨ p = f q := by
    intro p hp
    obtain ⟨j, hj, rfl⟩ := List.getElem_of_mem hp
    rw [List.getElem_modify]
    have hj' : j < g.placements.length := by simpa using hj
    refine ⟨g.placements[j], List.getElem_mem _, ?_⟩
    split
    · exact .inr rfl
    · exact .inl rfl
  refine ⟨fun p hpm ht => ?_, fun hd => ?_⟩
  · obtain ⟨q, hq, rfl | rfl⟩ := hm p hpm
    · exact hp.1 p hq ht
    · rcases hf q with ⟨a, b⟩ | ⟨a, b⟩
      · rw [b]; exact hp.1 q hq (a ▸ ht)
      · exact absurd ht a
  · have := hp.2 hd
    rw [List.any_eq_false] at this ⊢
    intro p hpm
    obtain ⟨q, hq, rfl | rfl⟩ := hm p hpm
    · exact this p hq
    · rcases hf q with ⟨a, b⟩ | ⟨a, b⟩
      · have := this q hq; simpa [a] using this
      · simpa using b

/-- One strike. -/
theorem jb_strikeOne (s : State) (slot i : Nat) (h : JointBut x s) : JointBut x (s.strikeOne slot i) := by
  unfold State.strikeOne
  split
  · exact h
  · split
    · refine jb_same ?_ ?_ ?_ ?_ (jb_modPlacement (s := s) (slot := slot) (i := i)
        (f := fun q => { q with state := .struck }) (fun p => .inr ⟨by simp, by simp⟩) h)
      all_goals simp [unmarkCover_hides]
    · exact h

/-- What every command does beside its own effect keeps the records joined. -/
theorem steady_jb : Steady (JointBut x) where
  tape := fun s _ h => jb_same (s := s) rfl rfl rfl rfl h
  links := fun s _ h => jb_same (s := s) rfl rfl rfl rfl h
  sent := fun s _ h => jb_same (s := s) rfl rfl rfl rfl h
  pending := fun s _ h => jb_same (s := s) rfl rfl rfl rfl h
  attn := fun s _ _ h => jb_same (s := s) rfl rfl rfl rfl h
  throttle := fun s _ h => jb_same (s := s) rfl rfl rfl rfl h
  corrected := fun s _ h => jb_same (s := s) rfl rfl rfl rfl h
  contents := fun s _ _ h => jb_same (s := s) rfl rfl rfl rfl h
  covers := fun s _ _ h => jb_same (s := s) rfl rfl rfl rfl h
  note := fun s slot f hf h => jb_keep (fun g _ => by obtain ⟨a, b, c, d, e, f', g'⟩ := hf g; simp [coreOf, *])
    (fun g _ hp => placementsJoined_same (hf g).1 (hf g).2.2.2.2.2.1 (hf g).2.2.2.1 hp) h
  strikeOne := fun s slot i h => jb_strikeOne s slot i h
  marker := fun s slot i b h => jb_modPlacement (fun p => .inl ⟨rfl, rfl⟩) h

/-- A hide in a joint. -/
theorem joint_hide {slot : Nat} {g : Hide} (hg : s.hide slot = some g) : (jointOf s).hide slot = some (coreOf g) := by
  show (s.hide slot).map coreOf = _; rw [hg]; rfl

/-- What the channels of a hide say. -/
theorem jb_channel {slot : Nat} {g : Hide} (h : JointBut x s) (hg : s.hide slot = some g) :
    (g.channel ≠ none ↔ g.state = .cutting ∨ g.route = some .channel) ∧ (g.route ≠ none ↔ g.state = .discarding) :=
  ⟨h.ok.channel slot _ (joint_hide hg), h.ok.route slot _ (joint_hide hg)⟩

/-- A hide that is neither CUTTING nor DISCARDING has no channel and no route. -/
theorem no_channel {slot : Nat} {g : Hide} (h : JointBut x s) (hg : s.hide slot = some g) (h1 : g.state ≠ .cutting)
    (h2 : g.state ≠ .discarding) : g.channel = none ∧ g.route = none := by
  obtain ⟨a, b⟩ := jb_channel h hg
  have hr : g.route = none := by by_contra hn; exact h2 (b.1 hn)
  refine ⟨?_, hr⟩
  by_contra hn
  rcases a.1 hn with e | e
  · exact h1 e
  · rw [hr] at e; cases e

/-- A hide without a channel has no TICKETED placement. -/
theorem no_ticket {slot : Nat} {g : Hide} (h : JointBut x s) (hg : s.hide slot = some g) (hc : g.channel = none) :
    ∀ p ∈ g.placements, p.state ≠ .ticketed := by
  intro p hp ht
  obtain ⟨n, c, _, e⟩ := (h.pl slot g hg).1 p hp ht
  rw [hc] at e; cases e

/-- No TICKETED placement, and none PLACED where the hide is DONE. -/
theorem pj_none {g : Hide} (h : ∀ p ∈ g.placements, p.state ≠ .ticketed)
    (hd : g.state = .done → g.anyPlaced = false) : g.placementsJoined :=
  ⟨fun p hp ht => absurd ht (h p hp), hd⟩

/-- A write of a hide alone. -/
theorem drained_hides (h1 : t.engine = s.engine) (h : Drained s) : Drained t := by unfold Drained; rw [h1]; exact h

/-- A hide that no list, channel or pass names, written with a state of the same kind. -/
theorem jb_idle {slot : Nat} {f : Hide → Hide}
    (hf : ∀ g, s.hide slot = some g → Joint.Idle (coreOf g) ∧ Joint.Idle (coreOf (f g)) ∧ (f g).release = g.release ∧
    (f g).placementsJoined) (h : JointBut x s) : JointBut x (s.modHide slot f) := by
  cases hg : s.hide slot with
  | none => rw [modHide_none _ hg]; exact h
  | some g =>
    obtain ⟨a, b, c, d⟩ := hf g hg
    refine ⟨Joint.ok_idle (rest_modHide f hg) ?_ ?_ ?_ ?_ ?_ (joint_hide hg) a b c h.ok, drained_hides (by simp) h.dr,
      pl_modHide h.pl fun k hk => by rw [hg] at hk; cases hk; exact d⟩
    all_goals simp [jointOf, State.chan]

/-- A grant. -/
theorem jb_grant {slot : Nat} {c : Fin 4} {n : Nat} (hw : slot ∈ s.arbiter.waiting) (hc : (s.chan c).state = .idle)
    (h : JointBut none s) : JointBut none (s.grant slot c n) := by
  obtain ⟨k, hk, hs⟩ := (h.ok.wait slot).1 hw
  obtain ⟨g, hg, rfl⟩ := Option.map_eq_some_iff.1 hk
  have hs' : g.state = .dispatchWait := hs
  obtain ⟨hch, _⟩ := no_channel h hg (by rw [hs']; decide) (by rw [hs']; decide)
  have hh : ∀ j, (s.grant slot c n).hide j = (s.modHide slot fun h =>
    { h with state := .cutting, channel := some c }).hide j := by
    intro j; unfold State.hide; rw [grant_hides]
  have hr := rest_modHide (s := s) (fun h => { h with state := .cutting, channel := some c }) hg
  refine ⟨Joint.ok_grant (c := c) (slot := slot) ⟨fun j => ?_, ?_⟩ ?_ ?_ ?_ ?_ ?_ hk hs hc h.ok, drained_hides
    (by simp) h.dr, ?_⟩
  · show ((s.grant slot c n).hide j).map coreOf = _
    rw [hh]; exact hr.hide j
  · show (s.grant slot c n).hides.released = _
    rw [grant_hides, modHide_some _ hg]; rfl
  · simp [jointOf, grant_arbiter]
  · intro d; exact grant_chanState s slot c n d
  · intro d; show ((s.grant slot c n).chan d).hide = _
    rw [chan_grant]; split <;> rfl
  · simp [jointOf]
  · simp [jointOf]
  · intro j k hk
    rw [hh] at hk
    exact pl_modHide h.pl (fun k hk =>
      by rw [hg] at hk; cases hk; exact pj_none (fun p hp => no_ticket h hg hch p hp) (by simp)) j k hk

/-- The evaluation. -/
theorem jb_evaluate (s : State) (h : JointBut none s) : JointBut none s.evaluate := by
  refine evaluate_keeps (P := JointBut none) (fun s t h ht => ?_) s h
  obtain ⟨_, slot, c, n, hw, hc, rfl, _⟩ := nextGrant_facts ht
  exact jb_grant hw hc h

/-- A write of a channel that keeps its kind and its hide. -/
theorem jb_chan {c : Fin 4} {f : Channel → Channel}
    (hb : (f (s.chan c)).state.busy = (s.chan c).state.busy ∧
    ((f (s.chan c)).state = .aborting ↔ (s.chan c).state = .aborting))
    (hh : (f (s.chan c)).hide = (s.chan c).hide) (h : JointBut x s) : JointBut x (s.modChan c f) := by
  refine ⟨Joint.ok_chan (v := jointOf s) ?_ ?_ ?_ ?_ ?_ ?_ (fun d => ?_) h.ok, drained_hides (by simp) h.dr, fun slot
    g hg => h.pl slot g (by simpa using hg)⟩
  · funext j; simp [jointOf]
  · simp [jointOf]
  · simp [jointOf]
  · funext d; simp only [jointOf, chan_modChan]; split
    · next e => rw [e]; exact hh
    · rfl
  · simp [jointOf]
  · simp [jointOf]
  · simp only [jointOf, chan_modChan]
    split
    · next e => rw [e]; exact hb
    · exact ⟨rfl, Iff.rfl⟩

/-- The channel that let its hide go comes to rest. -/
theorem jb_rest {c : Fin 4} {f : Channel → Channel} (hb : (f (s.chan c)).state.busy = false)
    (hh : (f (s.chan c)).hide = none) (h : JointBut (some c) s) : JointBut none (s.modChan c f) := by
  refine ⟨Joint.ok_rest (v := jointOf s) (c := c) ?_ ?_ ?_ (fun d hd => ?_) (fun d => ?_) ?_ ?_ ?_ h.ok, drained_hides
    (by simp) h.dr, fun slot g hg => h.pl slot g (by simpa using hg)⟩
  · funext j; simp [jointOf]
  · simp [jointOf]
  · simp [jointOf]
  · simp only [jointOf, chan_modChan, if_neg hd]
  · simp only [jointOf, chan_modChan]; split
    · next e => rw [e]; exact hh
    · rfl
  · simp [jointOf]
  · simp [jointOf]
  · simp only [jointOf, chan_modChan, if_true]; exact hb

/-- A hide leaves its channel. -/
theorem jb_leave {c : Fin 4} (hc : (s.chan c).hide = none) (h : JointBut none s) :
    JointBut (some c) s := ⟨Joint.ok_leave hc h.ok, h.dr, h.pl⟩

/-- A waiting hide without placements to cut is DONE. -/
theorem jb_doneWaiting {slot : Nat} {g : Hide} (hg : s.hide slot = some g) (hs : g.state = .dispatchWait)
    (hp : g.anyPlaced = false) (h : JointBut x s) : JointBut x ((s.leaveWaiting slot).makeDone slot) := by
  obtain ⟨hch, _⟩ := no_channel h hg (by rw [hs]; decide) (by rw [hs]; decide)
  unfold State.makeDone
  refine steady_jb.raise _ _ ?_
  have hg' : (s.leaveWaiting slot).hide slot = some g := hg
  refine ⟨Joint.ok_doneWaiting (v := jointOf s) (slot := slot) (k := coreOf g) ?_ ?_ ?_ ?_ ?_ ?_ (joint_hide hg) hs
    h.ok, drained_hides (by simp) h.dr, ?_⟩
  · have := rest_modHide (s := s.leaveWaiting slot) (fun h => { h with state := .done, channel := none }) hg'
    exact ⟨this.hide, this.released⟩
  · simp [jointOf, State.leaveWaiting]
  · funext c; simp [jointOf, State.chan]
  · funext c; simp [jointOf, State.chan]
  · simp [jointOf]
  · simp [jointOf]
  · exact pl_modHide (s := s.leaveWaiting slot) h.pl fun k hk => by
      rw [hg'] at hk; cases hk
      exact pj_none (fun p hp => no_ticket h hg hch p hp) (fun _ => hp)

/-- A hide on a channel without placements to cut is DONE. -/
theorem jb_doneCutting {slot : Nat} {g : Hide} {c : Fin 4} (hg : s.hide slot = some g) (hs : g.state = .cutting)
    (hc : g.channel = some c) (hp : g.anyPlaced = false) (ht : ∀ p ∈ g.placements, p.state ≠ .ticketed)
    (h : JointBut none s) : JointBut (some c) (s.makeDone slot) := by
  unfold State.makeDone
  refine steady_jb.raise _ _ ?_
  refine ⟨Joint.ok_doneCutting (v := jointOf s) (slot := slot) (k := coreOf g) (rest_modHide _ hg) ?_ ?_ ?_ ?_ ?_
    (joint_hide hg) hs hc h.ok, drained_hides (by simp) h.dr, ?_⟩
  · simp [jointOf]
  · funext c; simp [jointOf, State.chan]
  · funext c; simp [jointOf, State.chan]
  · simp [jointOf]
  · simp [jointOf]
  · exact pl_modHide h.pl fun k hk => by
      rw [hg] at hk; cases hk
      exact pj_none (fun p hp => ht p hp) (fun _ => hp)

/-- The waiting list's insertion, by release numbers. -/
theorem insertWaiting_eq (s : State) (slot : Nat) (l : List Nat) :
    s.insertWaiting slot l = Joint.insertBy s.numberOf slot l := by
  induction l with
  | nil => rfl
  | cons a t ih => simp only [State.insertWaiting, Joint.insertBy, ih]

/-- A hide on a channel given to the waiting list. -/
theorem jb_back {slot : Nat} {g : Hide} {c : Fin 4} (hg : s.hide slot = some g) (hs : g.state = .cutting)
    (hc : g.channel = some c) (ht : ∀ p ∈ g.placements, p.state ≠ .ticketed) (h : JointBut none s) :
    JointBut (some c) ((s.modHide slot fun h => { h with state := .dispatchWait, channel := none }).joinWaiting
      slot) := by
  have hr := rest_modHide (s := s) (fun h => { h with state := .dispatchWait, channel := none }) hg
  refine ⟨Joint.ok_giveBack (v := jointOf s) (slot := slot) (k := coreOf g) ⟨hr.hide, hr.released⟩ ?_ ?_ ?_ ?_ ?_
    (joint_hide hg) hs hc h.ok, drained_hides (by simp) h.dr, ?_⟩
  · show (State.joinWaiting slot _).arbiter.waiting = _
    unfold State.joinWaiting
    simp only [insertWaiting_eq, modHide_arbiter]
    congr 1
    funext j
    rw [joint_number]; rfl
  · funext c; simp [jointOf, State.chan]
  · funext c; simp [jointOf, State.chan]
  · simp [jointOf]
  · simp [jointOf]
  · exact pl_modHide h.pl fun k hk => by
      rw [hg] at hk; cases hk
      exact pj_none (fun p hp => ht p hp) (by simp)

/-- RELEASE. -/
theorem jb_release {slot : Nat} {g : Hide} {u : Urgency} {m : Byte} (hg : s.hide slot = some g)
    (hs : g.state = .nested) (h : JointBut none s) :
    JointBut none ((State.putHide { s with hides := { s.hides with released := s.hides.released + 1 } } slot
      { g with state := .dispatchWait, release := some ⟨s.hides.released + 1, u, m⟩ }).joinWaiting slot) := by
  obtain ⟨hch, hrt⟩ := no_channel h hg (by rw [hs]; decide) (by rw [hs]; decide)
  generalize hk : ({ g with state := .dispatchWait, release := some ⟨s.hides.released + 1, u, m⟩ } : Hide) = k
  have hh : ∀ j, (State.putHide { s with hides := { s.hides with released := s.hides.released + 1 } } slot k).hide j =
    if j = slot then some k else s.hide j := by
    intro j
    split
    · next e => subst e; exact hide_putHide_self _ _ _
    · next e => exact hide_putHide_other _ _ e
  refine ⟨Joint.ok_release (v := jointOf s) (slot := slot) (k := coreOf g) (r := ⟨s.hides.released + 1, u, m⟩)
    (fun j => ?_) rfl rfl ?_ ?_ ?_ ?_ ?_ (joint_hide hg) ⟨hch, hrt, .inr (.inr (.inr (.inl hs)))⟩ h.ok, drained_hides
    (by simp) h.dr, ?_⟩
  · show ((State.putHide { s with hides := { s.hides with released := s.hides.released + 1 } } slot k).hide j).map
      coreOf = _
    rw [hh]; split
    · rw [← hk]; rfl
    · rfl
  · show (State.joinWaiting slot _).arbiter.waiting = _
    unfold State.joinWaiting
    simp only [insertWaiting_eq]
    congr 1
    funext j
    rw [joint_number]; rfl
  · rfl
  · rfl
  · rfl
  · rfl
  · intro j l hl
    have hl' : (State.putHide { s with hides := { s.hides with released := s.hides.released + 1 } } slot k).hide j =
      some l := hl
    rw [hh] at hl'
    split at hl'
    · cases hl'; rw [← hk]; exact pj_none (fun p hp => no_ticket h hg hch p hp) (by simp)
    · exact h.pl j l hl'

/-- Some placement is TICKETED. -/
theorem anyTicketed_iff (g : Hide) : g.anyTicketed = false ↔ ∀ p ∈ g.placements, p.state ≠ .ticketed := by
  simp [Hide.anyTicketed]

/-- The settling of a hide. -/
theorem jb_settle (s : State) (slot : Nat) (h : JointBut none s) : JointBut none (s.settle slot) := by
  unfold State.settle
  split
  · exact h
  · next g hg =>
    split
    · next hs =>
      split
      · exact h
      · next hp => exact jb_doneWaiting hg hs (by simpa using hp) h
    · next hs =>
      split
      · exact h
      · next c hc =>
        split
        · refine jb_chan ?_ rfl h
          show (State.workState g.anyPlaced (s.chan c).state).busy = _ ∧
            (State.workState g.anyPlaced (s.chan c).state = _ ↔ _)
          generalize g.anyPlaced = b
          generalize (s.chan c).state = st
          cases b <;> cases st <;> decide
        · next hp =>
          simp only [Bool.or_eq_true, not_or, Bool.not_eq_true] at hp
          refine jb_evaluate _ ?_
          have h1 := jb_doneCutting hg hs hc hp.1 ((anyTicketed_iff g).1 hp.2) h
          refine jb_same ?_ ?_ ?_ ?_ (jb_rest (f := fun ch => { ch with state := .idle, hide := none }) (by rfl) rfl h1)
          · have hg' : (s.modChan c fun ch => { ch with state := .idle, hide := none }).hide slot = some g := hg
            simp only [State.makeDone, raise_hides, modChan_hides]
            rw [modHide_some _ hg', modHide_some _ hg]; rfl
          · simp [State.makeDone]
          · simp [State.makeDone, State.modChan, State.putChan, State.chan]
          · simp [State.makeDone]
    · exact h

/-- A poisoned tile handed to its hide. -/
theorem jb_handPoison (s : State) (slot tile : Nat) (h : JointBut none s) : JointBut none (s.handPoison slot tile) := by
  unfold State.handPoison
  split
  · exact h
  · next g hg =>
    (repeat' split) <;> first
      | exact h
      | exact jb_settle _ _ (steady_jb.sweepTile _ _ _ h)
      | (rw [← modHide_some (fun k : Hide => { k with deferredPoison := insertNat tile k.deferredPoison }) hg]
         exact steady_jb.note _ _ _ (fun _ => ⟨rfl, rfl, rfl, rfl, rfl, rfl, rfl⟩) h)

/-- A newly poisoned tile, where there is unitOf. -/
theorem jb_handFresh (s : State) (slot : Nat) (fresh : Option Nat) (h : JointBut none s) :
    JointBut none (s.handFresh slot fresh) := by
  unfold State.handFresh
  split
  · exact h
  · exact jb_handPoison _ _ _ h

/-- A channel entering service. -/
theorem jb_enterService (s : State) (c : Fin 4) (h : JointBut none s) : JointBut none (s.enterService c) := by
  unfold State.enterService
  split
  · next hc => exact jb_evaluate _ (jb_chan (by rw [hc.1]; simp [ChannelState.busy, ChannelState.atWork]) rfl h)
  · exact h

/-- The joint reads only these parts. -/
theorem joint_same (h1 : t.hides = s.hides) (h2 : t.arbiter.waiting = s.arbiter.waiting) (h3 : t.chans = s.chans)
    (h4 : t.engine.queue = s.engine.queue) (h5 : t.engine.pass.map Pass.slot = s.engine.pass.map Pass.slot) : jointOf
    t = jointOf s := by
  have hh : ∀ j, t.hide j = s.hide j := fun j => by unfold State.hide; rw [h1]
  unfold jointOf
  simp [hh, h1, h2, h4, h5, State.chan, h3]

/-- A hide written with the same core. -/
theorem joint_modHide {slot : Nat} {f : Hide → Hide} (hf : ∀ g, coreOf (f g) = coreOf g) :
    jointOf (s.modHide slot f) = jointOf s := by
  have : ∀ j, ((s.modHide slot f).hide j).map coreOf = (s.hide j).map coreOf := by
    intro j
    rw [hide_modHide]
    split
    · cases s.hide j <;> simp [hf]
    · rfl
  unfold jointOf
  simp [this, State.chan]

/-- Cover unmarked. -/
theorem joint_unmark (s : State) (a b c d e : Nat) : jointOf (s.unmarkCover a b c d e) = jointOf s :=
  joint_same (by simp) (by simp) (by simp) (by simp) (by simp)
/-- A claim returned. -/
theorem joint_return (s : State) (id : Nat) : jointOf (s.claimReturn id) = jointOf s :=
  joint_same (by simp) (by simp) (by simp) (by simp) (by simp)

/-- withdrawing -/
theorem jb_withdraw (s : State) (slot i : Nat) (h : JointBut x s) :
    JointBut x (State.withdraw slot s i) ∧ jointOf (State.withdraw slot s i) = jointOf s := by
  unfold State.withdraw
  split
  · exact ⟨h, rfl⟩
  · split
    · refine ⟨?_, ?_⟩
      · refine jb_same ?_ ?_ ?_ ?_ (jb_modPlacement (s := s) (slot := slot) (i := i)
          (f := fun q => { q with state := .withdrawn }) (fun p => .inr ⟨by simp, by simp⟩) h)
        all_goals simp
      · rw [joint_return, joint_unmark]; exact joint_modHide fun g => rfl
    · exact ⟨h, rfl⟩

/-- The withdrawal of a hide's placements. -/
theorem jb_withdrawAll (s : State) (slot : Nat) (h : JointBut x s) :
    JointBut x (s.withdrawAll slot) ∧ jointOf (s.withdrawAll slot) = jointOf s := by
  unfold State.withdrawAll
  split
  · exact ⟨h, rfl⟩
  · exact foldl_inv (State.withdraw slot) (fun t => JointBut x t ∧ jointOf t = jointOf s)
      (fun t i ht => ⟨(jb_withdraw t slot i ht.1).1, (jb_withdraw t slot i ht.1).2.trans ht.2⟩) _ _ ⟨h, rfl⟩

/-- A claim returned. -/
theorem jb_claimReturn (s : State) (id : Nat) (h : JointBut x s) : JointBut x (s.claimReturn id) := jb_same (by simp)
    (by simp) (by simp) (by simp) h

/-- One entry popped. -/
theorem jb_popEntry (s : State) (slot : Nat) (e : Entry) (h : JointBut x s) : JointBut x (State.popEntry slot s e) :=
  jb_claimReturn _ _ (steady_jb.unmarkCover _ _ _ _ _ _ h)

/-- One entry popped. -/
theorem joint_popEntry (s : State) (slot : Nat) (e : Entry) : jointOf (State.popEntry slot s e) = jointOf s := by
  unfold State.popEntry; rw [joint_return, joint_unmark]

/-- An engine write that keeps queue and pass, and is drained. -/
theorem jb_engine {e : Engine} (h1 : e.queue = s.engine.queue)
    (h2 : e.pass.map Pass.slot = s.engine.pass.map Pass.slot)
    (hd : ∀ p, e.pass = some p → p.phase = .passEnd → p.stack = []) (h : JointBut x s) : JointBut x
    { s with engine := e } := by
  refine ⟨?_, hd, h.pl⟩
  rw [joint_same (s := s) (t := { s with engine := e }) rfl rfl rfl h1 h2]; exact h.ok

/-- The stack emptied. -/
theorem jb_setStackNil (s : State) (h : JointBut x s) : JointBut x (s.setStack []) := by
  refine jb_engine rfl ?_ ?_ h
  · cases s.engine.pass <;> rfl
  · intro p hp _
    simp only [Option.map_eq_some_iff] at hp
    obtain ⟨q, _, rfl⟩ := hp; rfl

/-- The stack set. -/
theorem joint_setStack (s : State) (l : List Entry) : jointOf (s.setStack l) = jointOf s := by
  refine joint_same (s := s) rfl rfl rfl rfl ?_
  show (s.engine.pass.map _).map Pass.slot = _
  cases s.engine.pass <;> rfl

/-- The whole stack popped. -/
theorem jb_popAll (s : State) (slot : Nat) (h : JointBut x s) :
    JointBut x (s.popAll slot) ∧ jointOf (s.popAll slot) = jointOf s := by
  unfold State.popAll
  split
  · exact ⟨h, rfl⟩
  · have := foldl_inv (State.popEntry slot) (fun t => JointBut x t ∧ jointOf t = jointOf s)
      (fun t i ht => ⟨jb_popEntry t slot i ht.1, (joint_popEntry t slot i).trans ht.2⟩) (s.stackOf slot) s ⟨h, rfl⟩
    exact ⟨jb_setStackNil _ this.1, (joint_setStack _ _).trans this.2⟩

/-- The evaluation at a release of frames changes the Grid Store and the Attention Unit alone. -/
theorem releaseEval_same (u : State) :
    (State.releaseEval u).hides = u.hides ∧ (State.releaseEval u).arbiter = u.arbiter ∧ (State.releaseEval u).chans =
    u.chans ∧ (State.releaseEval u).engine = u.engine := by
  unfold State.releaseEval State.toNormal
  (repeat' split) <;> simp

/-- What a freed slot leaves. -/
theorem freeSlot_same {slot : Nat} {g : Hide} (hg : s.hide slot = some g) :
    (∀ j, (s.freeSlot slot).hide j = if j = slot then none else s.hide j) ∧ (s.freeSlot slot).hides.released =
    s.hides.released ∧ (s.freeSlot slot).arbiter = s.arbiter ∧ (s.freeSlot slot).chans = s.chans ∧
    (s.freeSlot slot).engine = s.engine := by
  rw [freeSlot_eq hg]
  obtain ⟨a, b, c, d⟩ := releaseEval_same { s with
      hides := { s.hides with slots := Tab.del s.hides.slots slot }
      grid := { s.grid with retired := (State.poisonedFrames g).foldl (fun r f => insertNat f r) s.grid.retired } }
  refine ⟨fun j => ?_, by rw [a], by rw [b], by rw [c], by rw [d]⟩
  unfold State.hide
  rw [a]
  split
  · next e => subst e; exact get_del_self _ _
  · next e => exact get_del_other _ e

/-- The end of a discard, by parts: v before the slot is let go. -/
theorem jb_discarded {slot : Nat} {g : Hide} (hg : s.hide slot = some g) (h : JointBut none s) :
    (g.channel = none → g.inPass = false → JointBut none (s.completeDiscard slot)) ∧
    (∀ c, g.channel = some c → g.inPass = false → JointBut (some c) (s.completeDiscard slot)) ∧
    (g.channel = none → g.inPass = true → JointBut none ((s.completeDiscard slot).putPass none)) := by
  obtain ⟨h1, e1⟩ := jb_withdrawAll s slot h
  obtain ⟨h2, e2⟩ := jb_popAll _ slot h1
  have ev := e2.trans e1
  generalize hv : (s.withdrawAll slot).popAll slot = v at h2 ev
  clear h1 e1 e2
  have hk : (jointOf v).hide slot = some (coreOf g) := by rw [ev]; exact joint_hide hg
  obtain ⟨g', hg', hc'⟩ := Option.map_eq_some_iff.1 hk
  have hin : g.inPass = true ↔ (coreOf g).inPass := inPass_iff g
  have hw : ∀ j, ((((v.leaveQueue slot).leaveWaiting slot).freeSlot slot).hide j) = if j = slot then none else v.hide
    j := by
    have := (freeSlot_same (s := (v.leaveQueue slot).leaveWaiting slot) (slot := slot) (g := g') hg').1
    exact this
  obtain ⟨_, f2, f3, f4, f5⟩ := freeSlot_same (s := (v.leaveQueue slot).leaveWaiting slot) (slot := slot) (g := g') hg'
  have hcd : s.completeDiscard slot = ((((v.leaveQueue slot).leaveWaiting slot).freeSlot slot).clearHide slot).raise
    (.hide slot .discardDone) := by rw [← hv]; rfl
  generalize hz : (((v.leaveQueue slot).leaveWaiting slot).freeSlot slot) = z at *
  have hrest : ∀ w : State, w.hides = z.hides → Joint.Rest (jointOf v) (jointOf w) slot none := by
    intro w hwz
    refine ⟨fun j => ?_, ?_⟩
    · show (w.hide j).map coreOf = _
      have : w.hide j = z.hide j := by unfold State.hide; rw [hwz]
      rw [this, hw]; split <;> rfl
    · show w.hides.released = _; rw [hwz, f2]; rfl
  have hpl : ∀ w : State, w.hides = z.hides → ∀ j k, w.hide j = some k → k.placementsJoined := by
    intro w hwz j k hk
    have : w.hide j = z.hide j := by unfold State.hide; rw [hwz]
    rw [this, hw] at hk
    split at hk
    · cases hk
    · exact h2.pl j k hk
  have hq : z.engine.queue.map QueueEntry.slot = (v.engine.queue.map QueueEntry.slot).filter fun j => decide
    (j ≠ slot) := by
    rw [f5, List.filter_map]; rfl
  have hch : g'.channel = g.channel := congrArg Core.channel hc'
  refine ⟨fun hc hi => ?_, fun c hc hi => ?_, fun hc hi => ?_⟩
  · rw [hcd]
    refine steady_jb.raise _ _ (steady_jb.clearHide _ _ ?_)
    refine ⟨Joint.ok_free (hrest z rfl) ?_ ?_ ?_ hq (.inl ⟨?_, ?_⟩) hk (.inl ⟨hc, rfl⟩) h2.ok, ?_, hpl z rfl⟩
    · show z.arbiter.waiting = _; rw [f3]; rfl
    · funext c; show (z.chan c).state = _; unfold State.chan; rw [f4]; rfl
    · funext c; show (z.chan c).hide = _; unfold State.chan; rw [f4]; rfl
    · show z.engine.pass.map Pass.slot = _; rw [f5]; rfl
    · rw [← hin, hi]; simp
    · exact drained_hides f5 h2.dr
  · rw [hcd]
    refine steady_jb.raise _ _ (steady_jb.clearHide _ _ ?_)
    refine ⟨Joint.ok_free (hrest z rfl) ?_ ?_ ?_ hq (.inl ⟨?_, ?_⟩) hk (.inr ⟨hc, rfl⟩) h2.ok, ?_, hpl z rfl⟩
    · show z.arbiter.waiting = _; rw [f3]; rfl
    · funext c; show (z.chan c).state = _; unfold State.chan; rw [f4]; rfl
    · funext c; show (z.chan c).hide = _; unfold State.chan; rw [f4]; rfl
    · show z.engine.pass.map Pass.slot = _; rw [f5]; rfl
    · rw [← hin, hi]; simp
    · exact drained_hides f5 h2.dr
  · have hzz : ((s.completeDiscard slot).putPass none).hides = z.hides := by rw [hcd]; simp [State.putPass]
    have ee : (s.completeDiscard slot).engine = z.engine := by rw [hcd]; simp
    have ea : (s.completeDiscard slot).arbiter = z.arbiter := by rw [hcd]; simp
    have ec : (s.completeDiscard slot).chans = z.chans := by rw [hcd]; simp
    refine ⟨Joint.ok_free (hrest _ hzz) ?_ ?_ ?_ ?_ (.inr ⟨rfl, ?_⟩) hk (.inl ⟨hc, rfl⟩) h2.ok, ?_, hpl _ hzz⟩
    · show (s.completeDiscard slot).arbiter.waiting = _; rw [ea, f3]; rfl
    · funext c; show ((s.completeDiscard slot).chan c).state = _; unfold State.chan; rw [ec, f4]; rfl
    · funext c; show ((s.completeDiscard slot).chan c).hide = _; unfold State.chan; rw [ec, f4]; rfl
    · show (s.completeDiscard slot).engine.queue.map QueueEntry.slot = _; rw [ee]; exact hq
    · rw [← hin]; exact hi
    · intro p hp; cases hp

/-- One placement of a hide that is not DONE changed. -/
theorem jb_modWork {slot i : Nat} {f : Placement → Placement} (hd : ∀ g, s.hide slot = some g → g.state ≠ .done)
    (hf : ∀ g p, s.hide slot = some g → (f p).state = .ticketed → ((f p).state = p.state ∧ (f p).ticket = p.ticket) ∨
      ∃ n c, (f p).ticket = some (n, c) ∧ g.channel = some c) (h : JointBut x s) : JointBut x
      (s.modPlacement slot i f) := by
  refine jb_keep (fun g _ => rfl) (fun g hg hp => ?_) h
  unfold Hide.placementsJoined Hide.anyPlaced at *
  simp only
  refine ⟨fun p hpm ht => ?_, fun e => absurd e (hd g hg)⟩
  obtain ⟨j, hj, rfl⟩ := List.getElem_of_mem hpm
  have hj' : j < g.placements.length := by simpa using hj
  rw [List.getElem_modify] at ht ⊢
  split
  · next e =>
    rw [if_pos e] at ht
    rcases hf g _ hg ht with ⟨a, b⟩ | hh
    · rw [b]; exact hp.1 _ (List.getElem_mem hj') (a ▸ ht)
    · exact hh
  · next e =>
    rw [if_neg e] at ht
    exact hp.1 _ (List.getElem_mem hj') ht

/-- A placement changed. -/
theorem joint_modPlacement (s : State) (slot i : Nat) (f : Placement → Placement) :
    jointOf (s.modPlacement slot i f) = jointOf s := joint_modHide fun _ => rfl

/-- Two states with unitOf joint hold a hide in unitOf state. -/
theorem joint_state {slot : Nat} {g g' : Hide} (hg : s.hide slot = some g) (hg' : t.hide slot = some g')
    (h : jointOf t = jointOf s) : coreOf g' = coreOf g := by
  have : (jointOf t).hide slot = (jointOf s).hide slot := by rw [h]
  rw [joint_hide hg, joint_hide hg'] at this
  exact Option.some.inj this

/-- Two states with unitOf joint hold the same hides. -/
theorem joint_some {slot : Nat} {g : Hide} (hg : s.hide slot = some g) (h : jointOf t = jointOf s) :
    ∃ g', t.hide slot = some g' ∧ coreOf g' = coreOf g := by
  have : (jointOf t).hide slot = (jointOf s).hide slot := by rw [h]
  rw [joint_hide hg] at this
  obtain ⟨g', hg', e⟩ := Option.map_eq_some_iff.1 this
  exact ⟨g', hg', e⟩

/-- One ticket returned. -/
theorem jb_returnPlacement (s : State) (c : Fin 4) (slot i : Nat) (hd : ∀ g, s.hide slot = some g → g.state ≠ .done)
    (h : JointBut x s) : JointBut x (s.returnPlacement c slot i) := by
  refine jb_modWork hd (fun g p hg ht => ?_) h
  left
  revert ht
  split
  · intro ht; cases ht
  · intro _; exact ⟨rfl, rfl⟩

/-- the strike keeps the joint, and brings no ticket -/
def NoTickets (slot : Nat) (s : State) : Prop := ∀ g, s.hide slot = some g → ∀ p ∈ g.placements, p.state ≠ .ticketed

/-- A placement changed to unitOf that is not TICKETED. -/
theorem notickets_mod {slot k i : Nat} {f : Placement → Placement}
    (hf : ∀ p, (f p).state = .ticketed → p.state = .ticketed) (h : NoTickets slot s) : NoTickets slot
    (s.modPlacement k i f) := by
  intro g hg p hp ht
  have hg : (s.modHide k fun h => { h with placements := h.placements.modify i f }).hide slot = some g := hg
  rw [hide_modHide] at hg
  split at hg
  · obtain ⟨g0, hg0, rfl⟩ := Option.map_eq_some_iff.1 hg
    obtain ⟨j, hj, rfl⟩ := List.getElem_of_mem hp
    have hj' : j < g0.placements.length := by simpa using hj
    simp only [List.getElem_modify] at ht
    split at ht
    · exact h g0 hg0 _ (List.getElem_mem hj') (hf _ ht)
    · exact h g0 hg0 _ (List.getElem_mem hj') ht
  · exact h g hg p hp ht

/-- Only the hides matter. -/
theorem notickets_same {slot : Nat} (h1 : t.hides = s.hides) (h : NoTickets slot s) : NoTickets slot t := by
  unfold NoTickets State.hide at *; rw [h1]; exact h

/-- steady: joint as in a given unitOf -/
theorem steady_joint (v : Joint) : Steady (fun t => jointOf t = v) where
  tape := fun s _ h => h
  links := fun s _ h => h
  sent := fun s _ h => h
  pending := fun s _ h => h
  attn := fun s _ _ h => h
  throttle := fun s _ h => h
  corrected := fun s _ h => h
  contents := fun s _ _ h => h
  covers := fun s _ _ h => h
  note := fun s slot f hf h => (joint_modHide fun g =>
    by obtain ⟨a, b, c, d, e, f', g'⟩ := hf g; simp [coreOf, *]).trans h
  strikeOne := fun s slot i h => by
    unfold State.strikeOne
    split
    · exact h
    · split
      · have : ∀ (u : State) (e : Event), jointOf (u.raise e) = jointOf u := fun u e => joint_same (by simp) (by simp)
          (by simp) (by simp) (by simp)
        rw [this, joint_return, joint_unmark, joint_modPlacement]; exact h
      · exact h
  marker := fun s slot i b h => (joint_modPlacement _ _ _ _).trans h

/-- No placement of a hide is TICKETED, whatever else a command does. -/
theorem steady_notickets (slot : Nat) : Steady (NoTickets slot) where
  tape := fun s _ h => h
  links := fun s _ h => h
  sent := fun s _ h => h
  pending := fun s _ h => h
  attn := fun s _ _ h => h
  throttle := fun s _ h => h
  corrected := fun s _ h => h
  contents := fun s _ _ h => h
  covers := fun s _ _ h => h
  note := fun s k f hf h => by
    intro g hg p hp ht
    rw [hide_modHide] at hg
    split at hg
    · obtain ⟨g0, hg0, rfl⟩ := Option.map_eq_some_iff.1 hg
      rw [(hf g0).2.2.2.1] at hp
      exact h g0 hg0 p hp ht
    · exact h g hg p hp ht
  strikeOne := fun s k i h => by
    unfold State.strikeOne
    split
    · exact h
    · split
      · exact notickets_same (s := s.modPlacement k i fun q => { q with state := .struck }) (by simp)
          (notickets_mod (fun p e => by cases e) h)
      · exact h
  marker := fun s k i b h => notickets_mod (fun p e => e) h

/-- The channels stand, whatever else a command does. -/
theorem steady_chans (v : Vector Channel 4) : Steady (fun t => t.chans = v) := by
  constructor
  all_goals intros
  all_goals first | assumption | (simp; assumption)

/-- After a fold of idempotent modifications. -/
theorem foldl_modify {α} (f : α → α) (hf : ∀ a, f (f a) = f a) (is : List Nat) (l : List α) (i : Nat) :
    (is.foldl (fun l i => l.modify i f) l)[i]? = (l[i]?).map (fun a => if i ∈ is then f a else a) := by
  induction is generalizing l with
  | nil => simp
  | cons j t ih =>
    rw [List.foldl_cons, ih, List.getElem?_modify]
    cases l[i]? with
    | none => simp
    | some a =>
      simp only [Option.map_some, List.mem_cons]
      by_cases e : j = i
      · subst e; simp only [if_true, true_or]; split <;> simp [hf]
      · simp [e, Ne.symm e]

/-- The hide after several tickets returned. -/
theorem returnFold_hide (c : Fin 4) (slot : Nat) (is : List Nat) (s : State) (g : Hide) (hg : s.hide slot = some g) :
    (is.foldl (fun t i => t.returnPlacement c slot i) s).hide slot = some
      { g with placements := is.foldl (fun l i => l.modify i fun p => if outOn c p then { p with state := .placed, ticket := none } else p) g.placements } := by
  induction is generalizing s g with
  | nil => exact hg
  | cons j t ih =>
    rw [List.foldl_cons, List.foldl_cons]
    refine ih _
      { g with placements := g.placements.modify j fun p => if outOn c p then { p with state := .placed, ticket := none } else p } ?_
    show (s.modHide slot _).hide slot = _
    rw [hide_modHide, if_pos rfl, hg]; rfl

/-- The placements out on a channel. -/
theorem mem_outIndices {c : Fin 4} {slot i : Nat} {g : Hide} {p : Placement} (hg : s.hide slot = some g)
    (hp : g.placements[i]? = some p) (ho : outOn c p = true) : i ∈ s.outIndices c slot := by
  unfold State.outIndices
  rw [hg]
  simp only [List.mem_map, List.mem_filter]
  refine ⟨(p, i), ⟨?_, ho⟩, rfl⟩
  rw [List.mem_zipIdx_iff_getElem?]; exact hp

/-- All that returnAll does here. -/
theorem jb_returnAll {c : Fin 4} {slot : Nat} {g : Hide} (hg : s.hide slot = some g) (hc : g.channel = some c)
    (hd : g.state ≠ .done) (h : JointBut x s) :
    JointBut x (s.returnAll c slot) ∧ jointOf (s.returnAll c slot) = jointOf s ∧ NoTickets slot
      (s.returnAll c slot) := by
  have h1 := foldl_inv (fun t i => State.returnPlacement c slot i t) (fun t => JointBut x t ∧ jointOf t = jointOf s)
    (fun t i ht => ⟨jb_returnPlacement t c slot i (fun k hk => by
      have := congrArg Core.state (joint_state hg hk ht.2); rw [show k.state = g.state from this]; exact hd) ht.1,
        (joint_modPlacement _ _ _ _).trans ht.2⟩) (s.outIndices c slot) s ⟨h, rfl⟩
  have hn : NoTickets slot ((s.outIndices c slot).foldl (fun t i => t.returnPlacement c slot i) s) := by
    intro k hk p hp ht
    have hk' := returnFold_hide c slot (s.outIndices c slot) s g hg
    obtain ⟨i, hi⟩ := List.getElem?_of_mem hp
    have hkc := joint_state hg hk h1.2
    obtain ⟨n, d, hpt, hkd⟩ := (h1.1.pl slot k hk).1 p hp ht
    rw [show k.channel = g.channel from congrArg Core.channel hkc, hc] at hkd
    cases hkd
    rw [hk'] at hk; cases hk
    rw [foldl_modify _ (fun p => ?_)] at hi
    · obtain ⟨q, hq, e⟩ := Option.map_eq_some_iff.1 hi
      by_cases hm : i ∈ s.outIndices c slot
      · rw [if_pos hm] at e
        split at e
        · rw [← e] at ht; cases ht
        · next hno =>
          subst e
          exact hno (by simp [outOn, ht, hpt])
      · rw [if_neg hm] at e
        subst e
        exact hm (mem_outIndices hg hq (by simp [outOn, ht, hpt]))
    · split
      · next ho => simp [outOn]
      · rfl
  refine ⟨steady_jb.returnChecks _ _ _ h1.1, (steady_joint (jointOf s)).returnChecks _ _ _ h1.2,
    (steady_notickets slot).returnChecks _ _ _ hn⟩

/-- What the channel's hide is. -/
theorem assigned_spec {c : Fin 4} {slot : Nat} {g : Hide} (ha : s.assigned c = some (slot, g)) (h : JointBut none s) :
    (s.chan c).hide = some slot ∧ s.hide slot = some g ∧ g.channel = some c := by
  unfold State.assigned at ha
  obtain ⟨k, hk, ha⟩ := Option.bind_eq_some_iff.1 ha
  obtain ⟨g', hg', e⟩ := Option.map_eq_some_iff.1 ha
  cases e
  refine ⟨hk, hg', ?_⟩
  obtain ⟨q, hq, hqc⟩ := (h.ok.holds c slot (by simp)).1 hk
  rw [joint_hide hg'] at hq; cases hq; exact hqc

/-- A channel without a hide. -/
theorem assigned_none {c : Fin 4} (ha : s.assigned c = none) (h : JointBut none s) : (s.chan c).hide = none := by
  cases hk : (s.chan c).hide with
  | none => rfl
  | some slot =>
    obtain ⟨q, hq, hqc⟩ := (h.ok.holds c slot (by simp)).1 hk
    obtain ⟨g, hg, rfl⟩ := Option.map_eq_some_iff.1 hq
    unfold State.assigned at ha
    rw [hk] at ha; simp [hg] at ha

/-- The hide of a channel at work is CUTTING. -/
theorem work_cutting {c : Fin 4} {slot : Nat} {g : Hide} (hg : s.hide slot = some g) (hc : g.channel = some c)
    (hw : (s.chan c).state.atWork = true) (h : JointBut x s) : g.state = .cutting := by
  rcases (jb_channel h hg).1.1 (by rw [hc]; simp) with e | e
  · exact e
  · have hd := (jb_channel h hg).2.1 (by rw [e]; simp)
    have := (h.ok.abort slot _ c (joint_hide hg) hc).1 hd
    have e2 : (s.chan c).state = .aborting := this
    rw [e2] at hw; cases hw

/-- The hide of an ABORTING channel is DISCARDING. -/
theorem abort_discarding {c : Fin 4} {slot : Nat} {g : Hide} (hg : s.hide slot = some g) (hc : g.channel = some c)
    (hw : (s.chan c).state = .aborting) (h : JointBut x s) : g.state = .discarding ∧ g.inPass = false := by
  have hd : g.state = .discarding := (h.ok.abort slot _ c (joint_hide hg) hc).2 hw
  refine ⟨hd, ?_⟩
  rcases (jb_channel h hg).1.1 (by rw [hc]; simp) with e | e
  · rw [hd] at e; cases e
  · simp [Hide.inPass, hd, e]

/-- A hide given back by its channel. -/
theorem jb_giveBack {c : Fin 4} {slot : Nat} {g : Hide} (hg : s.hide slot = some g) (hs : g.state = .cutting)
    (hc : g.channel = some c) (hn : NoTickets slot s) (h : JointBut none s) : JointBut (some c) (s.giveBack slot) := by
  unfold State.giveBack
  split
  · exact steady_jb.raise _ _ (jb_back hg hs hc (hn g hg) h)
  · next hp =>
    rw [hg] at hp
    exact jb_doneCutting hg hs hc (by simpa using hp) (hn g hg) h

/-- A channel lets its hide go. -/
theorem jb_letGo (s : State) (c : Fin 4) (h : JointBut none s) : JointBut (some c) (s.letGo c) := by
  unfold State.letGo
  split
  · next ha => exact jb_leave (assigned_none ha h) h
  · next slot g ha =>
    obtain ⟨a, hg, hc⟩ := assigned_spec ha h
    split
    · next hw =>
      have hs := work_cutting hg hc hw h
      obtain ⟨r1, r2, r3⟩ := jb_returnAll hg hc (by rw [hs]; decide) h
      obtain ⟨g', hg', e⟩ := joint_some hg r2
      exact jb_giveBack hg' ((congrArg Core.state e).trans hs) ((congrArg Core.channel e).trans hc) r3 r1
    · split
      · next hw =>
        obtain ⟨hd, hi⟩ := abort_discarding hg hc hw h
        exact (jb_discarded hg h).2.1 c hc hi
      · next h1 h2 =>
        have := (h.ok.busy c (by simp)).2 (by show (s.chan c).hide ≠ none; rw [a]; simp)
        have hb : (s.chan c).state.busy = true := this
        unfold ChannelState.busy at hb
        simp [h1, h2] at hb

/-- A channel's work cleared. -/
theorem jb_clearWork (s : State) (c : Fin 4) (st : ChannelState) (hst : st.busy = false) (h : JointBut (some c) s) :
    JointBut none (s.clearWork c st) := jb_rest hst rfl h

/-- A channel fault. -/
theorem jb_channelFault (s : State) (c : Fin 4) (cause : FaultCause) (code : Nat) (h : JointBut none s) :
    JointBut none (s.channelFault c cause code) := by
  have h1 : JointBut none ((((s.letGo c).clearWork c .faulted).recordFault c cause code).raise (.channel c .fault)) :=
    steady_jb.raise _ _ (jb_chan ⟨rfl, Iff.rfl⟩ rfl (jb_clearWork _ _ _ (by decide) (jb_letGo s c h)))
  unfold State.channelFault
  dsimp only
  split
  · exact jb_evaluate _ h1
  · exact h1

/-- CUTTER_RESET. -/
theorem jb_cutterReset (s : State) (c : Fin 4) (h : JointBut none s) : JointBut none (s.cutterReset c) := by
  have h1 : JointBut none (((s.letGo c).clearWork c (s.resetState c)).modChan c fun ch =>
    { ch with ready := s.readyKept c, ticketCounter := 1 }) := by
    refine jb_chan ⟨rfl, Iff.rfl⟩ rfl (jb_clearWork _ _ _ ?_ (jb_letGo s c h))
    unfold State.resetState; split <;> rfl
  unfold State.cutterReset
  dsimp only
  split
  · exact jb_evaluate _ h1
  · exact h1

/-- The end of an abort. -/
theorem jb_endAbort (s : State) (c : Fin 4) (hc : (s.chan c).state = .aborting) (h : JointBut none s) :
    JointBut none (endAbort c s) := by
  unfold endAbort
  split
  · exact h
  · next slot ha =>
    obtain ⟨k, hk, hkc⟩ := (h.ok.holds c slot (by simp)).1 ha
    obtain ⟨g, hg, rfl⟩ := Option.map_eq_some_iff.1 hk
    obtain ⟨hd, hi⟩ := abort_discarding hg hkc hc h
    exact jb_rest (by rfl) rfl ((jb_discarded hg h).2.1 c hkc hi)

end Sys2Proof.Laws
end

