-- ==== Sys2Proof/Laws/JoinedRuns.lean ====
section
/-! SUPPORT. The requests and the events of the engine and the channels keep the records joined. -/

set_option linter.unusedSectionVars false
set_option linter.unusedSimpArgs false
set_option linter.unusedVariables false

namespace Sys2Proof.Laws

open Sys2Proof.Machine

variable {x : Option (Fin 4)} {s t : State}

/-- A request on a hide, where the hide's state is unitOf of those taken. -/
theorem onHide_state {P : State → Prop} {s : State} {slot : Nat} {taken busy : List HideState}
    {go : Hide → State × Reply} (h : P s)
    (hgo : ∀ g, s.hide slot = some g → g.state ∈ taken → P (go g).1) : P (onHide s slot taken busy go).1 := by
  unfold onHide refuse
  split
  · split
    · exact h
    · next g hg =>
      split
      · next hm => exact hgo g hg (by simpa using hm)
      · split <;> exact h
  · exact h

/-- One ticket resolved. -/
theorem jb_resolve (s : State) (slot i : Nat) (o : CutOutcome) (r : Nat × Nat) (h : JointBut x s) :
    JointBut x (s.resolve slot i o r) := by
  unfold State.resolve
  split
  · exact h
  · next p _ =>
    split
    · exact jb_same (s := s.modPlacement slot i fun q => { q with state := .cut }) (by simp [State.resolveCut])
        (by simp [State.resolveCut]) (by simp [State.resolveCut]) (by simp [State.resolveCut])
        (jb_modPlacement (fun p => .inr ⟨by simp, by simp⟩) h)
    · exact jb_same (s := s.modPlacement slot i fun q => { q with state := .spoiled })
        (by simp [State.resolveSpoiled]) (by simp [State.resolveSpoiled]) (by simp [State.resolveSpoiled])
        (by simp [State.resolveSpoiled]) (jb_modPlacement (fun p => .inr ⟨by simp, by simp⟩) h)
    · exact jb_same (s := s.modPlacement slot i fun q => { q with state := .skipped, reason := some r })
        (by simp [State.resolveSkipped]) (by simp [State.resolveSkipped]) (by simp [State.resolveSkipped])
        (by simp [State.resolveSkipped]) (jb_modPlacement (fun p => .inr ⟨by simp, by simp⟩) h)

/-- A channel written with its state and hide. -/
theorem jb_chan' (s : State) (c : Fin 4) (f : Channel → Channel)
    (hf : ∀ ch, (f ch).state = ch.state ∧ (f ch).hide = ch.hide) (h : JointBut x s) : JointBut x (s.modChan c f) :=
  jb_chan (by rw [(hf _).1]; exact ⟨rfl, Iff.rfl⟩) (hf _).2 h

/-- A CUT report that resolves a ticket. -/
theorem jb_resolveReport (s : State) (c : Fin 4) (t : TicketRef) (slot : Nat) (o : CutOutcome) (r : Nat × Nat)
    (h : JointBut none s) : JointBut none (s.resolveReport c t slot o r) :=
  jb_settle _ _ (jb_chan' _ _ _ (fun _ => ⟨rfl, rfl⟩) (jb_chan' _ _ _ (fun _ => ⟨rfl, rfl⟩) (jb_resolve _ _ _ _ _ h)))

/-- A TICKET refused. -/
theorem jb_ticketRefused (s : State) (c : Fin 4) (t : TicketRef) (r : Nat × Nat) (h : JointBut none s) :
    JointBut none (ticketRefused c t r s) := by
  unfold ticketRefused
  split
  · exact h
  · exact jb_settle _ _ (jb_chan' _ _ _ (fun _ => ⟨rfl, rfl⟩) (jb_resolve _ _ _ _ _ h))

/-- A query answered with an outcome. -/
theorem jb_finished (s : State) (c : Fin 4) (t : TicketRef) (o : CutOutcome) (r : Nat × Nat) (h : JointBut none s) :
    JointBut none (finishedTicket c t o r s) := by
  unfold finishedTicket
  split
  · exact h
  · exact jb_resolveReport _ _ _ _ _ _ h

/-- A query answered with the ticket still out. -/
theorem jb_stillOut (s : State) (c : Fin 4) (t : TicketRef) (h : JointBut none s) : JointBut none (stillOut c t s) := by
  have h1 : JointBut none (s.modChan c fun ch => { ch with
      deadlines := ch.deadlines.map (Deadline.restart t s.settings.cutDeadline), queryCount := ch.queryCount + 1 }) :=
    jb_chan' _ _ _ (fun _ => ⟨rfl, rfl⟩) h
  unfold stillOut
  split
  · exact h
  · unfold compareLimit
    split
    · split
      · exact jb_chan' _ _ _ (fun _ => ⟨rfl, rfl⟩) (steady_jb.raise _ _ h1)
      · exact jb_channelFault _ _ _ _ h1
    · exact h1

/-- A ticket found at work: its hide is CUTTING on the channel, and the placement TICKETED. -/
theorem findAtWork_spec {c : Fin 4} {n slot i : Nat} (hf : s.findAtWork c n = some (slot, i)) (h : JointBut none s) :
    ∃ g, s.hide slot = some g ∧ g.channel = some c ∧ g.state = .cutting ∧ ∃ p, g.placements[i]? = some p ∧ p.state =
    .ticketed := by
  unfold State.findAtWork at hf
  split at hf
  · next hw =>
    unfold State.findOut at hf
    obtain ⟨⟨sl, g⟩, ha, hf⟩ := Option.bind_eq_some_iff.1 hf
    obtain ⟨j, hj, e⟩ := Option.map_eq_some_iff.1 hf
    cases e
    obtain ⟨_, hg, hc⟩ := assigned_spec ha h
    refine ⟨g, hg, hc, work_cutting hg hc hw h, ?_⟩
    rw [List.findIdx?_eq_some_iff_getElem] at hj
    obtain ⟨hl, ho, _⟩ := hj
    exact ⟨_, List.getElem?_eq_getElem hl, ((outAs_iff _ _ _).1 ho).1⟩
  · cases hf

/-- A ticket still out: its hide is CUTTING on the channel, and the placement that it was sent for TICKETED. -/
theorem findTicket_spec {c : Fin 4} {t : TicketRef} {slot : Nat} (hf : s.findTicket c t = some slot)
    (h : JointBut none s) : ∃ g, s.hide slot = some g ∧ g.channel = some c ∧ g.state = .cutting ∧
    ∃ p, g.placements[t.index]? = some p ∧ p.state = .ticketed := by
  unfold State.findTicket at hf
  split at hf
  · next hw =>
    obtain ⟨⟨sl, g⟩, ha, hf⟩ := Option.bind_eq_some_iff.1 hf
    dsimp only at hf
    split at hf
    · next ho =>
      cases hf
      obtain ⟨_, hg, hc⟩ := assigned_spec ha h
      cases hp : g.placements[t.index]? with
      | none => simp [hp] at ho
      | some p =>
        rw [hp] at ho
        exact ⟨g, hg, hc, work_cutting hg hc hw h, p, hp, ((outAs_iff _ _ _).1 ho).1⟩
    · cases hf
  · cases hf

/-- A query answered UNKNOWN. -/
theorem jb_unknown (s : State) (c : Fin 4) (t : TicketRef) (h : JointBut none s) : JointBut none (unknownTicket c t s) := by
  unfold unknownTicket
  split
  · exact h
  · next slot hf =>
    obtain ⟨g, hg, _, hs, _⟩ := findTicket_spec hf h
    refine jb_settle _ _ (steady_jb.returnChecks _ _ _ (jb_chan' _ _ _ (fun _ => ⟨rfl, rfl⟩)
      (jb_returnPlacement _ _ _ _ (fun k hk => ?_) h)))
    rw [hg] at hk; cases hk; rw [hs]; decide

/-- TICKET_SEND. -/
theorem jb_ticketSend (s : State) (c : Fin 4) (h : JointBut none s) : JointBut none (ticketSend c s) := by
  unfold ticketSend
  split
  · next hm =>
    split
    · exact h
    · next slot g ha =>
      split
      · exact h
      · next i p hp =>
        obtain ⟨_, hg, hc⟩ := assigned_spec ha h
        have hr : (s.chan c).state = .running := by
          unfold maySend at hm; simp only [Bool.and_eq_true, decide_eq_true_eq] at hm; exact hm.1.1.1
        have hs := work_cutting hg hc (by rw [hr]; rfl) h
        refine jb_settle _ _ (jb_chan' _ _ _ (fun _ => ⟨rfl, rfl⟩)
          (steady_jb.sent _ _ (jb_chan' _ _ _ (fun _ => ⟨rfl, rfl⟩)
          (jb_modWork (fun k hk => ?_) (fun k p hk _ => ?_) h))))
        · rw [hg] at hk; cases hk; rw [hs]; decide
        · rw [hg] at hk; cases hk; exact .inr ⟨_, _, rfl, hc⟩
  · exact h

/-! engine -/

/-- The pass written with its slot. -/
theorem jb_mapPass (s : State) (f : Pass → Pass)
    (hf : ∀ p, s.engine.pass = some p → (f p).slot = p.slot ∧ ((f p).phase = .passEnd → (f p).stack = []))
    (h : JointBut x s) : JointBut x { s with engine := { s.engine with pass := s.engine.pass.map f } } := by
  refine jb_engine rfl ?_ ?_ h
  · cases hp : s.engine.pass with
    | none => rfl
    | some p => simp [(hf p hp).1]
  · intro q hq hph
    obtain ⟨p, hp, rfl⟩ := Option.map_eq_some_iff.1 hq
    exact (hf p hp).2 hph

/-- The phase set, but not to pass end. -/
theorem jb_setPhase (s : State) (ph : Phase) (hp : ph ≠ .passEnd) (h : JointBut x s) : JointBut x (s.setPhase ph) :=
  jb_mapPass s _ (fun p _ => ⟨rfl, fun e => absurd e hp⟩) h

/-- A unit counted. -/
theorem jb_countUnit (s : State) (h : JointBut x s) : JointBut x s.countUnit :=
  jb_mapPass s _ (fun p hp => ⟨rfl, fun e => h.dr p hp e⟩) h

/-- The pass replaced by unitOf of the same hide. -/
theorem jb_putPass (s : State) (p q : Pass) (hp : s.engine.pass = some p) (hs : q.slot = p.slot)
    (hq : q.phase = .passEnd → q.stack = []) (h : JointBut x s) : JointBut x (s.putPass (some q)) := by
  refine jb_engine rfl ?_ (fun r hr => ?_) h
  · rw [hp]; simp [hs]
  · cases hr; exact hq

/-- The top entry popped. -/
theorem jb_popTop (s : State) (slot : Nat) (p : Pass) (hp : s.engine.pass = some p) (hph : p.phase ≠ .passEnd)
    (h : JointBut x s) : JointBut x (s.popTop slot) := by
  unfold State.popTop
  split
  · exact h
  · next e rest _ =>
    refine jb_mapPass _ _ (fun q hq => ⟨rfl, fun e => ?_⟩) (jb_popEntry s slot e h)
    have : (State.popEntry slot s ‹Entry›).engine = s.engine := by simp [State.popEntry]
    rw [this, hp] at hq; cases hq
    exact absurd e hph

/-- A reserve changes the book alone. -/
theorem reserve_same {id : Nat} (h : s.claimReserve id = some t) :
    t.hides = s.hides ∧ t.arbiter = s.arbiter ∧ t.chans = s.chans ∧ t.engine = s.engine := by
  unfold State.claimReserve at h
  split at h
  · cases h
  · split at h
    · cases h; exact ⟨rfl, rfl, rfl, rfl⟩
    · cases h

/-- A reserve. -/
theorem jb_reserve {id : Nat} (h : s.claimReserve id = some t) (hs : JointBut x s) : JointBut x t := by
  obtain ⟨a, b, c, d⟩ := reserve_same h
  exact jb_same a (by rw [b]) c d hs

/-- UNIT_PUSH. -/
theorem jb_unitPush (s : State) (h : JointBut none s) : JointBut none (unitPush s) := by
  unfold unitPush
  split
  · exact h
  · next p hp =>
    split
    · next q o a b hph =>
      have hne : p.phase ≠ .passEnd := by rw [hph]; simp
      unfold pushFound
      split
      · split
        · exact jb_setPhase _ _ (by simp) (jb_popTop _ _ p hp hne h)
        · exact jb_setPhase _ _ (by simp) h
      · next t ht =>
        have hr := (reserveFound_some ht).2
        have ht1 : JointBut none t := jb_reserve hr h
        have h2 := steady_jb.coverFound _ p.slot q o a b ht1
        have he : (coverFound p.slot q o a b t).engine = s.engine :=
          by rw [coverFound_engine]; exact (reserve_same hr).2.2.2
        generalize coverFound p.slot q o a b t = u at h2 he
        have h3 : ∀ e, JointBut none (State.pushEntry e u) := fun e => jb_mapPass u _ (fun r hr' => ⟨rfl, fun e2 => by
          rw [he, hp] at hr'; cases hr'; exact absurd e2 hne⟩) h2
        unfold afterPush
        split
        · exact jb_setPhase _ _ (by simp) (jb_countUnit _ (h3 _))
        · exact jb_setPhase _ _ (by simp) (jb_countUnit _ (h3 _))
        · split
          · exact h3 _
          · refine jb_setPhase _ _ ?_ (h3 _)
            unfold beginSearch; (repeat' split) <;> simp
    · next hph => exact jb_setPhase _ _ (by simp) (jb_popTop _ _ p hp (by rw [hph]; simp) h)
    · exact h

/-- The hide of the pass. -/
theorem pass_hide {p : Pass} (hp : s.engine.pass = some p) (h : JointBut x s) :
    ∃ g, s.hide p.slot = some g ∧ g.inPass = true := by
  obtain ⟨k, hk, hin⟩ := (h.ok.passing p.slot).1 (by show s.engine.pass.map Pass.slot = _; rw [hp]; rfl)
  obtain ⟨g, hg, rfl⟩ := Option.map_eq_some_iff.1 hk
  exact ⟨g, hg, (inPass_iff g).2 hin⟩

/-- A hide in a pass is NESTING or DISCARDING. -/
theorem inPass_state {g : Hide} (h : g.inPass = true) : g.state = .nesting ∨ g.state = .discarding := by
  rcases (inPass_iff g).1 h with e | e
  · exact .inl e
  · exact .inr e.1

/-- The stack committed. -/
theorem jb_commitStack (s : State) (slot : Nat) (es : List Entry) (hd : ∀ g, s.hide slot = some g → g.state ≠ .done)
    (h : JointBut x s) : JointBut x (commitStack slot es s) := by
  refine jb_keep (fun _ _ => rfl) (fun g hg hp => ?_) h
  refine ⟨fun p hpm ht => ?_, fun e => absurd e (hd g hg)⟩
  rcases List.mem_append.1 hpm with hm | hm
  · exact hp.1 p hm ht
  · obtain ⟨e, _, rfl⟩ := List.mem_map.1 hm; cases ht

/-- STEP_END. -/
theorem jb_stepEnd (s : State) (h : JointBut none s) : JointBut none (stepEnd s) := by
  unfold stepEnd
  split
  · exact h
  · next p hp =>
    split
    · next r k hph _ =>
      unfold endStep
      have hq : (nextStep p).phase = .passEnd → (nextStep p).stack = [] := fun _ => rfl
      obtain ⟨g, hg, hin⟩ := pass_hide hp h
      split
      · have h1 := jb_popAll s p.slot h
        have h2 : JointBut none ((s.popAll p.slot).modHide p.slot fun h =>
          { h with report := addResult ⟨k.line, 0, r, true⟩ 0 0 h.report }) :=
          steady_jb.note _ _ _ (fun _ => ⟨rfl, rfl, rfl, rfl, rfl, rfl, rfl⟩) h1.1
        have : ∃ q, ((s.popAll p.slot).modHide p.slot fun h =>
          { h with report := addResult ⟨k.line, 0, r, true⟩ 0 0 h.report }).engine.pass = some q ∧ q.slot = p.slot := by
          have : (jointOf (s.popAll p.slot)).pass = some p.slot :=
            by rw [h1.2]; show s.engine.pass.map Pass.slot = _; rw [hp]; rfl
          obtain ⟨q, hq', e⟩ := Option.map_eq_some_iff.1 this
          exact ⟨q, by rw [modHide_engine]; exact hq', e⟩
        obtain ⟨q, hq1, hq2⟩ := this
        exact jb_putPass _ q (nextStep p) hq1 (by rw [hq2]; rfl) hq h2
      · have h1 := jb_commitStack s p.slot p.stack.reverse (fun k hk => by
          rw [hg] at hk; cases hk; rcases inPass_state hin with e | e <;> rw [e] <;> decide) h
        have h2 := steady_jb.note (commitStack p.slot p.stack.reverse s) p.slot
          (fun h =>
          { h with report := addResult ⟨k.line, p.units, r, false⟩ p.stack.length ((p.stack.map (entryBody s)).sum) h.report }) (fun _ => ⟨rfl, rfl, rfl, rfl, rfl, rfl, rfl⟩) h1
        exact jb_putPass _ p (nextStep p) (by rw [modHide_engine]; unfold commitStack; rw [modHide_engine]; exact hp)
          rfl hq h2
    · exact h

/-- The end of a pass on a NESTING hide. -/
theorem jb_nested {slot : Nat} {g : Hide} {f : Hide → Hide}
    (hf : ∀ k, coreOf (f k) = { coreOf k with state := .nested } ∧ (f k).placements = k.placements)
    (hg : s.hide slot = some g) (hs : g.state = .nesting) (h : JointBut none s) : JointBut none
    ((s.modHide slot f).putPass none) := by
  obtain ⟨hch, _⟩ := no_channel h hg (by rw [hs]; decide) (by rw [hs]; decide)
  have hr := rest_modHide (s := s) f hg
  rw [(hf g).1] at hr
  refine ⟨Joint.ok_nested (v := jointOf s) (slot := slot) (k := coreOf g) ⟨hr.hide, hr.released⟩ ?_ ?_ ?_ ?_ rfl
    (joint_hide hg) hs h.ok, fun p hp => (by cases hp), ?_⟩
  · simp [jointOf, State.putPass]
  · funext c; simp [jointOf, State.chan, State.putPass]
  · funext c; simp [jointOf, State.chan, State.putPass]
  · simp [jointOf, State.putPass]
  · refine pl_modHide h.pl fun k hk => ?_
    rw [hg] at hk; cases hk
    refine pj_none (fun p hp => ?_) (fun e => ?_)
    · rw [(hf g).2] at hp; exact no_ticket h hg hch p hp
    · have := congrArg Core.state (hf g).1
      rw [show (coreOf (f g)).state = (f g).state from rfl, e] at this; cases this

/-- PASS_END. -/
theorem jb_passEnd (s : State) (h : JointBut none s) : JointBut none (passEndEvent s) := by
  unfold passEndEvent
  split
  · exact h
  · next p hp =>
    split
    · next g _ hg =>
      split
      · exact jb_setPhase _ _ (by simp) h
      · next hnd =>
        obtain ⟨g', hg', hin⟩ := pass_hide hp h
        rw [hg] at hg'; cases hg'
        have hs : g.state = .nesting := (inPass_state hin).resolve_right hnd
        unfold endPass
        dsimp only
        have key : ∀ P : State → Prop, Steady P → P s → P (g.deferredPoison.foldl (deferredTile p.slot)
          (g.deferred.foldl (deferredFlaw p.slot) s)) := by
          intro P H hs
          refine foldl_inv (deferredTile _) P (fun t i => H.sweepTile t _ i) _ _
            (foldl_inv (deferredFlaw _) P (fun t f ht => ?_) _ _ hs)
          unfold deferredFlaw
          split
          · exact ht
          · exact H.sweepFlaw _ _ _ (H.applyFlaw _ _ _ ht)
        have k1 := key _ steady_jb h
        have k2 := key _ (steady_joint (jointOf s)) rfl
        generalize (g.deferredPoison.foldl (deferredTile p.slot) (g.deferred.foldl (deferredFlaw p.slot) s)) = u at k1 k2
        obtain ⟨g2, hg2, e⟩ := joint_some hg k2
        have h1 := jb_nested (s := u) (f := fun g =>
          { g with deferred := [], deferredPoison := [], state := .nested }) (fun k => ⟨rfl, rfl⟩) hg2
          ((congrArg Core.state e).trans hs) k1
        exact jb_same (by simp [State.putPass]) (by simp [State.putPass]) (by simp [State.putPass])
          (by simp [State.putPass]) h1
    · exact h

/-- PASS_ABORT. -/
theorem jb_passAbort (s : State) (h : JointBut none s) : JointBut none (passAbort s) := by
  unfold passAbort
  split
  · exact h
  · next p hp =>
    split
    · exact h
    · next g hg =>
      split
      · next hc =>
        obtain ⟨g', hg', hin⟩ := pass_hide hp h
        rw [hg] at hg'; cases hg'
        refine (jb_discarded hg h).2.2 ?_ hin
        have hr : g.route = some .engine := by
          rcases (inPass_iff g).1 hin with e | e
          · have := e.symm.trans hc.1; cases this
          · exact e.2
        by_contra hn
        rcases (jb_channel h hg).1.1 hn with e | e
        · rw [hc.1] at e; cases e
        · rw [hr] at e; cases e
      · exact h

/-- NEST_TAKE. -/
theorem jb_takeHide (s : State) (h : JointBut none s) : JointBut none (takeHide s) := by
  unfold takeHide
  split
  · next e rest hp hq =>
    obtain ⟨k, hk, hks⟩ := (h.ok.queued e.slot).1 (by show e.slot ∈ s.engine.queue.map QueueEntry.slot; rw [hq]; simp)
    obtain ⟨g, hg, rfl⟩ := Option.map_eq_some_iff.1 hk
    have hs : g.state = .nestWait := hks
    obtain ⟨hch, _⟩ := no_channel h hg (by rw [hs]; decide) (by rw [hs]; decide)
    generalize hu : ({ s with engine := { queue := rest, pass := some ⟨e.slot, e.plan, 0, 0, [], .attempt⟩ } } : State) = u
    have hgu : u.hide e.slot = some g := by rw [← hu]; exact hg
    have hr := rest_modHide (s := u) (fun h => { h with state := .nesting, report := some ⟨[], 0, 0⟩ }) hgu
    have hju : (jointOf u).hide = (jointOf s).hide := by rw [← hu]; rfl
    refine ⟨Joint.ok_take (v := jointOf s) (slot := e.slot) (k := coreOf g) (q := rest.map QueueEntry.slot)
      ⟨fun j => ?_, ?_⟩ ?_ ?_ ?_ ?_ ?_ ?_ ?_ (joint_hide hg) h.ok, ?_, ?_⟩
    · rw [hr.hide, hju]; rfl
    · rw [hr.released, ← hu]; rfl
    · simp [jointOf, ← hu]
    · funext c; simp [jointOf, State.chan, ← hu]
    · funext c; simp [jointOf, State.chan, ← hu]
    · show s.engine.queue.map _ = _; rw [hq]; rfl
    · simp [jointOf, ← hu]
    · simp [jointOf, ← hu]
    · show s.engine.pass.map _ = _; rw [hp]; rfl
    · intro q hq2 hph
      rw [modHide_engine, ← hu] at hq2
      cases hq2; rfl
    · refine pl_modHide (s := u) (fun sl k hk => h.pl sl k (by rw [← hu] at hk; exact hk)) fun k hk => ?_
      rw [hgu] at hk; cases hk
      exact pj_none (fun p hp => no_ticket h hg hch p hp) (by simp)
  · exact h

/-- COMMIT_COMPLETION. -/
theorem jb_completeCommit (s : State) (slot : Nat) (g : Hide) (hg : s.hide slot = some g) (hs : g.state = .committing)
    (h : JointBut none s) : JointBut none (completeCommit slot g s) := by
  have h1 := steady_jb.findOffHide slot 0 g.staged _ (steady_jb.findInside slot (framedCells g) s h)
  have e1 : jointOf (findOffHide slot 0 g.staged (findInside slot (framedCells g) s).1).1 = jointOf s :=
    (steady_joint (jointOf s)).findOffHide slot 0 g.staged _
    ((steady_joint (jointOf s)).findInside slot (framedCells g) s rfl)
  have key : ∀ (u : State) (f : Hide → Hide), JointBut none u → jointOf u = jointOf s →
    (∀ k, (f k).placements = k.placements ∧ (f k).channel = k.channel ∧ (f k).route = k.route ∧ (f k).release =
    k.release ∧ ((f k).state = .mapped ∨ (f k).state = .mapping)) → JointBut none (u.modHide slot f) := by
    intro u f hu eu hf
    refine jb_idle (fun k hk => ?_) hu
    have hks : k.state = .committing := (congrArg Core.state (joint_state hg hk eu)).trans hs
    obtain ⟨a, b⟩ := no_channel hu hk (by rw [hks]; decide) (by rw [hks]; decide)
    obtain ⟨f1, f2, f3, f4, f5⟩ := hf k
    refine ⟨⟨a, b, .inr (.inl hks)⟩, ⟨f2.trans a, f3.trans b, ?_⟩, f4, pj_none
      (fun p hp => no_ticket hu hk a p (f1 ▸ hp)) (fun e => ?_)⟩
    · rcases f5 with e | e
      · exact .inr (.inr (.inl e))
      · exact .inl e
    · rw [e] at f5; rcases f5 with e | e <;> cases e
  unfold completeCommit
  simp only
  split
  · refine steady_jb.raise _ _ (key _ _ ?_ ?_ ?_)
    · exact steady_jb.applyStaged _ _ _ h1
    · exact (steady_joint (jointOf s)).applyStaged _ _ _ e1
    · exact fun k => ⟨rfl, rfl, rfl, rfl, .inl rfl⟩
  · exact steady_jb.raise _ _ (key _ _ h1 e1 fun k => ⟨rfl, rfl, rfl, rfl, .inr rfl⟩)

/-- A hide's record written, its core and placements as before. -/
theorem jb_put {slot : Nat} {g k : Hide} (hg : s.hide slot = some g) (h1 : coreOf k = coreOf g)
    (h2 : k.placements = g.placements) (h : JointBut x s) : JointBut x (s.putHide slot k) := by
  have := jb_keep (s := s) (slot := slot) (f := fun _ => k) (fun g' hg' => by rw [hg] at hg'; cases hg'; exact h1)
    (fun g' hg' hp =>
      by rw [hg] at hg'; cases hg'; exact placementsJoined_same (congrArg Core.state h1) (congrArg Core.channel h1) h2 hp) h
  rw [modHide_some _ hg] at this; exact this

/-- ROWS. -/
theorem jb_layRows (s : State) (slot y : Nat) (tiles : List Nat) (cells : List (Nat × Nat)) (h : JointBut x s) :
    JointBut x (s.layRows slot y tiles cells) := by
  have ht : ∀ (t : State) i, JointBut x t → JointBut x (State.takeFrame slot t i) := by
    intro t i ht
    unfold State.takeFrame
    split
    · exact ht
    · next f _ =>
      exact jb_same (s := t.modHide slot fun h => { h with frames := Tab.put h.frames i f }) rfl rfl rfl rfl
        (jb_keep (fun _ _ => rfl) (fun _ _ hp => hp) ht)
  have h1 := foldl_inv (State.writeCell slot y) (JointBut x) (fun t c => steady_jb.writeCell t slot y c) cells _
    (foldl_inv (State.takeFrame slot) (JointBut x) ht tiles s h)
  unfold State.layRows
  simp only
  split
  · exact h1
  · exact steady_jb.allocationEval _ h1

/-- HIDE_OPEN. -/
theorem jb_new {slot : Nat} {k : Hide} (hn : s.hide slot = none) (h1 : Joint.Idle (coreOf k)) (h2 : k.release = none)
    (h3 : k.placements = []) (h : JointBut x s) : JointBut x (s.putHide slot k) := by
  have hh : ∀ j, (s.putHide slot k).hide j = if j = slot then some k else s.hide j := by
    intro j; split
    · next e => subst e; exact hide_putHide_self _ _ _
    · next e => exact hide_putHide_other _ _ e
  refine ⟨Joint.ok_new (v := jointOf s) (slot := slot) (k' := coreOf k) ⟨fun j => ?_, rfl⟩ rfl rfl rfl rfl rfl ?_ h1
    h2 h.ok, h.dr, fun j l hl => ?_⟩
  · show ((s.putHide slot k).hide j).map coreOf = _; rw [hh]; split <;> rfl
  · show (s.hide slot).map coreOf = _; rw [hn]; rfl
  · rw [hh] at hl
    split at hl
    · cases hl
      refine pj_none (fun p hp => by rw [h3] at hp; cases hp) (fun _ => ?_)
      unfold Hide.anyPlaced; rw [h3]; rfl
    · exact h.pl j l hl

/-- CLOSE. -/
theorem jb_close {slot : Nat} {g : Hide} (hg : s.hide slot = some g) (hs : g.state = .done) (h : JointBut none s) :
    JointBut none (s.freeSlot slot) := by
  obtain ⟨hch, hrt⟩ := no_channel h hg (by rw [hs]; decide) (by rw [hs]; decide)
  obtain ⟨f1, f2, f3, f4, f5⟩ := freeSlot_same hg
  have hw : slot ∉ s.arbiter.waiting := by
    intro hm
    obtain ⟨k, hk, e⟩ := (h.ok.wait slot).1 hm
    rw [joint_hide hg] at hk; cases hk; have := hs.symm.trans e; cases this
  have hq : slot ∉ s.engine.queue.map QueueEntry.slot := by
    intro hm
    obtain ⟨k, hk, e⟩ := (h.ok.queued slot).1 hm
    rw [joint_hide hg] at hk; cases hk; have := hs.symm.trans e; cases this
  have hfil : ∀ l : List Nat, slot ∉ l → l = l.filter fun j => decide (j ≠ slot) := by
    intro l hl
    symm; rw [List.filter_eq_self]
    intro a ha; simp; rintro rfl; exact hl ha
  refine ⟨Joint.ok_free (v := jointOf s) (slot := slot) (k := coreOf g) ⟨fun j => ?_, f2⟩ ?_ ?_ ?_ ?_ (.inl ⟨?_, ?_⟩)
    (joint_hide hg) (.inl ⟨hch, rfl⟩) h.ok, drained_hides f5 h.dr, fun j l hl => ?_⟩
  · show ((s.freeSlot slot).hide j).map coreOf = _; rw [f1]; split <;> rfl
  · show (s.freeSlot slot).arbiter.waiting = _; rw [f3]; exact hfil _ hw
  · funext c; show ((s.freeSlot slot).chan c).state = _; unfold State.chan; rw [f4]; rfl
  · funext c; show ((s.freeSlot slot).chan c).hide = _; unfold State.chan; rw [f4]; rfl
  · show (s.freeSlot slot).engine.queue.map _ = _; rw [f5]; exact hfil _ hq
  · show (s.freeSlot slot).engine.pass.map _ = _; rw [f5]; rfl
  · rw [← inPass_iff]; simp [Hide.inPass, hs]
  · rw [f1] at hl
    split at hl
    · cases hl
    · exact h.pl j l hl

/-- Placements committed by hand. -/
theorem jb_commitManual {slot : Nat} {ps : List Placement}
    (hs : ∀ g, s.hide slot = some g → g.state = .mapped ∨ g.state = .nested) (hp : ∀ p ∈ ps, p.state ≠ .ticketed)
    (h : JointBut x s) : JointBut x (s.commitManual slot ps) := by
  refine jb_idle (fun g hg => ?_) h
  obtain ⟨a, b⟩ := no_channel h hg (by rcases hs g hg with e | e <;> rw [e] <;> decide)
    (by rcases hs g hg with e | e <;> rw [e] <;> decide)
  refine ⟨⟨a, b, ?_⟩, ⟨a, b, .inr (.inr (.inr (.inl rfl)))⟩, rfl, pj_none (fun p hpm => ?_) (by simp)⟩
  · rcases hs g hg with e | e
    · exact .inr (.inr (.inl e))
    · exact .inr (.inr (.inr (.inl e)))
  · rcases List.mem_append.1 hpm with hm | hm
    · exact no_ticket h hg a p hm
    · exact hp p hm

/-- PLACE. -/
theorem jb_place (a b c d e : Nat) (s : State) (h : JointBut none s) : JointBut none (placeBody a b c d e s).1 := by
  unfold placeBody
  refine onHide_state h fun g hg hst => ?_
  split
  · exact h
  · next l _ =>
    refine kept_checked h ?_
    have h1 := steady_jb.tryFit a l.slot c d e s h
    have h2 := (steady_joint (jointOf s)).tryFit a l.slot c d e s rfl
    unfold placeWork
    simp only
    split
    · exact jb_handFresh _ _ _ h1
    · split
      · exact h1
      · next t ht =>
        have h3 := (steady_jb (x := none)).coverFor t a l.slot c d e (jb_reserve ht h1)
        have e3 : jointOf (t.coverFor a l.slot c d e) = jointOf s := by
          refine (steady_joint (jointOf s)).coverFor t a l.slot c d e ?_
          obtain ⟨r1, r2, r3, r4⟩ := reserve_same ht
          exact (joint_same r1 (by rw [r2]) r3 (by rw [r4]) (by rw [r4])).trans h2
        refine jb_commitManual (fun k hk => ?_) (fun p hp => ?_) h3
        · rw [show k.state = g.state from congrArg Core.state (joint_state hg hk e3)]; simpa using hst
        · simp only [List.mem_singleton] at hp; subst hp; simp [manualPlacement]

/-- PLACE_PAIR. -/
theorem jb_placePair (a b : Nat) (p q : Spot) (s : State) (h : JointBut none s) :
    JointBut none (placePairBody a b p q s).1 := by
  unfold placePairBody
  refine onHide_state h fun g hg hst => ?_
  split
  · exact h
  · next l _ =>
    refine kept_checked h ?_
    have key : ∀ P : State → Prop, Steady P → P s → P (tryFit a l.slot p.orientation p.x p.y s).1 ∧ P
      (tryFit a (((s.mirrorOf l).bind (·.2)).map Line.slot |>.getD 0) q.orientation q.x q.y
      ((tryFit a l.slot p.orientation p.x p.y s).1.coverFor a l.slot p.orientation p.x p.y)).1 := by
      intro P H hs
      have h1 := H.tryFit a l.slot p.orientation p.x p.y s hs
      exact ⟨h1, H.tryFit _ _ _ _ _ _ (H.coverFor _ a l.slot p.orientation p.x p.y h1)⟩
    obtain ⟨h1, h2⟩ := key _ steady_jb h
    obtain ⟨e1, e2⟩ := key _ (steady_joint (jointOf s)) rfl
    unfold placePairWork
    simp only
    split
    · exact jb_handFresh _ _ _ h1
    · split
      · exact jb_handFresh _ _ _ (steady_jb.unmarkCover _ _ _ _ _ _ h2)
      · split
        · exact steady_jb.unmarkCover _ _ _ _ _ _ h2
        · next t ht =>
          unfold reserveBoth at ht
          obtain ⟨u, hu, ht⟩ := Option.bind_eq_some_iff.1 ht
          obtain ⟨r1, r2, r3, r4⟩ := reserve_same hu
          obtain ⟨w1, w2, w3, w4⟩ := reserve_same ht
          have h3 := steady_jb.coverFor t a (((s.mirrorOf l).bind (·.2)).map Line.slot |>.getD 0) q.orientation q.x
            q.y (jb_reserve ht (jb_reserve hu h2))
          have e3 : jointOf (t.coverFor a (((s.mirrorOf l).bind (·.2)).map Line.slot |>.getD 0) q.orientation q.x q.y)
            = jointOf s := by
            refine (steady_joint (jointOf s)).coverFor t _ _ _ _ _ ?_
            exact ((joint_same w1 (by rw [w2]) w3 (by rw [w4]) (by rw [w4])).trans
              (joint_same r1 (by rw [r2]) r3 (by rw [r4]) (by rw [r4]))).trans e2
          refine jb_commitManual (fun k hk => ?_) (fun p hp => ?_) h3
          · rw [show k.state = g.state from congrArg Core.state (joint_state hg hk e3)]; simpa using hst
          · simp only [List.mem_cons, List.not_mem_nil, or_false] at hp
            rcases hp with rfl | rfl <;> simp [manualPlacement]

/-- DISCARD. -/
theorem jb_discard (slot : Nat) (s : State) (h : JointBut none s) : JointBut none (discardBody slot s).1 := by
  unfold discardBody
  refine onHide_state h fun g hg hst => ?_
  split
  · next hs =>
    obtain ⟨hch, _⟩ := no_channel h hg (by rw [hs]; decide) (by rw [hs]; decide)
    show JointBut none (s.beginDiscard slot .engine)
    refine ⟨Joint.ok_discardEngine (v := jointOf s) (slot := slot) (k := coreOf g) (rest_modHide _ hg) ?_ ?_ ?_ ?_ ?_
      (joint_hide hg) hs h.ok, drained_hides (by simp) h.dr, ?_⟩
    · simp [jointOf]
    · funext c; simp [jointOf, State.chan]
    · funext c; simp [jointOf, State.chan]
    · simp [jointOf]
    · simp [jointOf]
    · refine pl_modHide h.pl fun k hk => ?_
      rw [hg] at hk; cases hk; exact pj_none (fun p hp => no_ticket h hg hch p hp) (by simp)
  · next hs =>
    have hc := (jb_channel h hg).1.2 (.inl hs)
    obtain ⟨c, hc⟩ := Option.ne_none_iff_exists'.1 hc
    show JointBut none ((s.beginDiscard slot .channel).abortChannel g.channel)
    rw [hc]
    unfold State.abortChannel State.beginDiscard
    dsimp only
    have hr := rest_modHide (s := s) (fun h => { h with state := .discarding, route := some .channel }) hg
    refine ⟨Joint.ok_discardChannel (v := jointOf s) (slot := slot) (k := coreOf g) (c := c) ⟨hr.hide, hr.released⟩ ?_
      (fun d => ?_) ?_ ?_ ?_ (joint_hide hg) hs hc h.ok, drained_hides (by simp) h.dr, ?_⟩
    · simp [jointOf]
    · simp only [jointOf, chan_modChan]; split
      · rfl
      · simp [State.chan]
    · funext d; simp only [jointOf, chan_modChan]; split
      · next e => subst e; simp [State.chan]
      · simp [State.chan]
    · simp [jointOf]
    · simp [jointOf]
    · refine pl_modHide (f := fun h => { h with state := .discarding, route := some .channel }) h.pl fun k hk => ?_
      rw [hg] at hk; cases hk
      exact ⟨(h.pl slot g hg).1, by simp⟩
  · next h1 h2 =>
    have hnd : g.state ≠ .discarding := by intro e; rw [e] at hst; simp at hst
    obtain ⟨a, b⟩ := no_channel h hg (fun e => h2 e) hnd
    refine (jb_discarded hg h).1 a ?_
    simp [Hide.inPass, hnd]; exact fun e => h1 e

/-- FLAW. -/
theorem jb_flaw (slot : Nat) (f : Flaw) (s : State) (h : JointBut none s) : JointBut none (flawBody slot f s).1 := by
  unfold flawBody
  refine kept_onHide h fun g hg => kept_checked h ?_
  split
  · exact jb_put hg rfl rfl h
  · exact jb_put hg rfl rfl h
  · exact jb_settle _ _ (steady_jb.sweepFlaw _ _ _ (steady_jb.applyFlaw _ _ _ h))

/-- NEST. -/
theorem jb_nest (a : Nat) (steps : List StepReq) (s : State) (h : JointBut none s) :
    JointBut none (nestBody a steps s).1 := by
  unfold nestBody
  refine onHide_state h fun g hg hst => kept_checked h ?_
  have hst' : g.state = .mapped ∨ g.state = .nested := by simpa using hst
  obtain ⟨p, q⟩ := no_channel h hg (by rcases hst' with e | e <;> rw [e] <;> decide)
    (by rcases hst' with e | e <;> rw [e] <;> decide)
  have hr := rest_modHide (s := s) (fun h => { h with state := .nestWait }) hg
  rw [modHide_some _ hg] at hr
  refine ⟨Joint.ok_nest (v := jointOf s) (slot := a) (k := coreOf g) ⟨hr.hide, hr.released⟩ rfl rfl rfl ?_ rfl
    (joint_hide hg) ⟨p, q, ?_⟩ h.ok, h.dr, ?_⟩
  · show (s.engine.queue ++ _).map _ = _; simp [jointOf]
  · rcases hst' with e | e
    · exact .inr (.inr (.inl e))
    · exact .inr (.inr (.inr (.inl e)))
  · have := pl_modHide (f := fun h => { h with state := .nestWait }) h.pl (slot := a) fun k hk => by
      rw [hg] at hk; cases hk; exact pj_none (fun p' hp => no_ticket h hg p p' hp) (by simp)
    rw [modHide_some _ hg] at this; exact this

/-- Settings put in force. -/
theorem jb_putInForce (g : Settings) (s : State) (h : JointBut none s) : JointBut none (putInForce g s) := by
  have h1 : JointBut none { s with profile := { s.profile with settings := g } } := jb_same (s := s) rfl rfl rfl rfl h
  unfold putInForce
  dsimp only
  (repeat' split) <;> first
    | exact jb_evaluate _ (steady_jb.markEval _ h1)
    | exact jb_evaluate _ h1
    | exact steady_jb.markEval _ h1
    | exact h1

/-- One channel of those rewritten. -/
theorem chan_map (s : State) (f : Channel → Channel) (u : State) (h : u.chans = s.chans.map f) (c : Fin 4) :
    u.chan c = f (s.chan c) := by
  unfold State.chan; rw [h]; exact Vector.getElem_map f c.2

/-- Every channel rewritten, its hide and kind of state kept. -/
theorem jb_mapChans (u : State) (f : Channel → Channel) (h1 : u.hides = s.hides)
    (h2 : u.arbiter.waiting = s.arbiter.waiting) (h3 : u.chans = s.chans.map f) (h4 : u.engine = s.engine)
   (hf : ∀ ch, (f ch).hide = ch.hide ∧ (f ch).state.busy = ch.state.busy ∧
     ((f ch).state = .aborting ↔ ch.state = .aborting)) (h : JointBut none s) : JointBut none u := by
  have hc := chan_map s f u h3
  have hh : ∀ j, u.hide j = s.hide j := fun j => by unfold State.hide; rw [h1]
  refine ⟨Joint.ok_chan (v := jointOf s) ?_ h2 ?_ ?_ ?_ ?_ (fun c => ?_) h.ok, drained_hides h4 h.dr, fun j k hk =>
    h.pl j k (by rw [← hh]; exact hk)⟩
  · funext j; simp [jointOf, hh]
  · simp [jointOf, h1]
  · funext c; simp only [jointOf, hc]; exact (hf _).1
  · simp [jointOf, h4]
  · simp [jointOf, h4]
  · simp only [jointOf, hc]; exact (hf _).2

/-- HOLD. -/
theorem jb_hold (s : State) (h : JointBut none s) : JointBut none (holdBody s).1 := by
  refine jb_mapChans (s := s) _ Channel.held rfl rfl rfl rfl (fun ch => ?_) h
  unfold Channel.held
  cases hc : ch.state <;> simp [hc, ChannelState.busy, ChannelState.atWork]

/-- RUN. -/
theorem jb_run (s : State) (h : JointBut none s) : JointBut none (runBody s).1 := by
  refine jb_evaluate _ (jb_mapChans (s := s) _ (resumed s) rfl rfl rfl rfl (fun ch => ?_) h)
  unfold resumed
  cases hc : ch.state <;> simp [hc]
  generalize (ch.hide.bind s.hide).any Hide.anyPlaced = b
  cases b <;> decide

/-- The work of every request. -/
theorem jb_body (c : Instr) (s : State) (h : JointBut none s) : JointBut none (bodyOf c s).1 := by
  cases c
  case set =>
    show JointBut none (setBody _ _ s).1
    unfold setBody refuse
    (repeat' split) <;> first | exact h | exact jb_putInForce _ _ h
  case get =>
    show JointBut none (getBody _ s).1
    unfold getBody refuse
    split <;> exact h
  case save => exact kept_checked h (jb_same (s := s) rfl rfl rfl rfl h)
  case load => exact kept_checked h (jb_same (s := s) rfl rfl rfl rfl h)
  case defaults => exact jb_putInForce _ _ h
  case lineAdd => exact jb_same (s := s) (by simp [bodyOf]) (by simp [bodyOf]) (by simp [bodyOf]) (by simp [bodyOf]) h
  case pairAdd => exact jb_same (s := s) (by simp [bodyOf]) (by simp [bodyOf]) (by simp [bodyOf]) (by simp [bodyOf]) h
  case lineResize => exact jb_same (s := s) (by simp [bodyOf]) (by simp [bodyOf]) (by simp [bodyOf])
                       (by simp [bodyOf]) h
  case lineCancel => exact jb_same (s := s) (by simp [bodyOf]) (by simp [bodyOf]) (by simp [bodyOf])
                       (by simp [bodyOf]) h
  case lineRemove => exact jb_same (s := s) (by simp [bodyOf]) (by simp [bodyOf]) (by simp [bodyOf])
                       (by simp [bodyOf]) h
  case lineRead =>
    show JointBut none (lineReadBody _ s).1
    unfold lineReadBody refuse
    split <;> exact h
  case pieceDefine => exact jb_same (s := s) (by simp [bodyOf]) (by simp [bodyOf]) (by simp [bodyOf])
                        (by simp [bodyOf]) h
  case variantDefine => exact jb_same (s := s) (by simp [bodyOf]) (by simp [bodyOf]) (by simp [bodyOf])
                          (by simp [bodyOf]) h
  case variantRows => exact jb_same (s := s) (by simp [bodyOf]) (by simp [bodyOf]) (by simp [bodyOf])
                        (by simp [bodyOf]) h
  case pieceReady => exact jb_same (s := s) (by simp [bodyOf]) (by simp [bodyOf]) (by simp [bodyOf])
                       (by simp [bodyOf]) h
  case pieceErase => exact jb_same (s := s) (by simp [bodyOf]) (by simp [bodyOf]) (by simp [bodyOf])
                       (by simp [bodyOf]) h
  case pieceRead => exact kept_checked h h
  case bankMode => exact jb_same (s := s) (by simp [bodyOf]) (by simp [bodyOf]) (by simp [bodyOf]) (by simp [bodyOf]) h
  case hideOpen =>
    show JointBut none (hideOpenBody _ _ _ _ s).1
    unfold hideOpenBody
    refine kept_checked h ?_
    split
    · exact h
    · next slot hs =>
      have hn : s.hide slot = none := by
        unfold freeHideSlot at hs
        have := List.find?_some hs
        simpa using this
      exact jb_new (s := s.clearHide slot) hn ⟨rfl, rfl, .inl rfl⟩ rfl rfl (steady_jb.clearHide _ _ h)
  case rows => exact kept_onHide h fun _ _ => kept_checked h (jb_layRows _ _ _ _ _ h)
  case thickness =>
    show JointBut none (thicknessBody _ _ s).1
    unfold thicknessBody
    refine kept_onHide h fun g hg => kept_checked h (jb_put hg ?_ ?_ h)
    · exact foldl_keeps takeReading coreOf (fun _ _ => rfl) _ g
    · exact foldl_keeps takeReading Hide.placements (fun _ _ => rfl) _ g
  case flaw => exact jb_flaw _ _ _ h
  case flawsClear => exact kept_onHide h fun g hg => jb_put hg rfl rfl h
  case mapCommit =>
    refine onHide_state h fun g hg hst => ?_
    have hs : g.state = .mapping := by simpa using hst
    have := jb_idle (s := s) (slot := ‹Nat›) (f := fun k => { k with state := .committing }) (fun k hk => by
      rw [hg] at hk; cases hk
      obtain ⟨a, b⟩ := no_channel h hg (by rw [hs]; decide) (by rw [hs]; decide)
      exact ⟨⟨a, b, .inl hs⟩, ⟨a, b, .inr (.inl rfl)⟩, rfl, pj_none (fun p hp => no_ticket h hg a p hp) (by simp)⟩) h
    rw [modHide_some _ hg] at this; exact this
  case hideRead => exact kept_checked h h
  case placementsRead => exact kept_onHide h fun _ _ => kept_checked h h
  case discard => exact jb_discard _ _ h
  case close =>
    refine onHide_state h fun g hg hst => steady_jb.clearHide _ _ (jb_close hg (by simpa using hst) h)
  case nest => exact jb_nest _ _ _ h
  case place => exact jb_place _ _ _ _ _ _ h
  case placePair => exact jb_placePair _ _ _ _ _ h
  case strike =>
    exact kept_onHide h fun g hg => kept_checked h (jb_settle _ _ (steady_jb.strike _ _ _ h))
  case release =>
    refine onHide_state h fun g hg hst => kept_checked h (jb_evaluate _ ?_)
    exact jb_release hg (by simpa using hst) h
  case hold => exact jb_hold _ h
  case run => exact jb_run _ h
  case cutterEnable => exact kept_onChannel h fun c => jb_enterService _ _ (jb_chan' _ _ _ (fun _ => ⟨rfl, rfl⟩) h)
  case cutterDisable =>
    refine kept_onChannel h fun c => ?_
    split
    · exact h
    · next hb =>
      refine jb_chan (f := fun ch =>
        { ch with enabled := false, state := if ch.state = .idle then .stopped else ch.state }) ?_ rfl h
      simp only
      split
      · next e => rw [e]; simp [ChannelState.busy, ChannelState.atWork]
      · simp
  case cutterReset => exact kept_onChannel h fun c => jb_cutterReset _ _ h
  case cutterRead => exact kept_onChannel h fun _ => h
  case attnRead => exact kept_checked h h
  case attnClear =>
    show JointBut none (attnClearBody _ _ s).1
    unfold attnClearBody
    refine kept_checked h ?_
    show JointBut none (clearListed _ _ _)
    unfold clearListed
    split
    · exact jb_same (s := s) (by rw [clearNotices_eq]) (by rw [clearNotices_eq]) (by rw [clearNotices_eq])
        (by rw [clearNotices_eq]) h
    · exact jb_same (s := s) rfl rfl rfl rfl h
  case ready =>
    show JointBut none (readyBody _ s).1
    unfold readyBody
    simp only
    have h1 : ∀ c, JointBut none (s.modChan c fun ch => { ch with ready := true }) := fun c => jb_chan' _ _ _
      (fun _ => ⟨rfl, rfl⟩) h
    split
    · exact jb_enterService _ _ (steady_jb.raise _ _ (h1 _))
    · exact h
    · exact steady_jb.raise _ _ (h1 _)
    all_goals exact jb_channelFault _ _ _ _ h
  case cutReport =>
    show JointBut none (cutReportBody _ _ _ _ _ s).1
    unfold cutReportBody
    split
    · exact h
    · split
      · exact jb_resolveReport _ _ _ _ _ _ h
      · exact steady_jb.raise _ _ h
  case cutterFault => exact jb_channelFault _ _ _ _ h
  all_goals exact h

/-- The machine after reset. -/
theorem reset_joined : JointBut none State.reset := by
  rw [← joined_iff]
  have hn : ∀ slot, State.reset.hide slot = none := fun _ => rfl
  have hw : State.reset.arbiter.waiting = [] := rfl
  have hq : State.reset.engine.queue = [] := rfl
  have hp : State.reset.engine.pass = none := rfl
  refine ⟨⟨fun slot => ?_, List.Pairwise.nil⟩, ⟨?_, ?_, ?_⟩, ⟨by decide, fun c slot => ?_, ?_⟩,
    ⟨List.nodup_nil, fun slot => ?_, fun slot => ?_, ?_⟩, ?_⟩
  · simp [hn, hw, hq, hp]
  · simp [hn]
  · simp [hn]
  · simp [hn]
  · simp only [hn]
    have : ∀ c, (State.reset.chan c).hide = none := by decide
    simp [this]
  · simp [hn]
  · simp [hn, hw, hq, hp]
  · simp [hn, hw, hq, hp]
  · intro p hp; cases hp
  · simp [hn]

end Sys2Proof.Laws
end

