-- ==== Sys2Proof/Laws/Lines.lean ====
section
/-! SUPPORT. The claims and the requests of the order book keep its lines sound. -/

set_option linter.unusedSectionVars false
set_option linter.unusedSimpArgs false
set_option linter.unusedVariables false

namespace Sys2Proof.Laws

open Sys2Proof.Machine

/-- A reserve. -/
theorem lines_reserve : ∀ (s t : State)
    (id : Nat), s.claimReserve id = some t → s.linesSound = true → t.linesSound = true := by
  intro s t id he h
  unfold State.claimReserve at he
  split at he
  · cases he
  · next l hl =>
    split at he
    · next hc =>
      cases he
      unfold State.canReserve at hc
      simp only [Bool.and_eq_true, decide_eq_true_eq] at hc
      obtain ⟨a, b⟩ := line_sound hl h
      have := sound_counts a
      refine linesSound_putLine hl rfl ?_ (by simpa [Line.noticeSound, Line.finished] using b) h
      unfold Line.sound; simp [hc.1]; have := this.2.2.1 hc.1; omega
    · cases he

/-- A resolve. -/
theorem lines_resolve : ∀ (s : State) (id : Nat), s.linesSound = true → (s.claimResolve id).linesSound = true := by
  intro s id h
  unfold State.claimResolve
  split
  · exact h
  · next l hl =>
    have := sound_counts (line_sound hl h).1
    split
    · exact h
    · next hr =>
      split
      · next hx => exact linesSound_settleLine (l := l) hl rfl h rfl rfl (by simp [Line.finished, hx])
                     (by simp; omega) (by simp; omega) (fun e => by simp; have := this.2.2.1 hx; omega)
                     (fun e => by simp [hx] at e)
      · next hx => exact linesSound_settleLine (l := l) hl rfl h rfl rfl (by simp [Line.finished, hx])
                     (by simp; omega) (by simp; omega) (fun e => by simp [hx] at e)
                     (fun e => by simp; have := this.2.2.2 hx; omega)
      · exact h
      · exact h

/-- A return. -/
theorem lines_return : ∀ (s : State) (id : Nat), s.linesSound = true → (s.claimReturn id).linesSound = true := by
  intro s id h
  unfold State.claimReturn
  split
  · exact h
  · next l hl =>
    have := sound_counts (line_sound hl h).1
    split
    · exact h
    · next hr =>
      split
      · next hx => exact linesSound_settleLine (l := l) hl rfl h rfl rfl (by simp [Line.finished, hx])
                     (by simp; omega) (by simp; omega) (fun e => by simp; have := this.2.2.1 hx; omega)
                     (fun e => by simp [hx] at e)
      · next hx => exact linesSound_settleLine (l := l) hl rfl h rfl rfl (by simp [Line.finished, hx])
                     (by simp; have := this.2.2.2 hx; omega) (by simp; omega) (fun e => by simp [hx] at e)
                     (fun e => by simp; have := this.2.2.2 hx; omega)
      · exact h
      · exact h

/-- LINE_ADD. -/
theorem lines_lineAdd : ∀ (s : State)
    (a b c d e : Nat), s.linesSound = true → (lineAddBody a b c d e s).1.linesSound = true := by
  intro s a b c d e h
  unfold lineAddBody
  refine checked_all (P := fun s => s.linesSound = true) h fun hc => ?_
  simp only [List.forall_mem_cons, orderedOk, Bool.and_eq_true, decide_eq_true_eq, Option.isNone_iff_eq_none] at hc
  exact linesSound_add hc.2.2.1 hc.2.1.1 hc.2.1.2 h

/-- PAIR_ADD. -/
theorem lines_pairAdd : ∀ (s : State)
    (a b c d n e f : Nat), s.linesSound = true → (pairAddBody a b c d n e f s).1.linesSound = true := by
  intro s a b c d n e f h
  unfold pairAddBody
  refine checked_all (P := fun s => s.linesSound = true) h fun hc => ?_
  simp only [List.forall_mem_cons, orderedOk, Bool.and_eq_true, decide_eq_true_eq, Option.isNone_iff_eq_none] at hc
  exact linesSound_addPair hc.1 hc.2.2.2.2.1 hc.2.2.2.2.2.1 hc.2.2.2.1.1 hc.2.2.2.1.2 h

/-- LINE_RESIZE. -/
theorem lines_lineResize : ∀ (s : State)
    (id n : Nat), s.linesSound = true → (lineResizeBody id n s).1.linesSound = true := by
  intro s id n h
  unfold lineResizeBody
  split
  · exact h
  · next l hl =>
    refine checked_all (P := fun s => s.linesSound = true) h fun hc => ?_
    simp only [List.forall_mem_cons, orderedOk, Bool.and_eq_true, decide_eq_true_eq] at hc
    obtain ⟨c1, c2, ⟨c3, c4⟩, c5, c6, _⟩ := hc
    have h1 := linesSound_resizeLine hl c1 c3 c4 c5 h
    unfold State.onPair
    dsimp only
    split
    · exact h1
    · next p hp =>
      have hm := (((linesSound_iff s).1 h).2 id l hl).2.2 p hp
      obtain ⟨hne, m, hm, _⟩ := hm
      unfold State.mirrorOf at c2 c6
      simp only [hp, hm, onMirror, Option.map_some, Option.all_some, Option.any_some, decide_eq_true_eq] at c2 c6
      exact linesSound_resizeLine (l := m) ((line_resizeLine_other s hne).trans hm) c2 c3 c4 c6 h1

/-- LINE_CANCEL. -/
theorem lines_lineCancel : ∀ (s : State)
    (id : Nat), s.linesSound = true → (lineCancelBody id s).1.linesSound = true := by
  intro s id h
  unfold lineCancelBody
  split
  · exact h
  · next l hl =>
    refine kept_checked (P := fun s => s.linesSound = true) h ?_
    unfold State.onPair
    dsimp only
    split
    · exact linesSound_cancelLine _ _ h
    · exact linesSound_cancelLine _ _ (linesSound_cancelLine _ _ h)

/-- LINE_REMOVE. -/
theorem lines_lineRemove : ∀ (s : State)
    (id : Nat), s.linesSound = true → (lineRemoveBody id s).1.linesSound = true := by
  intro s id h
  unfold lineRemoveBody
  split
  · exact h
  · next l hl =>
    refine kept_checked (P := fun s => s.linesSound = true) h ?_
    have hb := (linesSound_iff s).1 h
    unfold State.onPair
    dsimp only
    split
    · next hp =>
      rw [linesSound_iff]
      refine ⟨sorted_del _ hb.1, fun k m hm => ?_⟩
      by_cases hk : k = id
      · subst hk; rw [line_dropLine_self] at hm; cases hm
      rw [line_dropLine_other _ hk] at hm
      obtain ⟨a, b, c⟩ := hb.2 k m hm
      refine ⟨a, b, fun p hpp => ?_⟩
      obtain ⟨d, r, hr, e⟩ := c p hpp
      refine ⟨d, r, ?_, e⟩
      rw [line_dropLine_other _ (by intro e2; rw [e2, hl] at hr; cases hr; rw [hp] at e; cases e)]; exact hr
    · next q hq =>
      obtain ⟨hne, m0, hm0, hp0⟩ := (hb.2 id l hl).2.2 q hq
      rw [linesSound_iff]
      refine ⟨sorted_del _ (sorted_del _ hb.1), fun k m hm => ?_⟩
      by_cases hk : k = q.mirror
      · subst hk; rw [line_dropLine_self] at hm; cases hm
      rw [line_dropLine_other _ hk] at hm
      by_cases hk2 : k = id
      · subst hk2; rw [line_dropLine_self] at hm; cases hm
      rw [line_dropLine_other _ hk2] at hm
      obtain ⟨a, b, c⟩ := hb.2 k m hm
      refine ⟨a, b, fun p hpp => ?_⟩
      obtain ⟨d, r, hr, e⟩ := c p hpp
      refine ⟨d, r, ?_, e⟩
      rw [line_dropLine_other _ ?_, line_dropLine_other _ ?_]
      · exact hr
      · intro e2; rw [e2, hl] at hr; cases hr; rw [hq] at e; cases e; exact hk rfl
      · intro e2; rw [e2, hm0] at hr; cases hr; rw [hp0] at e; simp at e; exact hk2 e.1.symm

/-- Notices cleared. -/
theorem lines_clear (s : State) (ids : List Nat) (h : s.linesSound = true) : (s.clearNotices ids).linesSound = true :=
  foldl_inv State.clearNotice (fun s => s.linesSound = true) (fun s i hs => linesSound_clearNotice s i hs) ids s h

end Sys2Proof.Laws
end

