-- ==== Sys2Proof/Laws/Draws.lean ====
section
/-! SUPPORT. What draws on a line: claims, returns and withdrawals keep every reserved count the number of its draws. -/

set_option linter.unusedSectionVars false
set_option linter.unusedSimpArgs false
set_option linter.unusedVariables false

namespace Sys2Proof.Laws

open Sys2Proof.Machine

variable {s t : State}

/-- The reserved count of a line, 0 where the id is free. -/
def reservedOf (s : State) (j : Nat) : Nat := ((s.line j).map Line.reserved).getD 0
/-- One unit on unitOf line. -/
def unitOf (id j : Nat) : Nat := if j = id then 1 else 0
/-- What the placements of a hide table draw on a line. -/
def tabDraws (t : Tab Hide) (id : Nat) : Nat := (t.map fun e => e.2.placements.countP (Placement.draws id)).sum
/-- What the engine's stack draws on a line. -/
def stackDraws (s : State) (id : Nat) :
    Nat := ((s.engine.pass.map Pass.stack).getD []).countP fun e => decide (e.line = id)

/-- What draws on a line. -/
theorem draws_eq (s : State) (id : Nat) : s.draws id = tabDraws s.hides.slots id + stackDraws s id := rfl

/-- A hide of the table written. -/
theorem tabDraws_put {t : Tab Hide} {slot : Nat} {g : Hide} (k : Hide) (id : Nat) (hs : Tab.sorted t = true)
    (hg : Tab.get t slot = some g) :
    tabDraws (Tab.put t slot k) id + g.placements.countP (Placement.draws id) = tabDraws t id + k.placements.countP
      (Placement.draws id) := by
  unfold tabDraws
  induction t with
  | nil => cases hg
  | cons e t ih =>
    obtain ⟨j, b⟩ := e
    rw [sorted_cons] at hs
    simp only [Tab.get] at hg
    by_cases hj : j = slot
    · subst hj
      simp only [if_true, Option.some.injEq] at hg
      subst hg
      simp only [Tab.put, lt_irrefl, if_false, if_true, List.map_cons, List.sum_cons]
      omega
    · rw [if_neg hj] at hg
      have := hs.1 _ (mem_of_get hg)
      have hlt : ¬ slot < j := by simp only at this; omega
      have := ih hs.2 hg
      simp only [Tab.put, hlt, if_false, hj, List.map_cons, List.sum_cons]
      omega

/-- A hide added to the table. -/
theorem tabDraws_new {t : Tab Hide} {slot : Nat} (k : Hide) (id : Nat) (hg : Tab.get t slot = none) :
    tabDraws (Tab.put t slot k) id = tabDraws t id + k.placements.countP (Placement.draws id) := by
  unfold tabDraws
  induction t with
  | nil => simp [Tab.put]
  | cons e t ih =>
    obtain ⟨j, b⟩ := e
    simp only [Tab.get] at hg
    by_cases hj : j = slot
    · simp [hj] at hg
    · rw [if_neg hj] at hg
      have := ih hg
      simp only [Tab.put, hj, if_false]
      split
      · simp only [List.map_cons, List.sum_cons]; omega
      · simp only [List.map_cons, List.sum_cons]; omega

/-- A hide of the table freed. -/
theorem tabDraws_del {t : Tab Hide} {slot : Nat} {g : Hide} (id : Nat) (hs : Tab.sorted t = true)
    (hg : Tab.get t slot = some g) :
    tabDraws (Tab.del t slot) id + g.placements.countP (Placement.draws id) = tabDraws t id := by
  unfold tabDraws
  induction t with
  | nil => cases hg
  | cons e t ih =>
    obtain ⟨j, b⟩ := e
    rw [sorted_cons] at hs
    simp only [Tab.get] at hg
    by_cases hj : j = slot
    · subst hj
      simp only [if_true, Option.some.injEq] at hg
      subst hg
      have : Tab.del ((j, b) :: t) j = t := by
        simp only [Tab.del, List.filter_cons, ne_eq, not_true, decide_false, Bool.false_eq_true, if_false]
        rw [List.filter_eq_self]
        intro e he
        have := hs.1 e he
        simp only [ne_eq, decide_eq_true_eq]; omega
      rw [this, List.map_cons, List.sum_cons]; exact Nat.add_comm _ _
    · rw [if_neg hj] at hg
      have := ih hs.2 hg
      have hd : Tab.del ((j, b) :: t) slot = (j, b) :: Tab.del t slot := by
        simp only [Tab.del, List.filter_cons, ne_eq, hj, not_false_eq_true, decide_true, if_true]
      rw [hd]
      simp only [List.map_cons, List.sum_cons]; omega

/-- A count over a list with unitOf element changed. -/
theorem countP_modify {α} (q : α → Bool) (f : α → α) (l : List α) (i : Nat) (p : α) (h : l[i]? = some p) :
    (l.modify i f).countP q + (if q p then 1 else 0) = l.countP q + (if q (f p) then 1 else 0) := by
  induction l generalizing i with
  | nil => cases h
  | cons a t ih =>
    cases i with
    | zero =>
      simp only [List.getElem?_cons_zero, Option.some.injEq] at h
      subst h
      simp only [List.modify_zero_cons, List.countP_cons]; omega
    | succ i =>
      simp only [List.getElem?_cons_succ] at h
      have := ih i h
      simp only [List.modify_succ_cons, List.countP_cons]; omega

/-- The part of the books that this is about. -/
structure Drawing (s : State) : Prop where
  lines : s.linesSound = true
  sorted : Tab.sorted s.hides.slots = true
  drawn : s.drawn

/-- The reserved count of a line. -/
theorem ds_eq (h : Drawing s) (id : Nat) : reservedOf s id = s.draws id := h.drawn id

/-- Only the hides and the pass matter. -/
theorem draws_same (h1 : t.hides = s.hides) (h2 : t.engine.pass = s.engine.pass) (id : Nat) :
    t.draws id = s.draws id := by
  rw [draws_eq, draws_eq]; unfold stackDraws; rw [h1, h2]

/-- Only the book, the hides and the pass matter. -/
theorem ds_same (h0 : t.book = s.book) (h1 : t.hides.slots = s.hides.slots) (h2 : t.engine.pass = s.engine.pass)
    (h : Drawing s) : Drawing t := by
  refine ⟨linesSound_same h0 h.lines, by rw [h1]; exact h.sorted, fun id => ?_⟩
  have := h.drawn id
  rw [draws_eq] at *
  unfold stackDraws State.line at *
  rw [h0, h1, h2]; exact this

/-- What writing a hide does. -/
theorem draws_modHide {slot : Nat} {g : Hide} (f : Hide → Hide) (hs : Tab.sorted s.hides.slots = true)
    (hg : s.hide slot = some g) (id : Nat) :
    (s.modHide slot f).draws id + g.placements.countP (Placement.draws id) = s.draws id + (f g).placements.countP
      (Placement.draws id) := by
  have := tabDraws_put (f g) id hs hg
  rw [modHide_some _ hg]
  rw [draws_eq, draws_eq]
  show tabDraws (Tab.put s.hides.slots slot (f g)) id + stackDraws s id + _ = _
  omega

/-- The hide table stays sorted. -/
theorem sorted_modHide (slot : Nat) (f : Hide → Hide) (h : Tab.sorted s.hides.slots = true) :
    Tab.sorted (s.modHide slot f).hides.slots = true := by
  cases hg : s.hide slot with
  | none => rw [modHide_none _ hg]; exact h
  | some g => rw [modHide_some _ hg]; exact sorted_put _ _ h

/-- A hide written whose placements draw as before. -/
theorem ds_modHide {slot : Nat} {f : Hide → Hide}
    (hf : ∀ g, s.hide slot = some g → ∀ id, (f g).placements.countP (Placement.draws id) = g.placements.countP
    (Placement.draws id)) (h : Drawing s) : Drawing (s.modHide slot f) := by
  refine ⟨linesSound_same (by simp) h.lines, sorted_modHide _ _ h.sorted, fun id => ?_⟩
  have e := h.drawn id
  cases hg : s.hide slot with
  | none => rw [modHide_none _ hg]; exact e
  | some g =>
    have := draws_modHide f h.sorted hg id
    have := hf g hg id
    rw [modHide_line]; omega

/-- A hide put whose placements stand. -/
theorem ds_putHide {slot : Nat} {g k : Hide} (hg : s.hide slot = some g) (hk : k.placements = g.placements)
    (h : Drawing s) : Drawing (s.putHide slot k) := by
  have := ds_modHide (s := s) (slot := slot) (f := fun _ => k)
    (fun g' hg' id => by rw [hg] at hg'; cases hg'; rw [hk]) h
  rw [modHide_some _ hg] at this; exact this

/-- A placement of a hide. -/
theorem placement_iff {slot i : Nat} {p : Placement} :
    s.placement slot i = some p ↔ ∃ g, s.hide slot = some g ∧ g.placements[i]? = some p := by
  unfold State.placement
  cases s.hide slot <;> simp

/-- What changing a placement does to the draws. -/
theorem draws_modPlacement {slot i : Nat} {p : Placement} (f : Placement → Placement)
    (hs : Tab.sorted s.hides.slots = true) (hp : s.placement slot i = some p) (id : Nat) :
    (s.modPlacement slot i f).draws id + (if p.draws id then 1 else 0) = s.draws id +
      (if (f p).draws id then 1 else 0) := by
  obtain ⟨g, hg, hi⟩ := placement_iff.1 hp
  have h1 := draws_modHide (fun h => { h with placements := h.placements.modify i f }) hs hg id
  have h2 := countP_modify (Placement.draws id) f g.placements i p hi
  show (s.modHide slot _).draws id + _ = _
  simp only at h1
  omega

/-- A placement changed that draws as before. -/
theorem ds_modPlacement {slot i : Nat} {f : Placement → Placement}
    (hf : ∀ p, s.placement slot i = some p → ∀ id, (f p).draws id = p.draws id) (h : Drawing s) : Drawing
    (s.modPlacement slot i f) := by
  refine ⟨linesSound_same (by simp) h.lines, sorted_modHide _ _ h.sorted, fun id => ?_⟩
  have e := h.drawn id
  rw [modPlacement_line]
  cases hp : s.placement slot i with
  | some p =>
    have := draws_modPlacement f h.sorted hp id
    rw [hf p hp id] at this; omega
  | none =>
    have : (s.modPlacement slot i f).draws id = s.draws id := by
      cases hg : s.hide slot with
      | none => show (s.modHide slot _).draws id = _; rw [modHide_none _ hg]
      | some g =>
        have hi : g.placements[i]? = none := by unfold State.placement at hp; rw [hg] at hp; exact hp
        have := draws_modHide (fun h => { h with placements := h.placements.modify i f }) h.sorted hg id
        have hm : g.placements.modify i f = g.placements := by
          apply List.ext_getElem?
          intro j
          rw [List.getElem?_modify]
          split
          · next e => subst e; rw [hi]; rfl
          · simp
        simp only [hm] at this
        show (s.modHide slot _).draws id = _
        omega
    rw [this]; exact e

/-! ### Claims -/

/-- The reserved count of a line in use. -/
theorem line_reservedOf {id : Nat} {l : Line} (hl : s.line id = some l) :
    reservedOf s id = l.reserved := by unfold reservedOf; rw [hl]; rfl

/-- The reserved counts after a line settled. -/
theorem settleLine_reservedOf (s : State) (id : Nat) (l : Line) (j : Nat) :
    reservedOf (s.settleLine id l) j = if j = id then l.reserved else reservedOf s j := by
  unfold reservedOf
  split
  · next e =>
    subst e
    unfold State.settleLine
    (repeat' split) <;> simp [line_putLine_at]
  · next e => rw [line_settleLine_other _ _ e]

/-- A return of a unit that the line has reserved. -/
theorem claimReturn_reservedOf (s : State) (id : Nat) (h : s.linesSound = true) (h1 : 1 ≤ reservedOf s id) (j : Nat) :
    reservedOf (s.claimReturn id) j + unitOf id j = reservedOf s j := by
  cases hl : s.line id with
  | none => unfold reservedOf at h1; rw [hl] at h1; simp at h1
  | some l =>
    have hr := line_reservedOf hl
    have hc := (line_sound hl h).1
    have key : reservedOf (s.claimReturn id) j = if j = id then l.reserved - 1 else reservedOf s j := by
      unfold State.claimReturn
      rw [hl]
      dsimp only
      rw [if_neg (by omega)]
      unfold Line.sound at hc
      cases hs : l.state <;> simp only [hs, Bool.and_eq_true, decide_eq_true_eq] at hc
      · simp only []; rw [settleLine_reservedOf]
      · simp only []; rw [settleLine_reservedOf]
      · omega
      · omega
    rw [key]; unfold unitOf; split
    · next e => subst e; omega
    · rfl

/-- A resolve of a unit that the line has reserved. -/
theorem claimResolve_reservedOf (s : State) (id : Nat) (h : s.linesSound = true) (h1 : 1 ≤ reservedOf s id)
    (j : Nat) : reservedOf (s.claimResolve id) j + unitOf id j = reservedOf s j := by
  cases hl : s.line id with
  | none => unfold reservedOf at h1; rw [hl] at h1; simp at h1
  | some l =>
    have hr := line_reservedOf hl
    have hc := (line_sound hl h).1
    have key : reservedOf (s.claimResolve id) j = if j = id then l.reserved - 1 else reservedOf s j := by
      unfold State.claimResolve
      rw [hl]
      dsimp only
      rw [if_neg (by omega)]
      unfold Line.sound at hc
      cases hs : l.state <;> simp only [hs, Bool.and_eq_true, decide_eq_true_eq] at hc
      · simp only []; rw [settleLine_reservedOf]
      · simp only []; rw [settleLine_reservedOf]
      · omega
      · omega
    rw [key]; unfold unitOf; split
    · next e => subst e; omega
    · rfl

/-- A reserve. -/
theorem claimReserve_reservedOf {id : Nat} (h : s.claimReserve id = some t) (j : Nat) :
    reservedOf t j = reservedOf s j + unitOf id j := by
  unfold State.claimReserve at h
  split at h
  · cases h
  · next l hl =>
    split at h
    · cases h
      unfold reservedOf unitOf
      by_cases e : j = id
      · subst e; rw [line_putLine_at, hl]; simp
      · rw [line_putLine_other _ _ e, if_neg e]; rfl
    · cases h

/-- A return changes no draw. -/
theorem draws_claimReturn (s : State) (id j : Nat) : (s.claimReturn id).draws j = s.draws j := draws_same (by simp)
    (by simp) j
/-- Cover unmarked changes no draw. -/
theorem draws_unmark (s : State) (a b c d e j : Nat) :
    (s.unmarkCover a b c d e).draws j = s.draws j := draws_same (by simp) (by simp) j

/-- A placement that drew on its line and no longer does, its unit returned. -/
theorem ds_return {slot i : Nat} {p : Placement} {f : Placement → Placement} {u : State}
    (hp : s.placement slot i = some p) (hd : p.state = .placed ∨ p.state = .ticketed)
    (hf : (f p).state ≠ .placed ∧ (f p).state ≠ .ticketed) (hu1 : u.book = (s.modPlacement slot i f).book)
      (hu2 : u.hides = (s.modPlacement slot i f).hides) (hu3 : u.engine.pass = s.engine.pass) (h : Drawing s) :
    Drawing (u.claimReturn p.line) ∧ Drawing (u.claimResolve p.line) := by
  have hdr : ∀ j, u.draws j + unitOf p.line j = s.draws j := by
    intro j
    have := draws_modPlacement f h.sorted hp j
    have e : u.draws j = (s.modPlacement slot i f).draws j := draws_same hu2 (by rw [hu3]; simp) j
    have e1 : (f p).draws j = false := by unfold Placement.draws; simp [hf.1, hf.2]
    have e2 : p.draws j = decide (p.line = j) := by
      unfold Placement.draws; rcases hd with e | e <;> simp [e]
    rw [e1, e2] at this
    unfold unitOf
    by_cases hj : j = p.line
    · subst hj; simp at this ⊢; omega
    · rw [if_neg hj]; simp [Ne.symm hj] at this; omega
  have hR : ∀ j, reservedOf u j = reservedOf s j :=
    by intro j; unfold reservedOf State.line; rw [hu1]; simp [State.modPlacement]
  have hl : u.linesSound = true := linesSound_same (by rw [hu1]; simp [State.modPlacement]) h.lines
  have h1 : 1 ≤ reservedOf u p.line := by
    rw [hR, ds_eq h]; have := hdr p.line; unfold unitOf at this; simp at this; omega
  have hso : Tab.sorted u.hides.slots = true := by rw [hu2]; exact sorted_modHide _ _ h.sorted
  refine ⟨⟨lines_return _ _ hl, by simpa using hso, fun j => ?_⟩,
    ⟨lines_resolve _ _ hl, by simpa using hso, fun j => ?_⟩⟩
  · have a := claimReturn_reservedOf u p.line hl h1 j
    have b := hdr j
    have c := ds_eq h j
    rw [draws_claimReturn]
    show reservedOf _ j = _
    rw [hR] at a; omega
  · have a := claimResolve_reservedOf u p.line hl h1 j
    have b := hdr j
    have c := ds_eq h j
    rw [draws_same (s := u) (by simp) (by simp) j]
    show reservedOf _ j = _
    rw [hR] at a; omega

/-- One strike. -/
theorem ds_strikeOne (s : State) (slot i : Nat) (h : Drawing s) : Drawing (s.strikeOne slot i) := by
  unfold State.strikeOne
  split
  · exact h
  · next p hp =>
    split
    · next hs =>
      have := (ds_return (f := fun q => { q with state := .struck })
        (u := (s.modPlacement slot i fun q => { q with state := .struck }).unmarkCover slot p.slot p.variant p.x p.y)
        hp (.inl hs) ⟨by simp, by simp⟩ (by simp) (by simp) (by simp) h).1
      exact ds_same (by simp) (by simp) (by simp) this
    · exact h

/-- What every command does beside its own effect keeps the draws. -/
theorem steady_ds : Steady Drawing where
  tape := fun s _ h => ds_same (s := s) rfl rfl rfl h
  links := fun s _ h => ds_same (s := s) rfl rfl rfl h
  sent := fun s _ h => ds_same (s := s) rfl rfl rfl h
  pending := fun s _ h => ds_same (s := s) rfl rfl rfl h
  attn := fun s _ _ h => ds_same (s := s) rfl rfl rfl h
  throttle := fun s _ h => ds_same (s := s) rfl rfl rfl h
  corrected := fun s _ h => ds_same (s := s) rfl rfl rfl h
  contents := fun s _ _ h => ds_same (s := s) rfl rfl rfl h
  covers := fun s _ _ h => ds_same (s := s) rfl rfl rfl h
  note := fun s slot f hf h => ds_modHide (fun g _ id => by rw [(hf g).2.2.2.1]) h
  strikeOne := fun s slot i h => ds_strikeOne s slot i h
  marker := fun s slot i b h => ds_modPlacement (fun p _ id => rfl) h

/-- A channel written. -/
theorem ds_chan (s : State) (c : Fin 4) (f : Channel → Channel) (h : Drawing s) :
    Drawing (s.modChan c f) := ds_same (by simp) (by simp) (by simp) h

/-- The evaluation. -/
theorem ds_evaluate (s : State) (h : Drawing s) : Drawing s.evaluate := by
  refine evaluate_keeps (P := Drawing) (fun s t h ht => ?_) s h
  obtain ⟨_, slot, c, n, _, _, rfl, _⟩ := nextGrant_facts ht
  exact ds_same (s := s.modHide slot fun h => { h with state := .cutting, channel := some c }) (by simp)
    (by rw [grant_hides]) (by simp) (ds_modHide (fun _ _ _ => rfl) h)

/-- A hide made DONE. -/
theorem ds_makeDone (s : State) (slot : Nat) (h : Drawing s) :
    Drawing (s.makeDone slot) := steady_ds.raise _ _ (ds_modHide (fun _ _ _ => rfl) h)

/-- The settling of a hide. -/
theorem ds_settle (s : State) (slot : Nat) (h : Drawing s) : Drawing (s.settle slot) := by
  unfold State.settle
  split
  · exact h
  · split
    · split
      · exact h
      · exact ds_makeDone _ _ (ds_same (s := s) rfl rfl rfl h)
    · split
      · exact h
      · split
        · exact ds_chan _ _ _ h
        · exact ds_evaluate _ (ds_makeDone _ _ (ds_chan _ _ _ h))
    · exact h

/-- A poisoned tile handed to its hide. -/
theorem ds_handPoison (s : State) (slot tile : Nat) (h : Drawing s) : Drawing (s.handPoison slot tile) := by
  unfold State.handPoison
  split
  · exact h
  · next g hg =>
    (repeat' split) <;> first
      | exact h
      | exact ds_settle _ _ (steady_ds.sweepTile _ _ _ h)
      | exact ds_putHide hg rfl h

/-- A newly poisoned tile, where there is unitOf. -/
theorem ds_handFresh (s : State) (slot : Nat) (fresh : Option Nat) (h : Drawing s) :
    Drawing (s.handFresh slot fresh) := by
  unfold State.handFresh
  split
  · exact h
  · exact ds_handPoison _ _ _ h

/-- A channel entering service. -/
theorem ds_enterService (s : State) (c : Fin 4) (h : Drawing s) : Drawing (s.enterService c) := by
  unfold State.enterService
  split
  · exact ds_evaluate _ (ds_chan _ _ _ h)
  · exact h

/-- A hide joins the waiting list. -/
theorem ds_join (s : State) (slot : Nat) (h : Drawing s) :
    Drawing (s.joinWaiting slot) := ds_same (s := s) rfl rfl rfl h

/-- A hide given back by its channel. -/
theorem ds_giveBack (s : State) (slot : Nat) (h : Drawing s) : Drawing (s.giveBack slot) := by
  unfold State.giveBack
  split
  · exact steady_ds.raise _ _ (ds_join _ _ (ds_modHide (fun _ _ _ => rfl) h))
  · exact ds_makeDone _ _ h

/-- One ticket returned: TICKETED to PLACED. -/
theorem ds_returnPlacement (s : State) (c : Fin 4) (slot i : Nat) (h : Drawing s) :
    Drawing (s.returnPlacement c slot i) := by
  refine ds_modPlacement (fun p _ id => ?_) h
  split
  · next ho =>
    unfold outOn at ho
    simp only [Bool.and_eq_true, decide_eq_true_eq] at ho
    unfold Placement.draws; simp [ho.1]
  · rfl

/-- Every ticket of a channel returned. -/
theorem ds_returnAll (s : State) (c : Fin 4) (slot : Nat) (h : Drawing s) : Drawing (s.returnAll c slot) :=
  steady_ds.returnChecks _ _ _ (foldl_inv (fun t i => State.returnPlacement c slot i t) Drawing
    (fun t i => ds_returnPlacement t c slot i) _ _ h)

/-! the end of a discard -/

/-- One withdrawal. -/
theorem ds_withdraw (s : State) (slot i : Nat) (h : Drawing s) : Drawing (State.withdraw slot s i) := by
  unfold State.withdraw
  split
  · exact h
  · next p hp =>
    split
    · next hs =>
      exact (ds_return (f := fun q => { q with state := .withdrawn })
        (u := (s.modPlacement slot i fun q => { q with state := .withdrawn }).unmarkCover slot p.slot p.variant p.x
        p.y) hp hs ⟨by simp, by simp⟩ (by simp) (by simp) (by simp) h).1
    · exact h

/-- A placement of a hide after withdrawals: no index of the list draws. -/
theorem withdraw_placement (s : State) (slot i j : Nat) :
    (State.withdraw slot s i).placement slot j = (s.placement slot j).map fun p => if j = i ∧
    (p.state = .placed ∨ p.state = .ticketed) then { p with state := .withdrawn } else p := by
  unfold State.withdraw
  have hmod : ∀ f : Placement → Placement, (s.modPlacement slot i f).placement slot j = (s.placement slot j).map fun p
    => if j = i then f p else p := by
    intro f
    unfold State.placement
    show (match (s.modHide slot _).hide slot with | none => none | some h => h.placements[j]?) = _
    rw [hide_modHide, if_pos rfl]
    cases s.hide slot with
    | none => rfl
    | some g =>
      simp only [Option.map_some]
      rw [List.getElem?_modify]
      by_cases e : i = j
      · subst e; cases g.placements[i]? <;> simp
      · cases g.placements[j]? <;> simp [e, Ne.symm e]
  have hsame : ∀ u : State, ∀ v : State, u.hides = v.hides → u.placement slot j = v.placement slot j := by
    intro u v h; unfold State.placement State.hide; rw [h]
  split
  · next hn =>
    cases hj : s.placement slot j with
    | none => rfl
    | some p =>
      have : j ≠ i := by rintro rfl; rw [hn] at hj; cases hj
      simp [this]
  · next p hp =>
    split
    · next hs =>
      rw [hsame _ (s.modPlacement slot i fun q => { q with state := .withdrawn }) (by simp), hmod]
      cases hj : s.placement slot j with
      | none => rfl
      | some q =>
        by_cases e : j = i
        · subst e; rw [hp] at hj; cases hj; simp [hs]
        · simp [e]
    · next hs =>
      cases hj : s.placement slot j with
      | none => rfl
      | some q =>
        by_cases e : j = i
        · subst e; rw [hp] at hj; cases hj; simp [hs]
        · simp [e]

/-- After the withdrawals no placement of the hide draws. -/
theorem withdrawAll_none (s : State) (slot : Nat) {g : Hide} (hg : (s.withdrawAll slot).hide slot = some g) :
    ∀ p ∈ g.placements, p.state ≠ .placed ∧ p.state ≠ .ticketed := by
  have key : ∀ (n : Nat) (t : State), ∀ j p, ((List.range n).foldl (State.withdraw slot) t).placement slot j = some p
    → j < n → p.state ≠ .placed ∧ p.state ≠ .ticketed := by
    intro n
    induction n with
    | zero => intro t j p _ hj; omega
    | succ n ih =>
      intro t j p hp hj
      rw [List.range_succ, List.foldl_append] at hp
      simp only [List.foldl_cons, List.foldl_nil] at hp
      rw [withdraw_placement] at hp
      obtain ⟨q, hq, e⟩ := Option.map_eq_some_iff.1 hp
      by_cases hc : j = n ∧ (q.state = .placed ∨ q.state = .ticketed)
      · rw [if_pos hc] at e; subst e; exact ⟨by simp, by simp⟩
      · rw [if_neg hc] at e; subst e
        by_cases hjn : j = n
        · simp only [hjn, true_and, not_or] at hc; exact hc
        · exact ih t j q hq (by omega)
  unfold State.withdrawAll at hg
  split at hg
  · next hn => rw [hn] at hg; cases hg
  · next h hh =>
    intro p hp
    obtain ⟨j, hj⟩ := List.getElem?_of_mem hp
    have hlen : ∀ t : State, ∀ i g, (State.withdraw slot t i).hide slot = some g → ∃ g0, t.hide slot = some g0 ∧
      g.placements.length = g0.placements.length := by
      intro t i g hg
      unfold State.withdraw at hg
      split at hg
      · exact ⟨g, hg, rfl⟩
      · split at hg
        · have : ((t.modHide slot fun h =>
            { h with placements := h.placements.modify i fun q => { q with state := .withdrawn } })).hide slot = some
            g := by
            rw [← hg]; unfold State.hide; simp [State.modPlacement]
          rw [hide_modHide, if_pos rfl] at this
          obtain ⟨g0, h0, rfl⟩ := Option.map_eq_some_iff.1 this
          exact ⟨g0, h0, by simp⟩
        · exact ⟨g, hg, rfl⟩
    have hl : ∀ (is : List Nat) (t : State) g, (is.foldl (State.withdraw slot) t).hide slot = some g → ∃ g0, t.hide
      slot = some g0 ∧ g.placements.length = g0.placements.length := by
      intro is
      induction is with
      | nil => intro t g hg; exact ⟨g, hg, rfl⟩
      | cons i is ih =>
        intro t g hg
        obtain ⟨g1, h1, e1⟩ := ih _ g hg
        obtain ⟨g0, h0, e0⟩ := hlen t i g1 h1
        exact ⟨g0, h0, e1.trans e0⟩
    obtain ⟨g0, h0, e0⟩ := hl _ _ _ hg
    rw [hh] at h0; cases h0
    refine key h.placements.length s j p (placement_iff.2 ⟨g, hg, hj⟩) ?_
    obtain ⟨hlt, _⟩ := List.getElem?_eq_some_iff.1 hj
    omega

/-- The claims of several stack entries. -/
theorem pops_reservedOf (slot : Nat) (es : List Entry) (s : State) (h : s.linesSound = true)
    (hc : ∀ j, es.countP (fun e => decide (e.line = j)) ≤ reservedOf s j) :
    (es.foldl (State.popEntry slot) s).linesSound = true ∧ ∀ j, reservedOf (es.foldl (State.popEntry slot) s) j +
      es.countP (fun e => decide (e.line = j)) = reservedOf s j := by
  induction es generalizing s with
  | nil => exact ⟨h, fun j => by simp⟩
  | cons e t ih =>
    have hu : (s.unmarkCover slot e.slot e.variant e.x e.y).linesSound = true := linesSound_same (by simp) h
    have hR : ∀ j, reservedOf (s.unmarkCover slot e.slot e.variant e.x e.y) j = reservedOf s j :=
      by intro j; unfold reservedOf State.line; simp
    have h1 : 1 ≤ reservedOf (s.unmarkCover slot e.slot e.variant e.x e.y) e.line := by
      rw [hR]; have := hc e.line; simp only [List.countP_cons, decide_true, if_true] at this; omega
    have hs := claimReturn_reservedOf _ e.line hu h1
    have hl := lines_return _ e.line hu
    obtain ⟨a, b⟩ := ih (State.popEntry slot s e) hl (fun j => by
      have := hc j; have := hs j; rw [hR] at this
      simp only [List.countP_cons] at *
      unfold unitOf at *
      show _ ≤ reservedOf (State.claimReturn e.line _) j
      by_cases hj : j = e.line
      · subst hj; simp at *; omega
      · simp [hj, Ne.symm hj] at *; omega)
    refine ⟨a, fun j => ?_⟩
    have := b j
    have := hs j
    rw [hR] at this
    have e2 : reservedOf (State.popEntry slot s e) j = reservedOf
      (State.claimReturn e.line (s.unmarkCover slot e.slot e.variant e.x e.y)) j := rfl
    rw [List.foldl_cons, List.countP_cons]
    unfold unitOf at *
    by_cases hj : j = e.line
    · subst hj; simp at *; omega
    · simp [hj, Ne.symm hj] at *; omega

/-- Popped entries leave hides and engine. -/
theorem pops_same (slot : Nat) (es : List Entry) (s : State) :
    (es.foldl (State.popEntry slot) s).hides = s.hides ∧ (es.foldl (State.popEntry slot) s).engine = s.engine :=
  foldl_inv (State.popEntry slot) (fun t => t.hides = s.hides ∧ t.engine = s.engine)
    (fun t e h => by simp [State.popEntry, h]) es s ⟨rfl, rfl⟩

/-- What the stack of a pass draws. -/
theorem stackDraws_of {p : Pass} (hp : s.engine.pass = some p) (j : Nat) :
    stackDraws s j = p.stack.countP fun e => decide (e.line = j) := by
  unfold stackDraws; rw [hp]; rfl

/-- The top entries popped. -/
theorem ds_pops (s : State) (slot : Nat) (p : Pass) (es rest : List Entry) (hp : s.engine.pass = some p)
    (he : p.stack = es ++ rest) (h : Drawing s) :
    Drawing ((es.foldl (State.popEntry slot) s).setStack rest) := by
  obtain ⟨e1, e2⟩ := pops_same slot es s
  have hcount : ∀ j, s.draws j = tabDraws s.hides.slots j + (es.countP (fun e => decide (e.line = j)) + rest.countP
    fun e => decide (e.line = j)) := by
    intro j; rw [draws_eq, stackDraws_of hp, he, List.countP_append]
  obtain ⟨a, b⟩ := pops_reservedOf slot es s h.lines (fun j => by rw [ds_eq h, hcount]; omega)
  refine ⟨linesSound_same rfl a, ?_, fun j => ?_⟩
  · show Tab.sorted (es.foldl (State.popEntry slot) s).hides.slots = true; rw [e1]; exact h.sorted
  · have := b j
    have := ds_eq h j
    have := hcount j
    have hs : ((es.foldl (State.popEntry slot) s).setStack rest).engine.pass = some { p with stack := rest } := by
      unfold State.setStack; rw [e2, hp]; rfl
    have hh : ((es.foldl (State.popEntry slot) s).setStack rest).hides = s.hides := by
      unfold State.setStack; exact e1
    have hb : ((es.foldl (State.popEntry slot) s).setStack rest).book = (es.foldl (State.popEntry slot) s).book := by
      unfold State.setStack; rfl
    have hd : ((es.foldl (State.popEntry slot) s).setStack rest).draws j = tabDraws s.hides.slots j + rest.countP fun
      e => decide (e.line = j) := by
      rw [draws_eq, stackDraws_of hs, hh]
    have hr : reservedOf ((es.foldl (State.popEntry slot) s).setStack rest) j = reservedOf
      (es.foldl (State.popEntry slot) s) j := by
      unfold reservedOf State.line; rw [hb]
    rw [hd]
    show reservedOf _ j = _
    rw [hr]
    omega

/-- The whole stack popped. -/
theorem ds_popAll (s : State) (slot : Nat) (h : Drawing s) : Drawing (s.popAll slot) := by
  unfold State.popAll
  split
  · exact h
  · next hne =>
    cases hp : s.engine.pass with
    | none => exact absurd (by unfold State.stackOf; rw [hp]; rfl) hne
    | some p =>
      have hs : s.stackOf slot = p.stack := by
        unfold State.stackOf at hne ⊢
        rw [hp] at hne ⊢
        simp only at hne ⊢
        split at hne
        · next e => rw [if_pos e]
        · exact absurd rfl hne
      rw [hs]
      exact ds_pops s slot p p.stack [] hp (by simp) h

/-- The top entry popped. -/
theorem ds_popTop (s : State) (slot : Nat) (h : Drawing s) : Drawing (s.popTop slot) := by
  unfold State.popTop
  split
  · exact h
  · next e rest hst =>
    cases hp : s.engine.pass with
    | none => unfold State.stackOf at hst; rw [hp] at hst; cases hst
    | some p =>
      have hs : p.stack = e :: rest := by
        unfold State.stackOf at hst
        rw [hp] at hst
        simp only at hst
        split at hst
        · exact hst
        · cases hst
      exact ds_pops s slot p [e] rest hp (by rw [hs]; rfl) h

/-- A slot freed whose placements draw on no line. -/
theorem ds_freeSlot {slot : Nat}
    (hn : ∀ g, s.hide slot = some g → ∀ p ∈ g.placements, p.state ≠ .placed ∧ p.state ≠ .ticketed) (h : Drawing s) :
    Drawing (s.freeSlot slot) := by
  cases hg : s.hide slot with
  | none =>
    have : s.freeSlot slot = s := by unfold State.freeSlot; rw [hg]
    rw [this]; exact h
  | some g =>
    rw [freeSlot_eq hg]
    refine steady_ds.releaseEval _ ⟨linesSound_same rfl h.lines, sorted_del _ h.sorted, fun j => ?_⟩
    have h0 : g.placements.countP (Placement.draws j) = 0 := by
      rw [List.countP_eq_zero]
      intro p hp hd
      unfold Placement.draws at hd
      have := hn g hg p hp
      simp [this.1, this.2] at hd
    have h1 := tabDraws_del j h.sorted hg
    have h2 := ds_eq h j
    rw [draws_eq] at h2 ⊢
    show reservedOf s j = tabDraws (Tab.del s.hides.slots slot) j + stackDraws s j
    omega

/-- The end of a discard. -/
theorem ds_completeDiscard (s : State) (slot : Nat) (h : Drawing s) : Drawing (s.completeDiscard slot) := by
  have h1 : Drawing (s.withdrawAll slot) := by
    unfold State.withdrawAll
    split
    · exact h
    · exact foldl_inv (State.withdraw slot) Drawing (fun t i => ds_withdraw t slot i) _ _ h
  have h2 := ds_popAll _ slot h1
  refine steady_ds.raise _ _ (steady_ds.clearHide _ _ (ds_freeSlot (fun g hg => ?_)
    (ds_same (s := (s.withdrawAll slot).popAll slot) rfl rfl rfl h2)))
  refine withdrawAll_none s slot (g := g) ?_
  have e : ((((s.withdrawAll slot).popAll slot).leaveQueue slot).leaveWaiting slot).hide slot =
    (s.withdrawAll slot).hide slot := by
    unfold State.hide; simp
  rw [← e]; exact hg

/-- A channel lets its hide go. -/
theorem ds_letGo (s : State) (c : Fin 4) (h : Drawing s) : Drawing (s.letGo c) := by
  unfold State.letGo
  split
  · exact h
  · split
    · exact ds_giveBack _ _ (ds_returnAll _ _ _ h)
    · split
      · exact ds_completeDiscard _ _ h
      · exact h

/-- A channel fault. -/
theorem ds_channelFault (s : State) (c : Fin 4) (cause : FaultCause) (code : Nat) (h : Drawing s) :
    Drawing (s.channelFault c cause code) := by
  have h1 : Drawing ((((s.letGo c).clearWork c .faulted).recordFault c cause code).raise (.channel c .fault)) :=
    steady_ds.raise _ _ (ds_chan _ _ _ (ds_chan _ _ _ (ds_letGo s c h)))
  unfold State.channelFault
  dsimp only
  split
  · exact ds_evaluate _ h1
  · exact h1

/-- CUTTER_RESET. -/
theorem ds_cutterReset (s : State) (c : Fin 4) (h : Drawing s) : Drawing (s.cutterReset c) := by
  have h1 : Drawing (((s.letGo c).clearWork c (s.resetState c)).modChan c fun ch =>
    { ch with ready := s.readyKept c, ticketCounter := 1 }) :=
    ds_chan _ _ _ (ds_chan _ _ _ (ds_letGo s c h))
  unfold State.cutterReset
  dsimp only
  split
  · exact ds_evaluate _ h1
  · exact h1

/-- The end of an abort. -/
theorem ds_endAbort (s : State) (c : Fin 4) (h : Drawing s) : Drawing (endAbort c s) := by
  unfold endAbort
  split
  · exact h
  · exact ds_chan _ _ _ (ds_completeDiscard _ _ h)

/-- One ticket resolved. -/
theorem ds_resolve (s : State) (slot i : Nat) (o : CutOutcome) (r : Nat × Nat)
    (hp : ∀ p, s.placement slot i = some p → p.state = .ticketed) (h : Drawing s) : Drawing (s.resolve slot i o r) := by
  unfold State.resolve
  split
  · exact h
  · next p hpp =>
    have ht := hp p hpp
    split
    · exact (ds_return (f := fun q => { q with state := .cut })
        (u := s.modPlacement slot i fun q => { q with state := .cut }) hpp (.inr ht) ⟨by simp, by simp⟩ rfl rfl
        (by simp) h).2
    · exact (ds_return (f := fun q => { q with state := .spoiled })
        (u := s.modPlacement slot i fun q => { q with state := .spoiled }) hpp (.inr ht) ⟨by simp, by simp⟩ rfl rfl
        (by simp) h).1
    · exact (ds_return (f := fun q => { q with state := .skipped, reason := some r })
        (u := (s.modPlacement slot i fun q => { q with state := .skipped, reason := some r }).unmarkCover slot p.slot
        p.variant p.x p.y) hpp (.inr ht) ⟨by simp, by simp⟩ (by simp) (by simp) (by simp) h).1

/-- A ticket found at work is TICKETED. -/
theorem found_ticketed {c : Fin 4} {n slot i : Nat} (hf : s.findAtWork c n = some (slot, i)) (h : JointBut none s) :
    ∀ p, s.placement slot i = some p → p.state = .ticketed := by
  obtain ⟨g, hg, _, _, p, hp, ht⟩ := findAtWork_spec hf h
  intro q hq
  have := placement_iff.2 ⟨g, hg, hp⟩
  rw [hq] at this; cases this; exact ht

/-- A ticket still out is TICKETED. -/
theorem still_ticketed {c : Fin 4} {t : TicketRef} {slot : Nat} (hf : s.findTicket c t = some slot)
    (h : JointBut none s) : ∀ p, s.placement slot t.index = some p → p.state = .ticketed := by
  obtain ⟨g, hg, _, _, p, hp, ht⟩ := findTicket_spec hf h
  intro q hq
  have := placement_iff.2 ⟨g, hg, hp⟩
  rw [hq] at this; cases this; exact ht

/-- A CUT report that resolves a ticket. -/
theorem ds_resolveReport (s : State) (c : Fin 4) (t : TicketRef) (slot : Nat) (o : CutOutcome) (r : Nat × Nat)
    (hp : ∀ p, s.placement slot t.index = some p → p.state = .ticketed) (h : Drawing s) : Drawing
    (s.resolveReport c t slot o r) :=
  ds_settle _ _ (ds_chan _ _ _ (ds_chan _ _ _ (ds_resolve _ _ _ _ _ hp h)))

end Sys2Proof.Laws
end

