-- ==== Sys2Proof/Laws/DrawsRuns.lean ====
section
/-! SUPPORT. The requests and the events of the engine and the channels keep the draws. -/

set_option linter.unusedSectionVars false
set_option linter.unusedSimpArgs false
set_option linter.unusedVariables false

namespace Sys2Proof.Laws

open Sys2Proof.Machine

variable {s t : State}

/-! ### The book's requests -/

/-- Only the line's record matters. -/
theorem reservedOf_line {id : Nat} {u : State} (h : u.line id = s.line id) :
    reservedOf u id = reservedOf s id := by unfold reservedOf; rw [h]

/-- The book rewritten with its reserved counts. -/
theorem ds_book (h0 : t.linesSound = true) (h1 : t.hides = s.hides) (h2 : t.engine = s.engine)
    (hr : ∀ j, reservedOf t j = reservedOf s j) (h : Drawing s) : Drawing t := by
  refine ⟨h0, by rw [h1]; exact h.sorted, fun j => ?_⟩
  have := ds_eq h j
  rw [draws_same h1 (by rw [h2])]
  show reservedOf t j = _
  rw [hr]; exact this

/-- A line put with its reserved count. -/
theorem reservedOf_put {id : Nat} {k : Line} (hk : k.reserved = reservedOf s id) (j : Nat) :
    reservedOf (s.putLine id k) j = reservedOf s j := by
  by_cases e : j = id
  · subst e; unfold reservedOf at hk ⊢; rw [line_putLine_at]; simpa using hk
  · exact reservedOf_line (line_putLine_other _ _ e)

/-- A resize of unitOf line. -/
theorem reservedOf_resizeLine (s : State) (n id j : Nat) : reservedOf (resizeLine n id s) j = reservedOf s j := by
  unfold resizeLine
  split
  · rfl
  · next l hl =>
    rw [settleLine_reservedOf]
    split
    · next e => subst e; rw [line_reservedOf hl]
    · rfl

/-- A cancel of unitOf line. -/
theorem reservedOf_cancelLine (s : State) (id j : Nat) : reservedOf (cancelLine id s) j = reservedOf s j := by
  unfold cancelLine
  split
  · rfl
  · next l hl =>
    split
    · split
      · unfold State.raiseNotice
        have hf : ∀ j, reservedOf s.frameDue j = reservedOf s j := by
          intro j; rw [frameDue_eq]; rfl
        rw [reservedOf_put (by rw [hf, line_reservedOf hl]) j, hf]
      · exact reservedOf_put (by rw [line_reservedOf hl]) j
    · rfl

/-- A request on a line and its mirror. -/
theorem reservedOf_onPair {f : Nat → State → State} (hf : ∀ s id j, reservedOf (f id s) j = reservedOf s j)
    (s : State) (id : Nat) (l : Line) (j : Nat) : reservedOf (s.onPair id l f) j = reservedOf s j := by
  unfold State.onPair
  split
  · exact hf _ _ _
  · rw [hf, hf]

/-- A free id has none reserved. -/
theorem reservedOf_free {id : Nat} (h : s.line id = none) : reservedOf s id = 0 := by unfold reservedOf; rw [h]; rfl

/-- A finished line has none reserved. -/
theorem finished_reservedOf {id : Nat} {l : Line} (hl : s.line id = some l) (hf : l.finished = true)
    (h : s.linesSound = true) : reservedOf s id = 0 := by
  rw [line_reservedOf hl]
  have hc := (line_sound hl h).1
  unfold Line.sound at hc
  unfold Line.finished at hf
  cases hs : l.state <;> simp only [hs, Bool.and_eq_true, decide_eq_true_eq, reduceCtorEq, decide_false, decide_true,
    Bool.or_false, Bool.or_true, Bool.false_eq_true] at hc hf
  · omega
  · omega

/-- A line freed that has none reserved. -/
theorem reservedOf_drop {id : Nat} (h : reservedOf s id = 0) (j : Nat) :
    reservedOf (s.dropLine id) j = reservedOf s j := by
  by_cases e : j = id
  · subst e; rw [h]; exact reservedOf_free (line_dropLine_self _ _)
  · exact reservedOf_line (line_dropLine_other _ e)

/-- LINE_ADD. -/
theorem ds_lineAdd (a b c d e : Nat) (s : State) (h : Drawing s) : Drawing (lineAddBody a b c d e s).1 := by
  refine ds_book (lines_lineAdd s a b c d e h.lines) (by simp) (by simp) (fun j => ?_) h
  unfold lineAddBody
  refine checked_all (P := fun t => reservedOf t j = reservedOf s j) rfl fun hc => ?_
  simp only [List.forall_mem_cons, Option.isNone_iff_eq_none] at hc
  exact reservedOf_put (by rw [reservedOf_free hc.2.2.1]; rfl) j

/-- PAIR_ADD. -/
theorem ds_pairAdd (a b c d n e f : Nat) (s : State) (h : Drawing s) : Drawing (pairAddBody a b c d n e f s).1 := by
  refine ds_book (lines_pairAdd s a b c d n e f h.lines) (by simp) (by simp) (fun j => ?_) h
  unfold pairAddBody
  refine checked_all (P := fun t => reservedOf t j = reservedOf s j) rfl fun hc => ?_
  simp only [List.forall_mem_cons, Option.isNone_iff_eq_none, decide_eq_true_eq] at hc
  have h1 := fun k => reservedOf_put (s := s) (id := a) (k := newLine c e f n (some ⟨b, .first⟩))
    (by rw [reservedOf_free hc.2.2.2.2.1]; rfl) k
  show reservedOf (State.putLine _ _ _) j = reservedOf s j
  rw [reservedOf_put (by rw [h1, reservedOf_free hc.2.2.2.2.2.1]; rfl) j, h1]

/-- LINE_RESIZE. -/
theorem ds_lineResize (id n : Nat) (s : State) (h : Drawing s) : Drawing (lineResizeBody id n s).1 := by
  refine ds_book (lines_lineResize s id n h.lines) (by simp) (by simp) (fun j => ?_) h
  unfold lineResizeBody
  split
  · rfl
  · exact kept_checked (P := fun t => reservedOf t j = reservedOf s j) rfl
      (reservedOf_onPair (fun s id j => reservedOf_resizeLine s n id j) s _ _ j)

/-- LINE_CANCEL. -/
theorem ds_lineCancel (id : Nat) (s : State) (h : Drawing s) : Drawing (lineCancelBody id s).1 := by
  refine ds_book (lines_lineCancel s id h.lines) (by simp) (by simp) (fun j => ?_) h
  unfold lineCancelBody
  split
  · rfl
  · exact kept_checked (P := fun t => reservedOf t j = reservedOf s j) rfl
      (reservedOf_onPair (fun s id j => reservedOf_cancelLine s id j) s _ _ j)

/-- LINE_REMOVE. -/
theorem ds_lineRemove (id : Nat) (s : State) (h : Drawing s) : Drawing (lineRemoveBody id s).1 := by
  refine ds_book (lines_lineRemove s id h.lines) (by simp) (by simp) (fun j => ?_) h
  unfold lineRemoveBody
  split
  · rfl
  · next l hl =>
    refine checked_all (P := fun t => reservedOf t j = reservedOf s j) rfl fun hc => ?_
    simp only [List.forall_mem_cons] at hc
    obtain ⟨c1, c2, _⟩ := hc
    have h1 := finished_reservedOf hl c1 h.lines
    unfold State.onPair
    dsimp only
    split
    · exact reservedOf_drop h1 j
    · next p hp =>
      unfold State.mirrorOf onMirror at c2
      rw [hp] at c2
      simp only [Option.map_some, Option.all_some] at c2
      cases hm : s.line p.mirror with
      | none => rw [hm] at c2; cases c2
      | some m =>
        rw [hm] at c2
        have h2 := finished_reservedOf hm c2 h.lines
        rw [reservedOf_drop (by rw [reservedOf_drop h1]; exact h2), reservedOf_drop h1]

/-- Notices cleared. -/
theorem ds_clear (s : State) (ids : List Nat) (h : Drawing s) : Drawing (s.clearNotices ids) := by
  refine ds_book (lines_clear s ids h.lines) (by rw [clearNotices_eq]) (by rw [clearNotices_eq]) (fun j => ?_) h
  refine foldl_inv State.clearNotice (fun t => reservedOf t j = reservedOf s j) (fun t i ht => ?_) ids s rfl
  unfold State.clearNotice
  split
  · exact ht
  · next l hl => rw [reservedOf_put (by rw [line_reservedOf hl])]; exact ht

/-! ### Hides -/

/-- HIDE_OPEN. -/
theorem ds_new {slot : Nat} {k : Hide} (hn : s.hide slot = none) (hk : k.placements = []) (h : Drawing s) :
    Drawing (s.putHide slot k) := by
  refine ⟨linesSound_same rfl h.lines, sorted_put _ _ h.sorted, fun j => ?_⟩
  have := ds_eq h j
  rw [draws_eq] at *
  show reservedOf s j = tabDraws (Tab.put s.hides.slots slot k) j + stackDraws s j
  rw [tabDraws_new k j hn, hk]; simpa using this

/-- CLOSE. -/
theorem ds_close {slot : Nat} {g : Hide} (hg : s.hide slot = some g) (hs : g.state = .done) (hj : JointBut none s)
    (h : Drawing s) : Drawing (s.freeSlot slot) := by
  refine ds_freeSlot (fun k hk p hp => ?_) h
  rw [hg] at hk; cases hk
  obtain ⟨hch, _⟩ := no_channel hj hg (by rw [hs]; decide) (by rw [hs]; decide)
  refine ⟨fun e => ?_, no_ticket hj hg hch p hp⟩
  have := (hj.pl slot g hg).2 hs
  unfold Hide.anyPlaced at this
  rw [List.any_eq_false] at this
  exact absurd (by simpa using e) (this p hp)

/-- ROWS. -/
theorem ds_layRows (s : State) (slot y : Nat) (tiles : List Nat) (cells : List (Nat × Nat)) (h : Drawing s) :
    Drawing (s.layRows slot y tiles cells) := by
  have ht : ∀ (t : State) i, Drawing t → Drawing (State.takeFrame slot t i) := by
    intro t i ht
    unfold State.takeFrame
    split
    · exact ht
    · next f _ => exact ds_same (s := t.modHide slot fun h => { h with frames := Tab.put h.frames i f }) rfl rfl rfl
                    (ds_modHide (fun _ _ _ => rfl) ht)
  have h1 := foldl_inv (State.writeCell slot y) Drawing (fun t c => steady_ds.writeCell t slot y c) cells _
    (foldl_inv (State.takeFrame slot) Drawing ht tiles s h)
  unfold State.layRows
  simp only
  split
  · exact h1
  · exact steady_ds.allocationEval _ h1

/-- COMMIT_COMPLETION. -/
theorem ds_completeCommit (s : State) (slot : Nat) (g : Hide) (h : Drawing s) : Drawing (completeCommit slot g s) := by
  have h1 := steady_ds.findOffHide slot 0 g.staged _ (steady_ds.findInside slot (framedCells g) s h)
  unfold completeCommit
  simp only
  split
  · exact steady_ds.raise _ _ (ds_modHide (fun _ _ _ => rfl) (steady_ds.applyStaged _ _ _ h1))
  · exact steady_ds.raise _ _ (ds_modHide (fun _ _ _ => rfl) h1)

/-! ### Reserves and what draws on them -/

/-- One unit reserved and unitOf more drawn. -/
theorem ds_reserved {id : Nat} {u v : State} (ht : s.claimReserve id = some t) (hb : v.book = t.book)
    (hs : Tab.sorted v.hides.slots = true)
    (hd : ∀ j, v.draws j = s.draws j + unitOf id j) (h : Drawing s) : Drawing v := by
  refine ⟨linesSound_same hb (lines_reserve _ _ _ ht h.lines), hs, fun j => ?_⟩
  have h1 := claimReserve_reservedOf ht j
  have h2 := ds_eq h j
  have h3 : reservedOf v j = reservedOf t j := by unfold reservedOf State.line; rw [hb]
  show reservedOf v j = _
  rw [h3, hd]; omega

/-- One entry pushed. -/
theorem stackDraws_push {p : Pass} (e : Entry) (hp : s.engine.pass = some p) (j : Nat) :
    stackDraws (s.pushEntry e) j = stackDraws s j + unitOf e.line j := by
  rw [stackDraws_of hp, stackDraws_of (p := { p with stack := e :: p.stack }) (by unfold State.pushEntry; rw [hp]; rfl)]
  unfold unitOf
  rw [List.countP_cons]
  by_cases hj : j = e.line
  · subst hj; simp
  · simp [hj, Ne.symm hj]

/-- Only the book, the hides and the stack matter. -/
theorem ds_stack (h0 : t.book = s.book) (h1 : t.hides = s.hides)
    (h2 : (t.engine.pass.map Pass.stack).getD [] = (s.engine.pass.map Pass.stack).getD []) (h : Drawing s) : Drawing
    t := by
  refine ⟨linesSound_same h0 h.lines, by rw [h1]; exact h.sorted, fun id => ?_⟩
  have := h.drawn id
  rw [draws_eq] at *
  unfold stackDraws State.line at *
  rw [h0, h1, h2]; exact this

/-- The phase set. -/
theorem ds_setPhase (s : State) (ph : Phase) (h : Drawing s) : Drawing (s.setPhase ph) :=
  by
  refine ds_stack (s := s) rfl rfl ?_ h
  show ((s.engine.pass.map _).map Pass.stack).getD [] = _; cases s.engine.pass <;> rfl

/-- A unit counted. -/
theorem ds_countUnit (s : State) (h : Drawing s) : Drawing s.countUnit :=
  by
  refine ds_stack (s := s) rfl rfl ?_ h
  show ((s.engine.pass.map _).map Pass.stack).getD [] = _; cases s.engine.pass <;> rfl

/-- The pass replaced with its stack. -/
theorem ds_putPass (s : State) (q : Option Pass)
    (hq : (q.map Pass.stack).getD [] = (s.engine.pass.map Pass.stack).getD []) (h : Drawing s) : Drawing
    (s.putPass q) := by
  refine ds_stack (s := s) rfl rfl ?_ h
  exact hq

/-- UNIT_PUSH. -/
theorem ds_unitPush (s : State) (h : Drawing s) : Drawing (unitPush s) := by
  unfold unitPush
  split
  · exact h
  · next p hp =>
    split
    · next q o a b hph =>
      unfold pushFound
      split
      · split
        · exact ds_setPhase _ _ (ds_popTop _ _ h)
        · exact ds_setPhase _ _ h
      · next t ht =>
        have hr := (reserveFound_some ht).2
        obtain ⟨r1, r2, r3, r4⟩ := reserve_same hr
        have he : (coverFound p.slot q o a b t).engine = s.engine := by rw [coverFound_engine]; exact r4
        have hh : (coverFound p.slot q o a b t).hides = s.hides := by rw [coverFound_hides]; exact r1
        have hb : (coverFound p.slot q o a b t).book = t.book := coverFound_book _ _ _ _ _ _
        generalize coverFound p.slot q o a b t = u at he hh hb
        have h3 : Drawing (State.pushEntry ⟨q.line, q.slot, o, a, b, q.role⟩ u) := by
          refine ds_reserved (u := u) hr (by exact hb) (by show Tab.sorted u.hides.slots = true; rw [hh]; exact
            h.sorted) (fun j => ?_) h
          rw [draws_eq, stackDraws_push _ (by rw [he]; exact hp)]
          show tabDraws u.hides.slots j + _ = _
          rw [hh, draws_eq]
          have : stackDraws u j = stackDraws s j := by unfold stackDraws; rw [he]
          rw [this]; exact (Nat.add_assoc _ _ _).symm
        unfold afterPush
        split
        · exact ds_setPhase _ _ (ds_countUnit _ h3)
        · exact ds_setPhase _ _ (ds_countUnit _ h3)
        · split
          · exact h3
          · exact ds_setPhase _ _ h3
    · exact ds_setPhase _ _ (ds_popTop _ _ h)
    · exact h

/-- What committed entries draw. -/
theorem entries_count (es : List Entry) (j n : Nat) :
    ((es.zipIdx n).map fun e => enginePlacement e.1 e.2).countP (Placement.draws j) = es.countP fun e => decide
    (e.line = j) := by
  induction es generalizing n with
  | nil => rfl
  | cons e es ih =>
    rw [List.zipIdx_cons, List.map_cons, List.countP_cons, List.countP_cons, ih]
    by_cases hj : e.line = j <;> simp [Placement.draws, enginePlacement, hj]

/-- The stack committed. -/
theorem draws_commitStack {slot : Nat} {g : Hide} (es : List Entry) (hs : Tab.sorted s.hides.slots = true)
    (hg : s.hide slot = some g) (j : Nat) :
    (commitStack slot es s).draws j = s.draws j + es.countP fun e => decide (e.line = j) := by
  have h1 := draws_modHide (fun h =>
    { h with placements := h.placements ++ (es.zipIdx h.placements.length).map fun e => enginePlacement e.1 e.2 }) hs
    hg j
  simp only [List.countP_append] at h1
  have h2 := entries_count es j g.placements.length
  rw [h2] at h1
  unfold commitStack
  omega

/-- A hide written with its placements. -/
theorem tabDraws_note {slot : Nat} (f : Hide → Hide) (hf : ∀ g, (f g).placements = g.placements) (j : Nat)
    (hs : Tab.sorted s.hides.slots = true) :
    tabDraws (s.modHide slot f).hides.slots j = tabDraws s.hides.slots j := by
  cases hg : s.hide slot with
  | none => rw [modHide_none _ hg]
  | some g =>
    have h1 := tabDraws_put (f g) j hs hg
    rw [hf] at h1
    rw [modHide_some _ hg]
    show tabDraws (Tab.put s.hides.slots slot (f g)) j = _
    omega

/-- STEP_END. -/
theorem ds_stepEnd (s : State) (hj : JointBut none s) (h : Drawing s) : Drawing (stepEnd s) := by
  unfold stepEnd
  split
  · exact h
  · next p hp =>
    split
    · next r k hph _ =>
      unfold endStep
      obtain ⟨g, hg, hin⟩ := pass_hide hp hj
      have hs : s.stackOf p.slot = p.stack := by unfold State.stackOf; rw [hp]; simp
      split
      · refine ds_putPass _ _ ?_ (ds_modHide (fun _ _ _ => rfl) (ds_popAll s p.slot h))
        rw [modHide_engine]
        show [] = _
        unfold State.popAll
        split
        · next he => rw [hp]; rw [hs, List.isEmpty_iff] at he; simp [he]
        · have := (pops_same p.slot (s.stackOf p.slot) s).2
          unfold State.setStack
          rw [this, hp]; rfl
      · have e := draws_commitStack p.stack.reverse h.sorted hg
        refine ⟨linesSound_same (by simp [State.putPass, commitStack]) h.lines, ?_, fun j => ?_⟩
        · show Tab.sorted (State.modHide _ _ _).hides.slots = true
          exact sorted_modHide _ _ (sorted_modHide _ _ h.sorted)
        · have h1 := ds_eq h j
          have h2 := e j
          rw [List.countP_reverse] at h2
          have h3 : (commitStack p.slot p.stack.reverse s).draws j = tabDraws
            (commitStack p.slot p.stack.reverse s).hides.slots j + stackDraws (commitStack p.slot p.stack.reverse s)
            j := draws_eq _ _
          have h4 : stackDraws (commitStack p.slot p.stack.reverse s) j = p.stack.countP fun e => decide
            (e.line = j) := stackDraws_of (p := p) (by unfold commitStack; rw [modHide_engine]; exact hp) j
          have hso : Tab.sorted (commitStack p.slot p.stack.reverse s).hides.slots = true := sorted_modHide _ _ h.sorted
          have h6 := tabDraws_note (slot := p.slot) (fun h =>
            { h with report := addResult ⟨k.line, p.units, r, false⟩ p.stack.length ((p.stack.map (entryBody s)).sum) h.report }) (fun _ => rfl) j hso
          rw [draws_eq]
          have h7 : stackDraws (((commitStack p.slot p.stack.reverse s).modHide p.slot fun h =>
            { h with report := addResult ⟨k.line, p.units, r, false⟩ p.stack.length ((p.stack.map (entryBody s)).sum) h.report }).putPass (some (nextStep p))) j = 0 := rfl
          have h8 : reservedOf (((commitStack p.slot p.stack.reverse s).modHide p.slot fun h =>
            { h with report := addResult ⟨k.line, p.units, r, false⟩ p.stack.length ((p.stack.map (entryBody s)).sum) h.report }).putPass (some (nextStep p))) j = reservedOf s j := by
            unfold reservedOf State.line; simp [State.putPass, commitStack]
          show reservedOf _ j = tabDraws (State.modHide _ _ _).hides.slots j + _
          rw [h7, h8, h6]; omega
    · exact h

/-- The pass stands, whatever else a command does. -/
theorem steady_pass (q : Option Pass) : Steady fun t => t.engine.pass = q where
  tape := fun _ _ h => h
  links := fun _ _ h => h
  sent := fun _ _ h => h
  pending := fun _ _ h => h
  attn := fun _ _ _ h => h
  throttle := fun _ _ h => h
  corrected := fun _ _ h => h
  contents := fun _ _ _ h => h
  covers := fun _ _ _ h => h
  note := fun s slot f _ h => by simpa using h
  strikeOne := fun s slot i h => by simpa using h
  marker := fun s slot i b h => by simpa using h

/-- PASS_END. -/
theorem ds_passEnd (s : State) (hj : JointBut none s) (h : Drawing s) : Drawing (passEndEvent s) := by
  unfold passEndEvent
  split
  · exact h
  · next p hp =>
    split
    · next g hph hg =>
      split
      · exact ds_setPhase _ _ h
      · unfold endPass
        dsimp only
        have key : ∀ P : State → Prop, Steady P → P s → P (g.deferredPoison.foldl (deferredTile p.slot)
          (g.deferred.foldl (deferredFlaw p.slot) s)) := by
          intro P H hs
          refine foldl_inv (deferredTile _) P (fun t i => H.sweepTile t _ i) _ _
            (foldl_inv (deferredFlaw _) P (fun t f ht => ?_) _ _ hs)
          unfold deferredFlaw
          split
          · exact ht
          · exact H.sweepFlaw _ _ _ (H.applyFlaw _ _ _ ht)
        have k1 := key _ steady_ds h
        have k2 := key _ steady_jb hj
        have k3 := key _ (steady_pass s.engine.pass) rfl
        generalize (g.deferredPoison.foldl (deferredTile p.slot) (g.deferred.foldl (deferredFlaw p.slot) s)) = u at k1 k2 k3
        have hst : p.stack = [] := hj.dr p hp hph
        have k4 : Drawing (u.modHide p.slot fun g =>
          { g with deferred := [], deferredPoison := [], state := .nested }) := ds_modHide (fun _ _ _ => rfl) k1
        refine ds_putPass _ _ ?_ (steady_ds.raise _ _ k4)
        rw [raise_engine, modHide_engine, k3, hp]; exact hst.symm
    · exact h

/-- The end of a discard leaves the stack empty. -/
theorem completeDiscard_stack {p : Pass} (hp : s.engine.pass = some p) :
    ((s.completeDiscard p.slot).engine.pass.map Pass.stack).getD [] = [] := by
  have h0 : ∀ u : State, u.engine.pass = some p → ((u.popAll p.slot).engine.pass.map Pass.stack).getD [] = [] := by
    intro u hu
    have hs : u.stackOf p.slot = p.stack := by unfold State.stackOf; rw [hu]; simp
    unfold State.popAll
    split
    · next he => rw [hs, List.isEmpty_iff] at he; rw [hu]; exact he
    · have := (pops_same p.slot (u.stackOf p.slot) u).2
      unfold State.setStack
      rw [this, hu]; rfl
  have h1 : (s.withdrawAll p.slot).engine.pass = some p := by
    rw [← hp]
    unfold State.withdrawAll
    split
    · rfl
    · exact foldl_inv (State.withdraw p.slot) (fun t => t.engine.pass = s.engine.pass)
        (fun t i h => by rw [← h]; unfold State.withdraw; (repeat' split) <;> simp) _ s rfl
  have h2 := h0 _ h1
  unfold State.completeDiscard
  generalize (s.withdrawAll p.slot).popAll p.slot = u at h2 ⊢
  rw [raise_engine, clearHide_engine]
  have : ∀ v : State, (v.freeSlot p.slot).engine.pass = v.engine.pass := by
    intro v
    cases hg : v.hide p.slot with
    | none => have : v.freeSlot p.slot = v := by unfold State.freeSlot; rw [hg]
              rw [this]
    | some g => rw [(freeSlot_same hg).2.2.2.2]
  rw [this]; exact h2

/-- PASS_ABORT. -/
theorem ds_passAbort (s : State) (h : Drawing s) : Drawing (passAbort s) := by
  unfold passAbort
  split
  · exact h
  · next p hp =>
    split
    · exact h
    · split
      · refine ds_putPass _ _ ?_ (ds_completeDiscard _ _ h)
        exact (completeDiscard_stack hp).symm
      · exact h

/-- NEST_TAKE. -/
theorem ds_takeHide (s : State) (h : Drawing s) : Drawing (takeHide s) := by
  unfold takeHide
  split
  · next e rest hp hq =>
    refine ds_modHide (fun _ _ _ => rfl) (ds_stack (s := s) rfl rfl ?_ h)
    rw [hp]; rfl
  · exact h

/-! ### Placing by hand -/

/-- Placements committed by hand. -/
theorem draws_commitManual {slot : Nat} {g : Hide} (ps : List Placement) (hs : Tab.sorted s.hides.slots = true)
    (hg : s.hide slot = some g) (j : Nat) :
    (s.commitManual slot ps).draws j = s.draws j + ps.countP (Placement.draws j) := by
  have h1 := draws_modHide (fun h => { h with placements := h.placements ++ ps, state := .nested }) hs hg j
  simp only [List.countP_append] at h1
  show (s.modHide slot _).draws j = _
  omega

/-- What a placement made by hand draws. -/
theorem manual_draws (a b c d e : Nat) (o : Option Nat) (j : Nat) :
    (manualPlacement a b c d e o).draws j = decide (a = j) := by
  unfold Placement.draws manualPlacement; simp

/-- One placement on a line. -/
theorem decide_one (a j : Nat) : (if decide (a = j) = true then 1 else 0) = unitOf a j := by
  unfold unitOf
  by_cases h : a = j
  · subst h; simp
  · simp [h, Ne.symm h]

/-- Cover marked changes no draw. -/
theorem coverFor_draws (s : State) (a b c d e j : Nat) : (s.coverFor a b c d e).draws j = s.draws j := by
  unfold State.coverFor
  split
  · rfl
  · exact draws_same (by simp) (by simp) j

/-- PLACE. -/
theorem ds_place (a b c d e : Nat) (s : State) (h : Drawing s) : Drawing (placeBody a b c d e s).1 := by
  unfold placeBody
  refine onHide_state h fun g hg hst => ?_
  split
  · exact h
  · next l _ =>
    refine kept_checked h ?_
    have h1 := steady_ds.tryFit a l.slot c d e s h
    have h2 := (steady_joint (jointOf s)).tryFit a l.slot c d e s rfl
    unfold placeWork
    simp only
    split
    · exact ds_handFresh _ _ _ h1
    · split
      · exact h1
      · next t ht =>
        obtain ⟨r1, r2, r3, r4⟩ := reserve_same ht
        generalize (tryFit a l.slot c d e s).1 = u at h1 h2 ht r1 r2 r3 r4
        obtain ⟨k, hk, _⟩ := joint_some hg h2
        have hc : (t.coverFor a l.slot c d e).hides = u.hides := by rw [← r1]; simp
        refine ds_reserved (u := u) ht (by simp [State.commitManual])
          (sorted_modHide _ _ (by rw [hc]; exact h1.sorted)) (fun j => ?_) h1
        have hk' : (t.coverFor a l.slot c d e).hide a = some k := by unfold State.hide; rw [hc]; exact hk
        rw [draws_commitManual _ (by rw [hc]; exact h1.sorted) hk', coverFor_draws, draws_same r1 (by rw [r4]),
          List.countP_singleton, manual_draws, decide_one]

/-- PLACE_PAIR. -/
theorem ds_placePair (a b : Nat) (p q : Spot) (s : State) (h : Drawing s) : Drawing (placePairBody a b p q s).1 := by
  unfold placePairBody
  refine onHide_state h fun g hg hst => ?_
  split
  · exact h
  · next l _ =>
    refine kept_checked h ?_
    have key : ∀ P : State → Prop, Steady P → P s → P (tryFit a l.slot p.orientation p.x p.y s).1 ∧ P
      (tryFit a (((s.mirrorOf l).bind (·.2)).map Line.slot |>.getD 0) q.orientation q.x q.y
      ((tryFit a l.slot p.orientation p.x p.y s).1.coverFor a l.slot p.orientation p.x p.y)).1 := by
      intro P H hs
      have h1 := H.tryFit a l.slot p.orientation p.x p.y s hs
      exact ⟨h1, H.tryFit _ _ _ _ _ _ (H.coverFor _ a l.slot p.orientation p.x p.y h1)⟩
    obtain ⟨h1, h2⟩ := key _ steady_ds h
    obtain ⟨e1, e2⟩ := key _ (steady_joint (jointOf s)) rfl
    unfold placePairWork
    simp only
    split
    · exact ds_handFresh _ _ _ h1
    · split
      · exact ds_handFresh _ _ _ (steady_ds.unmarkCover _ _ _ _ _ _ h2)
      · split
        · exact steady_ds.unmarkCover _ _ _ _ _ _ h2
        · next t ht =>
          generalize (tryFit a (((s.mirrorOf l).bind (·.2)).map Line.slot |>.getD 0) q.orientation q.x q.y ((tryFit a l.slot p.orientation p.x p.y s).1.coverFor a l.slot p.orientation p.x p.y)).1 = u at h2 e2 ht
          unfold reserveBoth at ht
          obtain ⟨v, hv, ht⟩ := Option.bind_eq_some_iff.1 ht
          obtain ⟨r1, r2, r3, r4⟩ := reserve_same hv
          obtain ⟨w1, w2, w3, w4⟩ := reserve_same ht
          obtain ⟨k, hk, _⟩ := joint_some hg e2
          generalize (((s.mirrorOf l).bind (·.2)).map Line.slot |>.getD 0) = m at *
          have hc : (t.coverFor a m q.orientation q.x q.y).hides = u.hides := by rw [← r1, ← w1]; simp
          have hk' : (t.coverFor a m q.orientation q.x q.y).hide a = some k := by unfold State.hide; rw [hc]; exact hk
          have hb : ∀ ps, ((t.coverFor a m q.orientation q.x q.y).commitManual a ps).book = t.book :=
            by intro ps; simp [State.commitManual]
          refine ⟨linesSound_same (hb _) (lines_reserve _ _ _ ht (lines_reserve _ _ _ hv h2.lines)), sorted_modHide _
            _ (by rw [hc]; exact h2.sorted), fun j => ?_⟩
          have a1 := claimReserve_reservedOf hv j
          have a2 := claimReserve_reservedOf ht j
          have a3 := ds_eq h2 j
          have a4 : t.draws j = u.draws j := draws_same (w1.trans r1) (by rw [w4, r4]) j
          show reservedOf (State.commitManual _ _ _) j = _
          rw [draws_commitManual _ (by rw [hc]; exact h2.sorted) hk', coverFor_draws, a4]
          have a5 : ∀ ps, reservedOf ((t.coverFor a m q.orientation q.x q.y).commitManual a ps) j = reservedOf t j :=
            by intro ps; unfold reservedOf State.line; rw [hb]
          rw [a5, List.countP_cons, List.countP_cons, List.countP_nil, manual_draws, manual_draws, decide_one,
            decide_one]
          omega

/-! ### Channels -/

/-- The first PLACED placement. -/
theorem firstPlaced_spec {ps : List Placement} {i : Nat} {p : Placement} (h : firstPlaced ps = some (i, p)) :
    ps[i]? = some p ∧ p.state = .placed := by
  unfold firstPlaced at h
  obtain ⟨⟨q, n⟩, hq, e⟩ := Option.map_eq_some_iff.1 h
  cases e
  have h1 := List.find?_some hq
  have h2 := List.mem_of_find?_eq_some hq
  refine ⟨?_, by simpa using h1⟩
  rw [List.mem_zipIdx_iff_getElem?] at h2; exact h2

/-- TICKET_SEND. -/
theorem ds_ticketSend (s : State) (c : Fin 4) (hj : JointBut none s) (h : Drawing s) : Drawing (ticketSend c s) := by
  unfold ticketSend
  split
  · split
    · exact h
    · next slot g ha =>
      split
      · exact h
      · next i p hp =>
        obtain ⟨_, hg, _⟩ := assigned_spec ha hj
        obtain ⟨h1, h2⟩ := firstPlaced_spec hp
        have h3 := placement_iff.2 ⟨g, hg, h1⟩
        refine ds_settle _ _ (ds_chan _ _ _ (steady_ds.sent _ _
          (ds_chan _ _ _ (ds_modPlacement (fun q hq id => ?_) h))))
        rw [h3] at hq; cases hq
        unfold Placement.draws; simp [h2]
  · exact h

/-- A TICKET refused. -/
theorem ds_ticketRefused (s : State) (c : Fin 4) (t : TicketRef) (r : Nat × Nat) (hj : JointBut none s) (h : Drawing s) :
    Drawing (ticketRefused c t r s) := by
  unfold ticketRefused
  split
  · exact h
  · next hf => exact ds_settle _ _ (ds_chan _ _ _ (ds_resolve _ _ _ _ _ (still_ticketed hf hj) h))

/-- A query answered with an outcome. -/
theorem ds_finished (s : State) (c : Fin 4) (t : TicketRef) (o : CutOutcome) (r : Nat × Nat) (hj : JointBut none s)
    (h : Drawing s) : Drawing (finishedTicket c t o r s) := by
  unfold finishedTicket
  split
  · exact h
  · next hf => exact ds_resolveReport _ _ _ _ _ _ (still_ticketed hf hj) h

/-- A query answered with the ticket still out. -/
theorem ds_stillOut (s : State) (c : Fin 4) (t : TicketRef) (h : Drawing s) : Drawing (stillOut c t s) := by
  have h1 : Drawing (s.modChan c fun ch => { ch with
      deadlines := ch.deadlines.map (Deadline.restart t s.settings.cutDeadline), queryCount := ch.queryCount + 1 }) :=
        ds_chan _ _ _ h
  unfold stillOut
  split
  · exact h
  · unfold compareLimit
    split
    · split
      · exact ds_chan _ _ _ (steady_ds.raise _ _ h1)
      · exact ds_channelFault _ _ _ _ h1
    · exact h1

/-- A query answered UNKNOWN. -/
theorem ds_unknown (s : State) (c : Fin 4) (t : TicketRef) (h : Drawing s) : Drawing (unknownTicket c t s) := by
  unfold unknownTicket
  split
  · exact h
  · exact ds_settle _ _ (steady_ds.returnChecks _ _ _ (ds_chan _ _ _ (ds_returnPlacement _ _ _ _ h)))

/-! ### The bodies -/

/-- Settings put in force. -/
theorem ds_putInForce (g : Settings) (s : State) (h : Drawing s) : Drawing (putInForce g s) := by
  have h1 : Drawing { s with profile := { s.profile with settings := g } } := ds_same (s := s) rfl rfl rfl h
  unfold putInForce
  dsimp only
  (repeat' split) <;> first
    | exact ds_evaluate _ (steady_ds.markEval _ h1)
    | exact ds_evaluate _ h1
    | exact steady_ds.markEval _ h1
    | exact h1

theorem ds_put' {slot : Nat} {f : Hide → Hide} {g : Hide} (hg : s.hide slot = some g)
    (hk : (f g).placements = g.placements) (h : Drawing s) : Drawing (s.putHide slot (f g)) := ds_putHide hg hk h

/-- DISCARD. -/
theorem ds_discard (slot : Nat) (s : State) (h : Drawing s) : Drawing (discardBody slot s).1 := by
  unfold discardBody
  refine onHide_state h fun g hg hst => ?_
  split
  · exact ds_modHide (fun _ _ _ => rfl) h
  · show Drawing ((s.beginDiscard slot .channel).abortChannel g.channel)
    unfold State.abortChannel
    split
    · exact ds_modHide (fun _ _ _ => rfl) h
    · exact ds_chan _ _ _ (ds_modHide (fun _ _ _ => rfl) h)
  · exact ds_completeDiscard _ _ h

/-- The work of every request. -/
theorem ds_body (c : Instr) (s : State) (hj : JointBut none s) (h : Drawing s) : Drawing (bodyOf c s).1 := by
  cases c
  case set =>
    show Drawing (setBody _ _ s).1
    unfold setBody refuse
    (repeat' split) <;> first | exact h | exact ds_putInForce _ _ h
  case get =>
    show Drawing (getBody _ s).1
    unfold getBody refuse
    split <;> exact h
  case save => exact kept_checked h (ds_same (s := s) rfl rfl rfl h)
  case load => exact kept_checked h (ds_same (s := s) rfl rfl rfl h)
  case defaults => exact ds_putInForce _ _ h
  case lineAdd => exact ds_lineAdd _ _ _ _ _ _ h
  case pairAdd => exact ds_pairAdd _ _ _ _ _ _ _ _ h
  case lineResize => exact ds_lineResize _ _ _ h
  case lineCancel => exact ds_lineCancel _ _ h
  case lineRemove => exact ds_lineRemove _ _ h
  case lineRead =>
    show Drawing (lineReadBody _ s).1
    unfold lineReadBody refuse
    split <;> exact h
  case pieceDefine => exact ds_same (s := s) (by simp [bodyOf]) (by simp [bodyOf]) (by simp [bodyOf]) h
  case variantDefine => exact ds_same (s := s) (by simp [bodyOf]) (by simp [bodyOf]) (by simp [bodyOf]) h
  case variantRows => exact ds_same (s := s) (by simp [bodyOf]) (by simp [bodyOf]) (by simp [bodyOf]) h
  case pieceReady => exact ds_same (s := s) (by simp [bodyOf]) (by simp [bodyOf]) (by simp [bodyOf]) h
  case pieceErase => exact ds_same (s := s) (by simp [bodyOf]) (by simp [bodyOf]) (by simp [bodyOf]) h
  case pieceRead => exact kept_checked h h
  case bankMode => exact ds_same (s := s) (by simp [bodyOf]) (by simp [bodyOf]) (by simp [bodyOf]) h
  case hideOpen =>
    show Drawing (hideOpenBody _ _ _ _ s).1
    unfold hideOpenBody
    refine kept_checked h ?_
    split
    · exact h
    · next slot hs =>
      have hn : s.hide slot = none := by
        unfold freeHideSlot at hs
        have := List.find?_some hs
        simpa using this
      exact ds_new (s := s.clearHide slot) hn rfl (steady_ds.clearHide _ _ h)
  case rows => exact kept_onHide h fun _ _ => kept_checked h (ds_layRows _ _ _ _ _ h)
  case thickness =>
    show Drawing (thicknessBody _ _ s).1
    unfold thicknessBody
    refine kept_onHide h fun g hg => kept_checked h (ds_putHide hg ?_ h)
    exact foldl_keeps takeReading Hide.placements (fun _ _ => rfl) _ g
  case flaw =>
    show Drawing (flawBody _ _ s).1
    unfold flawBody
    refine kept_onHide h fun g hg => kept_checked h ?_
    split
    · exact ds_putHide hg rfl h
    · exact ds_putHide hg rfl h
    · exact ds_settle _ _ (steady_ds.sweepFlaw _ _ _ (steady_ds.applyFlaw _ _ _ h))
  case flawsClear => exact kept_onHide h fun g hg => ds_putHide hg rfl h
  case mapCommit => exact kept_onHide h fun g hg => ds_putHide hg rfl h
  case hideRead => exact kept_checked h h
  case placementsRead => exact kept_onHide h fun _ _ => kept_checked h h
  case discard => exact ds_discard _ _ h
  case close =>
    refine onHide_state h fun g hg hst => steady_ds.clearHide _ _ (ds_close hg (by simpa using hst) hj h)
  case nest =>
    show Drawing (nestBody _ _ s).1
    unfold nestBody
    refine kept_onHide h fun g hg => kept_checked h ?_
    have h1 : Drawing (s.putHide _ { g with state := .nestWait }) := ds_putHide hg rfl h
    exact ds_same (s := s.putHide _ { g with state := .nestWait }) rfl rfl rfl h1
  case place => exact ds_place _ _ _ _ _ _ h
  case placePair => exact ds_placePair _ _ _ _ _ h
  case strike =>
    exact kept_onHide h fun g hg => kept_checked h (ds_settle _ _ (steady_ds.strike _ _ _ h))
  case release =>
    refine kept_onHide h fun g hg => kept_checked h (ds_evaluate _ ?_)
    refine ds_join _ _ (ds_putHide (s := { s with hides := { s.hides with released := s.hides.released + 1 } }) hg rfl
      (ds_same (s := s) rfl rfl rfl h))
  case hold => exact ds_same (s := s) rfl rfl rfl h
  case run =>
    exact ds_evaluate _ (ds_same (s := s) rfl rfl rfl h)
  case cutterEnable => exact kept_onChannel h fun c => ds_enterService _ _ (ds_chan _ _ _ h)
  case cutterDisable =>
    refine kept_onChannel h fun c => ?_
    split
    · exact h
    · exact ds_chan s c (fun ch =>
        { ch with enabled := false, state := if ch.state = .idle then .stopped else ch.state }) h
  case cutterReset => exact kept_onChannel h fun c => ds_cutterReset _ _ h
  case cutterRead => exact kept_onChannel h fun _ => h
  case attnRead => exact kept_checked h h
  case attnClear =>
    show Drawing (attnClearBody _ _ s).1
    unfold attnClearBody
    refine kept_checked h ?_
    show Drawing (clearListed _ _ _)
    unfold clearListed
    split
    · exact ds_clear _ _ h
    · exact ds_same (s := s) rfl rfl rfl h
  case ready =>
    show Drawing (readyBody _ s).1
    unfold readyBody
    simp only
    have h1 : ∀ c, Drawing (s.modChan c fun ch => { ch with ready := true }) := fun c => ds_chan _ _ _ h
    split
    · exact ds_enterService _ _ (steady_ds.raise _ _ (h1 _))
    · exact h
    · exact steady_ds.raise _ _ (h1 _)
    all_goals exact ds_channelFault _ _ _ _ h
  case cutReport =>
    show Drawing (cutReportBody _ _ _ _ _ s).1
    unfold cutReportBody
    split
    · exact h
    · split
      · next hf => exact ds_resolveReport _ _ _ _ _ _ (found_ticketed hf hj) h
      · exact steady_ds.raise _ _ h
  case cutterFault => exact ds_channelFault _ _ _ _ h
  all_goals exact h

/-- The machine after reset. -/
theorem reset_ds : Drawing State.reset := ⟨by decide, by decide, fun _ => rfl⟩

/-- Two such conditions together. -/
theorem steady_both {P Q : State → Prop} (a : Steady P) (b : Steady Q) : Steady fun s => P s ∧ Q s where
  tape := fun s x h => ⟨a.tape s x h.1, b.tape s x h.2⟩
  links := fun s x h => ⟨a.links s x h.1, b.links s x h.2⟩
  sent := fun s x h => ⟨a.sent s x h.1, b.sent s x h.2⟩
  pending := fun s x h => ⟨a.pending s x h.1, b.pending s x h.2⟩
  attn := fun s x y h => ⟨a.attn s x y h.1, b.attn s x y h.2⟩
  throttle := fun s x h => ⟨a.throttle s x h.1, b.throttle s x h.2⟩
  corrected := fun s x h => ⟨a.corrected s x h.1, b.corrected s x h.2⟩
  contents := fun s x y h => ⟨a.contents s x y h.1, b.contents s x y h.2⟩
  covers := fun s x y h => ⟨a.covers s x y h.1, b.covers s x y h.2⟩
  note := fun s x f hf h => ⟨a.note s x f hf h.1, b.note s x f hf h.2⟩
  strikeOne := fun s x y h => ⟨a.strikeOne s x y h.1, b.strikeOne s x y h.2⟩
  marker := fun s x y z h => ⟨a.marker s x y z h.1, b.marker s x y z h.2⟩

/-- An ATTENTION frame sent. -/
theorem ds_sendAttention (s : State) (h : Drawing s) : Drawing s.sendAttention := ds_same (s := s) rfl rfl rfl h

end Sys2Proof.Laws
end

