-- ==== Sys2Proof/Laws/Fits.lean ====
section
/-! SUPPORT. Fit tests: what their reads leave. -/

namespace Sys2Proof.Laws

open Sys2Proof.Machine

/-- The variant of a piece. -/
theorem variantOf_of {s : State} {k o : Nat} {pc v} (h : s.piece k = some pc) (h2 : Tab.get pc.variants o = some v) :
    s.variantOf k o = some (pc, v) := by
  simp [State.variantOf, h, h2]

/-- A read frees no hide. -/
theorem readCell_isSome (s : State) (slot x y) : ((s.readCell slot x y).1.hide slot).isSome = (s.hide slot).isSome :=
    by
  unfold State.readCell
  cases hg : s.hide slot with
  | none => simp [hg]
  | some g =>
    dsimp only
    split
    · simp [hg]
    · split
      · simp [hg]
      · split
        · have : State.hide { s with tape := s.tape.tail } slot = some g := hg
          unfold State.poisonTile
          have e : ∀ t : State, (t.raise (.store .framePoisoned)).hide slot = t.hide slot :=
              by intro t; simp [State.hide]
          rw [e, hide_modHide_self, this]; rfl
        · show (s.hide slot).isSome = _; rw [hg]
        · show (s.hide slot).isSome = _; rw [hg]

/-- A cell test frees no hide. -/
theorem testCell_isSome (retest slot band g z x y) (s : State) :
    ((testCell retest slot band g z x y s).1.hide slot).isSome = (s.hide slot).isSome := by
  unfold testCell
  split
  · rfl
  · have := readCell_isSome s slot x y
    simp only
    repeat' split
    all_goals exact this

/-- A fit test frees no hide. -/
theorem fitTest_isSome (retest slot band v x y) (s : State) :
    ((fitTest retest slot band v x y s).1.hide slot).isSome = (s.hide slot).isSome := by
  unfold fitTest
  cases hg : s.hide slot with
  | none => simp [hg]
  | some g =>
    dsimp only
    rw [← hg]
    have : ∀ (cs : List BodyCell) (s : State), ((testCells retest slot band g x y cs s).1.hide slot).isSome =
        (s.hide slot).isSome := by
      intro cs
      induction cs with
      | nil => intro s; rfl
      | cons c t ih =>
        intro s
        unfold testCells
        simp only
        split
        · rw [ih, testCell_isSome]
        · rw [testCell_isSome]
    simpa [hg] using this v.body s

/-- With clean reads a cell test changes nothing. -/
theorem testCell_clean (retest : Bool) (slot : Nat) (band) (g : Hide) (zone x y : Nat) (s : State) (ht : s.tape = [])
    (hg : s.hide slot = some g) :
    (testCell retest slot band g zone x y s).1 = s := by
  unfold testCell
  have hr := readCell_clean s slot x y g ht hg
  split
  · rfl
  · rw [hr]; dsimp only
    split <;> (try rfl)
    (repeat' split) <;> rfl

/-- A read changes no content. -/
theorem readCell_contents (s : State) (slot x y : Nat) : (s.readCell slot x y).1.grid.contents = s.grid.contents := by
  unfold State.readCell
  (repeat' split) <;> simp [State.poisonTile]

/-- The usable orientations (R25). -/
theorem allowed_eq (o bb k) : allowed o bb k = o.getLsbD ((k + 8 - bb % 8) % 8) := by
  unfold allowed; rfl

end Sys2Proof.Laws
end

