-- ==== Sys2Proof/Laws/Frames.lean ====
section
/-! SUPPORT. The bytes of frames: the lengths of fields, and what a receiver makes of the bytes of one frame. -/

namespace Sys2Proof.Laws

open Sys2Proof.Machine

/-! ### Lengths of fields -/

@[simp] theorem byte1_length (n : Nat) : (byte1 n).length = 1 := rfl

@[simp] theorem byte2_length (n : Nat) : (byte2 n).length = 2 := rfl

@[simp] theorem byte4_length (n : Nat) : (byte4 n).length = 4 := rfl

@[simp] theorem spotBytes_length (p : Spot) : (spotBytes p).length = 5 := rfl

@[simp] theorem flawBytes_length (f : Flaw) : (flawBytes f).length = 12 := rfl

@[simp] theorem runBytes_length (r : Run) : (runBytes r).length = 2 := rfl

@[simp] theorem readingBytes_length (r : Reading) : (readingBytes r).length = 4 := rfl

@[simp] theorem stepReqBytes_length (q : StepReq) : (stepReqBytes q).length = 3 := rfl

/-- Optional fields take their presence byte and their length. -/
theorem optBytes_length {n : Nat} {o : Option (List Byte)} (h : ∀ b ∈ o, b.length = n) :
    (optBytes n o).length = n + 1 := by
  cases o with
  | none => simp [optBytes]; omega
  | some b => simp [optBytes, h b rfl]; omega

/-- A list takes its count byte and its items. -/
theorem counted_length {α : Type} {n : Nat} (list : List α) {item : α → List Byte} (h : ∀ a, (item a).length = n) :
    (counted list item).length = 1 + n * list.length := by
  have : (list.flatMap item).length = n * list.length := by
    induction list with
    | nil => rfl
    | cons a t ih => rw [List.flatMap_cons, List.length_append, h, ih, List.length_cons]; ring
  simp [counted, this]

/-! ### Bytes at a receiver -/

/-- Short of the LEN no frame ends. -/
theorem gathered_short {bytes : List Byte} (h : bytes.length < 4) : gathered bytes = .going (.inFrame bytes) := by
  match bytes, h with
  | [], _ => rfl
  | [_], _ => rfl
  | [_, _], _ => rfl
  | [_, _, _], _ => rfl

/-- The bytes of a frame with a LEN of at most 1024, gathered from any of them on, end it with its check. -/
theorem arrive_rest {k t a b : Byte} {rest : List Byte} (hlen : lenOf a b ≤ 1024) (hr : rest.length = lenOf a b + 2) :
    ∀ (suf pre : List Byte), suf ≠ [] → pre ++ suf = k :: t :: a :: b :: rest →
      arrive (.inFrame pre) suf = some (.ended (checkFrame k t a b rest)) := by
  intro suf
  induction suf with
  | nil => intro pre h; exact absurd rfl h
  | cons x s ih =>
    intro pre _ he
    have he' : (pre ++ [x]) ++ s = k :: t :: a :: b :: rest := by rw [← he]; simp
    by_cases hs : s = []
    · subst hs
      rw [List.append_nil] at he'
      have hg : gathered (pre ++ [x]) = .ended (checkFrame k t a b rest) := by
        rw [he']
        simp [gathered, hr, Nat.not_lt.2 hlen]
      simp [arrive, takeByte, hg]
    · have hg : gathered (pre ++ [x]) = .going (.inFrame (pre ++ [x])) := by
        by_cases h4 : (pre ++ [x]).length < 4
        · exact gathered_short h4
        · have hl := congrArg List.length he'
          have hs1 : 1 ≤ s.length := List.length_pos_iff.2 hs
          rw [List.length_append] at hl
          simp only [List.length_cons] at hl
          match hp : pre ++ [x], h4 with
          | k' :: t' :: a' :: b' :: r, _ =>
            rw [hp] at he' hl
            simp only [List.cons_append, List.cons.injEq] at he'
            obtain ⟨rfl, rfl, rfl, rfl, rfl⟩ := he'
            simp only [List.length_cons] at hl
            have : r.length ≠ lenOf a' b' + 2 := by
              rw [List.length_append] at hr
              omega
            simp [gathered, this, Nat.not_lt.2 hlen]
          | [], h => simp at h
          | [_], h => simp at h
          | [_, _], h => simp at h
          | [_, _, _], h => simp at h
      simp only [arrive, takeByte, hg]
      exact ih _ hs he'

/-- A frame from its START byte on, with a LEN of at most 1024. -/
theorem arrive_whole {k t a b : Byte} {rest : List Byte} (hlen : lenOf a b ≤ 1024) (hr : rest.length = lenOf a b + 2) :
    arrive .hunting (startByte :: k :: t :: a :: b :: rest) = some (.ended (checkFrame k t a b rest)) := by
  rw [arrive, takeByte, if_pos rfl]
  exact arrive_rest hlen hr _ [] (by simp) rfl

/-- A number of two bytes read back. -/
theorem lenOf_bytes {n : Nat} (h : n < 65536) : lenOf (BitVec.ofNat 8 (n / 256)) (BitVec.ofNat 8 n) = n := by
  simp only [lenOf, BitVec.toNat_ofNat]
  omega

/-- The bytes of a frame end it as good, with its KIND, its TAG and its payload. -/
theorem arrive_frameBytes {kind tag : Nat} {payload : List Byte} (hk : kind < 256) (ht : tag < 256)
    (hp : payload.length ≤ 1024) :
    arrive .hunting (frameBytes kind tag payload) = some (.ended (.good kind tag payload)) := by
  have hl : lenOf (BitVec.ofNat 8 (payload.length / 256)) (BitVec.ofNat 8 payload.length) = payload.length :=
    lenOf_bytes (by omega)
  have hf : frameBytes kind tag payload = startByte :: BitVec.ofNat 8 kind :: BitVec.ofNat 8 tag ::
      BitVec.ofNat 8 (payload.length / 256) :: BitVec.ofNat 8 payload.length ::
        (payload ++ byte2 (crc (frameBody kind tag payload)).toNat) := by
    simp [frameBytes, frameBody, byte1, byte2, startByte]
  rw [hf, arrive_whole (by rw [hl]; exact hp) (by rw [hl]; simp)]
  have hb : frameBody kind tag payload = BitVec.ofNat 8 kind :: BitVec.ofNat 8 tag ::
      BitVec.ofNat 8 (payload.length / 256) :: BitVec.ofNat 8 payload.length :: payload := by
    simp [frameBody, byte1, byte2]
  simp only [checkFrame, hl, List.take_left, List.drop_left, ← hb, if_true]
  simp [Nat.mod_eq_of_lt hk, Nat.mod_eq_of_lt ht]

/-- The frame of a request is a good frame of its KIND. -/
theorem arrive_requestFrame {c : Instr} {l : Link} {kind len : Nat} {h : Head}
    (hc : asRequest c = some (l, kind, h, len)) (hk : kind < 256) (ht : h.tag < 256)
    (hp : (requestPayload c).length ≤ 1024) :
    (requestFrame c).bind (arrive .hunting) = some (.ended (.good kind h.tag (requestPayload c))) := by
  simp only [requestFrame, hc, Option.map_some, Option.bind_some]
  exact arrive_frameBytes hk ht hp

end Sys2Proof.Laws
end

