-- ==== Sys2Proof/Laws/Lead.lean ====
section
/-! SUPPORT. The first frame of the control link: what the work of a request leaves of the count of ATTENTION frames. -/

namespace Sys2Proof.Laws

open Sys2Proof.Machine

/-- Whether a frame has been sent on the control link since the start, and the tag of the next ATTENTION frame. -/
abbrev LeadIs (b : Bool) (n : Nat) (s : State) : Prop := s.attn.first = b ∧ s.attn.nextTag = n

variable {b : Bool} {n : Nat}

/-- Where the Attention Unit is as before, so is the lead. -/
theorem lead_same {s t : State} (e : t.attn = s.attn) (h : LeadIs b n s) : LeadIs b n t := by
  unfold LeadIs at *; rw [e]; exact h

theorem lead_frameDue (s : State) (h : LeadIs b n s) : LeadIs b n s.frameDue := by
  unfold LeadIs at *; rw [frameDue_attn]; exact h

theorem lead_raiseNotice (s : State) (id : Nat) (l : Line) (h : LeadIs b n s) : LeadIs b n (s.raiseNotice id l) :=
  lead_frameDue s h

theorem lead_settleLine (s : State) (id : Nat) (l : Line) (h : LeadIs b n s) : LeadIs b n (s.settleLine id l) := by
  unfold State.settleLine
  (repeat' split) <;> first | exact lead_raiseNotice _ _ _ h | exact h

theorem lead_return (s : State) (id : Nat) (h : LeadIs b n s) : LeadIs b n (s.claimReturn id) := by
  unfold State.claimReturn
  (repeat' split) <;> first | exact lead_settleLine _ _ _ h | exact h

theorem lead_resolve (s : State) (id : Nat) (h : LeadIs b n s) : LeadIs b n (s.claimResolve id) := by
  unfold State.claimResolve
  (repeat' split) <;> first | exact lead_settleLine _ _ _ h | exact h

theorem lead_raise (s : State) (e : Event) (h : LeadIs b n s) : LeadIs b n (s.raise e) := by
  rw [raise_writes]; exact h

theorem lead_releaseEval (s : State) (h : LeadIs b n s) : LeadIs b n s.releaseEval := by
  unfold State.releaseEval State.toNormal
  (repeat' split) <;> first | exact lead_raise _ _ h | exact h

theorem lead_freeSlot (s : State) (slot : Nat) (h : LeadIs b n s) : LeadIs b n (s.freeSlot slot) := by
  unfold State.freeSlot
  split
  · exact h
  · exact lead_releaseEval _ h

theorem lead_stable : Stable (LeadIs b n) where
  tape := fun _ _ h => h
  links := fun _ _ h => h
  sent := fun _ _ h => h
  pending := fun _ _ h => h
  attn := fun _ _ _ h => h
  throttle := fun _ _ h => h
  corrected := fun _ _ h => h
  contents := fun _ _ _ h => h
  covers := fun _ _ _ h => h
  note := fun _ _ _ _ h => lead_same (by simp) h
  strikeOne := strikeOne_of (fun _ _ _ h => h) (fun _ _ _ h => h) (fun _ _ _ _ h => lead_same (by simp) h)
    (fun s id h => lead_return s id h)
  marker := fun _ _ _ _ h => lead_same (by simp) h
  engine := fun _ _ h => h
  released := fun _ _ h => h
  takeFrame := fun _ _ _ h => lead_same (by simp) h
  freeSlot := fun s slot h => lead_freeSlot s slot h
  hide := fun _ _ _ _ h => lead_same (by simp) h
  reserve := fun _ _ _ he h => lead_same (claimReserve_attn he) h
  resolve := fun s id h => lead_resolve s id h
  claimReturn := fun s id h => lead_return s id h
  leave := fun _ _ h => lead_same (by simp) h
  chan := fun _ _ _ _ h => lead_same (by simp) h

theorem lead_evaluated : Evaluated (LeadIs b n) (LeadIs b n) where
  strong := lead_stable
  loose := lead_stable
  weaken := fun _ h => h
  anyChan := fun _ _ _ h => lead_same (by simp) h
  anyRelease := fun _ _ _ _ h => lead_same (by simp) h
  join := fun _ _ h => lead_same (by simp) h
  evaluate := fun _ h => lead_same (by simp) h

theorem lead_cancelLine (s : State) (id : Nat) (h : LeadIs b n s) : LeadIs b n (cancelLine id s) := by
  unfold cancelLine
  (repeat' split) <;> first | exact lead_raiseNotice _ _ _ h | exact h

theorem lead_onPair (s : State) (id : Nat) (l : Line) (f : Nat → State → State) (hf : ∀ k t, LeadIs b n t →
    LeadIs b n (f k t)) (h : LeadIs b n s) : LeadIs b n (s.onPair id l f) := by
  unfold State.onPair
  split
  · exact hf _ _ h
  · exact hf _ _ (hf _ _ h)

theorem lead_putInForce (s : State) (g : Settings) (h : LeadIs b n s) : LeadIs b n (putInForce g s) := by
  have h1 : LeadIs b n { s with profile := { s.profile with settings := g } } := h
  unfold putInForce
  dsimp only
  (repeat' split) <;> first
    | exact lead_evaluated.evaluate _ (lead_stable.markEval _ h1)
    | exact lead_evaluated.evaluate _ h1
    | exact lead_stable.markEval _ h1
    | exact h1

/-- The work of a request sends no frame on the control link. -/
theorem lead_bodies : Bodies (LeadIs b n) (LeadIs b n) where
  toEvaluated := lead_evaluated
  lineAdd := fun _ _ _ _ _ _ h => kept_checked h h
  pairAdd := fun _ _ _ _ _ _ _ _ h => kept_checked h h
  lineResize := by
    intro s id m h
    unfold lineResizeBody refuse
    split
    · exact h
    · refine kept_checked h (lead_onPair _ _ _ _ (fun k t ht => ?_) h)
      unfold resizeLine
      split
      · exact ht
      · exact lead_settleLine _ _ _ ht
  lineCancel := by
    intro s id h
    unfold lineCancelBody refuse
    split
    · exact h
    · exact kept_checked h (lead_onPair _ _ _ _ (fun k t ht => lead_cancelLine t k ht) h)
  lineRemove := by
    intro s id h
    unfold lineRemoveBody refuse
    split
    · exact h
    · exact kept_checked h (lead_onPair _ _ _ _ (fun k t ht => ht) h)
  clearNotices := fun s ids h => lead_same (by rw [clearNotices_eq]) h
  pieceDefine := fun _ _ _ _ _ _ h => lead_same (by simp) h
  variantDefine := fun _ _ _ _ _ h => lead_same (by simp) h
  variantRows := fun _ _ _ _ _ _ h => lead_same (by simp) h
  pieceReady := fun _ _ h => lead_same (by simp) h
  pieceErase := fun _ _ h => lead_same (by simp) h
  bankMode := fun _ _ _ h => lead_same (by simp) h
  hideOpen := by
    intro s a c d e h
    unfold hideOpenBody refuse
    refine kept_checked h ?_
    split
    · exact h
    · exact h
  thickness := fun _ _ _ h => lead_same (by simp) h
  hold := fun _ h => lead_same (by simp) h
  run := fun _ h => lead_same (by simp) h
  set := by
    intro s code v h
    unfold setBody refuse
    (repeat' split) <;> first | exact h | exact lead_putInForce _ _ h
  save := fun _ h => kept_checked h h
  load := fun _ h => kept_checked h h
  defaults := fun _ h => lead_putInForce _ _ h

end Sys2Proof.Laws
end

