-- ==== Sys2Proof/Laws/PerInstr.lean ====
section
/-! SUPPORT. Statements made command by command: a request that can occur has a kind that its link's partner sends, a
head that fits the frame, and a payload of the length of its fields that a frame can hold. -/

namespace Sys2Proof.Laws

open Sys2Proof.Machine

/-- What the catalogue says of a request (R170, R176). -/
def Fields.Statement (c : Instr) : Prop :=
  c.wellFormed = true → ∀ (l : Link) (kind : Nat) (h : Head) (len : Nat), asRequest c = some (l, kind, h, len) →
    kind ∈ partnerKinds l ∧ h.wellFormed = true ∧ (requestPayload c).length = len ∧ len ≤ Config.payloadBytes

/-- A command that is no request. -/
theorem Fields.of_event {c : Instr} (hc : asRequest c = none) : Fields.Statement c := fun _ l kind h len e => by
  rw [hc] at e; cases e

/-- A request. -/
theorem Fields.of_request {c : Instr} {l : Link} {kind len : Nat} {h : Head} (hc : asRequest c = some (l, kind, h, len))
    (hk : kind ∈ partnerKinds l) (hp : (requestPayload c).length = len)
    (hh : c.wellFormed = true → h.wellFormed = true ∧ len ≤ 1024) :
    Fields.Statement c := fun hw l' k' h' n' e => by
  rw [hc] at e
  cases e
  exact ⟨hk, (hh hw).1, hp, (hh hw).2⟩

/-- The kinds of the host, the scanner and the cutters. -/
theorem Fields.upLink_kind (u : UpLink) (kind : Nat) (h : kind ∈ hostKinds ∧ kind ∈ scannerKinds) :
    kind ∈ partnerKinds (upLink u) := by
  cases u
  · exact h.1
  · exact h.2

theorem Fields.powerOn :
    Fields.Statement .powerOn :=
  Fields.of_event rfl

theorem Fields.resetInput :
    Fields.Statement .resetInput :=
  Fields.of_event rfl

theorem Fields.restartAfterReset :
    Fields.Statement .restartAfterReset :=
  Fields.of_event rfl

theorem Fields.identify (h : Head) :
    Fields.Statement (.identify h) :=
  Fields.of_request rfl (by decide) rfl fun hw => ⟨hw, by decide⟩

theorem Fields.reset (h : Head) :
    Fields.Statement (.reset h) :=
  Fields.of_request rfl (by decide) rfl fun hw => ⟨hw, by decide⟩

theorem Fields.set (h : Head) (code value : Nat) :
    Fields.Statement (.set h code value) :=
  Fields.of_request rfl (by decide) rfl fun hw => by
    simp only [Instr.wellFormed, Bool.and_eq_true] at hw
    exact ⟨by simp_all, by decide⟩

theorem Fields.get (h : Head) (code : Nat) :
    Fields.Statement (.get h code) :=
  Fields.of_request rfl (by decide) rfl fun hw => by
    simp only [Instr.wellFormed, Bool.and_eq_true] at hw
    exact ⟨by simp_all, by decide⟩

theorem Fields.save (h : Head) :
    Fields.Statement (.save h) :=
  Fields.of_request rfl (by decide) rfl fun hw => ⟨hw, by decide⟩

theorem Fields.saveCompletion (passes : Bool) :
    Fields.Statement (.saveCompletion passes) :=
  Fields.of_event rfl

theorem Fields.load (h : Head) :
    Fields.Statement (.load h) :=
  Fields.of_request rfl (by decide) rfl fun hw => ⟨hw, by decide⟩

theorem Fields.loadCompletion :
    Fields.Statement .loadCompletion :=
  Fields.of_event rfl

theorem Fields.defaults (h : Head) :
    Fields.Statement (.defaults h) :=
  Fields.of_request rfl (by decide) rfl fun hw => ⟨hw, by decide⟩

theorem Fields.controlRateChange :
    Fields.Statement .controlRateChange :=
  Fields.of_event rfl

theorem Fields.lineAdd (h : Head) (id slot style size ordered : Nat) :
    Fields.Statement (.lineAdd h id slot style size ordered) :=
  Fields.of_request rfl (by decide) rfl fun hw => by
    simp only [Instr.wellFormed, Bool.and_eq_true] at hw
    exact ⟨by simp_all, by decide⟩

theorem Fields.pairAdd (h : Head) (id1 id2 slot1 slot2 ordered style size : Nat) :
    Fields.Statement (.pairAdd h id1 id2 slot1 slot2 ordered style size) :=
  Fields.of_request rfl (by decide) rfl fun hw => by
    simp only [Instr.wellFormed, Bool.and_eq_true] at hw
    exact ⟨by simp_all, by decide⟩

theorem Fields.lineResize (h : Head) (id ordered : Nat) :
    Fields.Statement (.lineResize h id ordered) :=
  Fields.of_request rfl (by decide) rfl fun hw => by
    simp only [Instr.wellFormed, Bool.and_eq_true] at hw
    exact ⟨by simp_all, by decide⟩

theorem Fields.lineCancel (h : Head) (id : Nat) :
    Fields.Statement (.lineCancel h id) :=
  Fields.of_request rfl (by decide) rfl fun hw => by
    simp only [Instr.wellFormed, Bool.and_eq_true] at hw
    exact ⟨by simp_all, by decide⟩

theorem Fields.lineRemove (h : Head) (id : Nat) :
    Fields.Statement (.lineRemove h id) :=
  Fields.of_request rfl (by decide) rfl fun hw => by
    simp only [Instr.wellFormed, Bool.and_eq_true] at hw
    exact ⟨by simp_all, by decide⟩

theorem Fields.lineRead (h : Head) (id : Nat) :
    Fields.Statement (.lineRead h id) :=
  Fields.of_request rfl (by decide) rfl fun hw => by
    simp only [Instr.wellFormed, Bool.and_eq_true] at hw
    exact ⟨by simp_all, by decide⟩

theorem Fields.pieceDefine (h : Head) (slot code margin : Nat) (offsets : Byte) (band : Option (Nat × Nat)) :
    Fields.Statement (.pieceDefine h slot code margin offsets band) :=
  Fields.of_request rfl (by decide) (by cases band <;> rfl) fun hw => by
    simp only [Instr.wellFormed, Bool.and_eq_true] at hw
    exact ⟨by simp_all, by decide⟩

theorem Fields.variantDefine (h : Head) (slot orientation width height : Nat) :
    Fields.Statement (.variantDefine h slot orientation width height) :=
  Fields.of_request rfl (by decide) rfl fun hw => by
    simp only [Instr.wellFormed, Bool.and_eq_true] at hw
    exact ⟨by simp_all, by decide⟩

theorem Fields.variantRows (h : Head) (slot orientation row start : Nat) (runs : List Run) :
    Fields.Statement (.variantRows h slot orientation row start runs) :=
  Fields.of_request rfl (by decide) (by simp [requestPayload, counted_length runs runBytes_length]; omega)
    fun hw => by
    simp only [Instr.wellFormed, Bool.and_eq_true, fits1, decide_eq_true_eq] at hw
    exact ⟨by simp_all, by omega⟩

theorem Fields.pieceReady (h : Head) (slot : Nat) :
    Fields.Statement (.pieceReady h slot) :=
  Fields.of_request rfl (by decide) rfl fun hw => by
    simp only [Instr.wellFormed, Bool.and_eq_true] at hw
    exact ⟨by simp_all, by decide⟩

theorem Fields.pieceErase (h : Head) (slot : Nat) :
    Fields.Statement (.pieceErase h slot) :=
  Fields.of_request rfl (by decide) rfl fun hw => by
    simp only [Instr.wellFormed, Bool.and_eq_true] at hw
    exact ⟨by simp_all, by decide⟩

theorem Fields.pieceRead (h : Head) (slot : Nat) (row : Option (Nat × Nat)) :
    Fields.Statement (.pieceRead h slot row) :=
  Fields.of_request rfl (by decide) (by cases row <;> rfl) fun hw => by
    simp only [Instr.wellFormed, Bool.and_eq_true] at hw
    exact ⟨by simp_all, by decide⟩

theorem Fields.bankMode (h : Head) (bank mode : Nat) :
    Fields.Statement (.bankMode h bank mode) :=
  Fields.of_request rfl (by decide) rfl fun hw => by
    simp only [Instr.wellFormed, Bool.and_eq_true] at hw
    exact ⟨by simp_all, by decide⟩

theorem Fields.hideOpen (h : Head) (tag width height backbone : Nat) :
    Fields.Statement (.hideOpen h tag width height backbone) :=
  Fields.of_request rfl (by decide) rfl fun hw => by
    simp only [Instr.wellFormed, Bool.and_eq_true] at hw
    exact ⟨by simp_all, by decide⟩

theorem Fields.rows (h : Head) (slot y x : Nat) (runs : List Run) :
    Fields.Statement (.rows h slot y x runs) :=
  Fields.of_request rfl (by decide) (by simp [requestPayload, counted_length runs runBytes_length]; omega)
    fun hw => by
    simp only [Instr.wellFormed, Bool.and_eq_true, fits1, decide_eq_true_eq] at hw
    exact ⟨by simp_all, by omega⟩

theorem Fields.thickness (h : Head) (slot : Nat) (entries : List Reading) :
    Fields.Statement (.thickness h slot entries) :=
  Fields.of_request rfl (by decide) (by simp [requestPayload, counted_length entries readingBytes_length]; omega)
    fun hw => by
    simp only [Instr.wellFormed, Bool.and_eq_true, fits1, decide_eq_true_eq] at hw
    exact ⟨by simp_all, by omega⟩

theorem Fields.flaw (l : UpLink) (h : Head) (slot : Nat) (f : Flaw) (reads : List ReadOutcome) :
    Fields.Statement (.flaw l h slot f reads) :=
  Fields.of_request rfl (Fields.upLink_kind l _ (by decide)) rfl fun hw => by
    simp only [Instr.wellFormed, Bool.and_eq_true] at hw
    exact ⟨by simp_all, by decide⟩

theorem Fields.flawsClear (h : Head) (slot : Nat) :
    Fields.Statement (.flawsClear h slot) :=
  Fields.of_request rfl (by decide) rfl fun hw => by
    simp only [Instr.wellFormed, Bool.and_eq_true] at hw
    exact ⟨by simp_all, by decide⟩

theorem Fields.mapCommit (h : Head) (slot : Nat) :
    Fields.Statement (.mapCommit h slot) :=
  Fields.of_request rfl (by decide) rfl fun hw => by
    simp only [Instr.wellFormed, Bool.and_eq_true] at hw
    exact ⟨by simp_all, by decide⟩

theorem Fields.commitCompletion (slot : Nat) (reads : List ReadOutcome) :
    Fields.Statement (.commitCompletion slot reads) :=
  Fields.of_event rfl

theorem Fields.hideRead (h : Head) (slot : Nat) :
    Fields.Statement (.hideRead h slot) :=
  Fields.of_request rfl (by decide) rfl fun hw => by
    simp only [Instr.wellFormed, Bool.and_eq_true] at hw
    exact ⟨by simp_all, by decide⟩

theorem Fields.placementsRead (h : Head) (slot first : Nat) :
    Fields.Statement (.placementsRead h slot first) :=
  Fields.of_request rfl (by decide) rfl fun hw => by
    simp only [Instr.wellFormed, Bool.and_eq_true] at hw
    exact ⟨by simp_all, by decide⟩

theorem Fields.discard (l : UpLink) (h : Head) (slot : Nat) :
    Fields.Statement (.discard l h slot) :=
  Fields.of_request rfl (Fields.upLink_kind l _ (by decide)) rfl fun hw => by
    simp only [Instr.wellFormed, Bool.and_eq_true] at hw
    exact ⟨by simp_all, by decide⟩

theorem Fields.close (h : Head) (slot : Nat) :
    Fields.Statement (.close h slot) :=
  Fields.of_request rfl (by decide) rfl fun hw => by
    simp only [Instr.wellFormed, Bool.and_eq_true] at hw
    exact ⟨by simp_all, by decide⟩

theorem Fields.nest (h : Head) (slot : Nat) (steps : List StepReq) :
    Fields.Statement (.nest h slot steps) :=
  Fields.of_request rfl (by decide) (by simp [requestPayload, counted_length steps stepReqBytes_length]; omega)
    fun hw => by
    simp only [Instr.wellFormed, Bool.and_eq_true, fits1, decide_eq_true_eq] at hw
    exact ⟨by simp_all, by omega⟩

theorem Fields.nestTake :
    Fields.Statement .nestTake :=
  Fields.of_event rfl

theorem Fields.stopChecks :
    Fields.Statement .stopChecks :=
  Fields.of_event rfl

theorem Fields.fitTest (reads : List ReadOutcome) :
    Fields.Statement (.fitTest reads) :=
  Fields.of_event rfl

theorem Fields.unitPush :
    Fields.Statement .unitPush :=
  Fields.of_event rfl

theorem Fields.stepEnd :
    Fields.Statement .stepEnd :=
  Fields.of_event rfl

theorem Fields.passEnd (reads : List ReadOutcome) :
    Fields.Statement (.passEnd reads) :=
  Fields.of_event rfl

theorem Fields.passAbort :
    Fields.Statement .passAbort :=
  Fields.of_event rfl

theorem Fields.place (h : Head) (slot line orientation x y : Nat) (reads : List ReadOutcome) :
    Fields.Statement (.place h slot line orientation x y reads) :=
  Fields.of_request rfl (by decide) rfl fun hw => by
    simp only [Instr.wellFormed, Bool.and_eq_true] at hw
    exact ⟨by simp_all, by decide⟩

theorem Fields.placePair (h : Head) (slot line : Nat) (a b : Spot) (reads : List ReadOutcome) :
    Fields.Statement (.placePair h slot line a b reads) :=
  Fields.of_request rfl (by decide) rfl fun hw => by
    simp only [Instr.wellFormed, Bool.and_eq_true] at hw
    exact ⟨by simp_all, by decide⟩

theorem Fields.strike (h : Head) (slot index : Nat) :
    Fields.Statement (.strike h slot index) :=
  Fields.of_request rfl (by decide) rfl fun hw => by
    simp only [Instr.wellFormed, Bool.and_eq_true] at hw
    exact ⟨by simp_all, by decide⟩

theorem Fields.release (h : Head) (slot urgency : Nat) (mask : Byte) :
    Fields.Statement (.release h slot urgency mask) :=
  Fields.of_request rfl (by decide) rfl fun hw => by
    simp only [Instr.wellFormed, Bool.and_eq_true] at hw
    exact ⟨by simp_all, by decide⟩

theorem Fields.hold (h : Head) :
    Fields.Statement (.hold h) :=
  Fields.of_request rfl (by decide) rfl fun hw => ⟨hw, by decide⟩

theorem Fields.run (h : Head) :
    Fields.Statement (.run h) :=
  Fields.of_request rfl (by decide) rfl fun hw => ⟨hw, by decide⟩

theorem Fields.cutterEnable (h : Head) (channel : Nat) :
    Fields.Statement (.cutterEnable h channel) :=
  Fields.of_request rfl (by decide) rfl fun hw => by
    simp only [Instr.wellFormed, Bool.and_eq_true] at hw
    exact ⟨by simp_all, by decide⟩

theorem Fields.cutterDisable (h : Head) (channel : Nat) :
    Fields.Statement (.cutterDisable h channel) :=
  Fields.of_request rfl (by decide) rfl fun hw => by
    simp only [Instr.wellFormed, Bool.and_eq_true] at hw
    exact ⟨by simp_all, by decide⟩

theorem Fields.cutterReset (h : Head) (channel : Nat) (reads : List ReadOutcome) :
    Fields.Statement (.cutterReset h channel reads) :=
  Fields.of_request rfl (by decide) rfl fun hw => by
    simp only [Instr.wellFormed, Bool.and_eq_true] at hw
    exact ⟨by simp_all, by decide⟩

theorem Fields.cutterRead (h : Head) (channel : Nat) :
    Fields.Statement (.cutterRead h channel) :=
  Fields.of_request rfl (by decide) rfl fun hw => by
    simp only [Instr.wellFormed, Bool.and_eq_true] at hw
    exact ⟨by simp_all, by decide⟩

theorem Fields.storeRead (h : Head) :
    Fields.Statement (.storeRead h) :=
  Fields.of_request rfl (by decide) rfl fun hw => ⟨hw, by decide⟩

theorem Fields.attnSummary (h : Head) :
    Fields.Statement (.attnSummary h) :=
  Fields.of_request rfl (by decide) rfl fun hw => ⟨hw, by decide⟩

theorem Fields.attnRead (h : Head) (source : Nat) :
    Fields.Statement (.attnRead h source) :=
  Fields.of_request rfl (by decide) rfl fun hw => by
    simp only [Instr.wellFormed, Bool.and_eq_true] at hw
    exact ⟨by simp_all, by decide⟩

theorem Fields.attnClear (h : Head) (source : Nat) (list : List Nat) :
    Fields.Statement (.attnClear h source list) :=
  Fields.of_request rfl (by decide) (by simp [requestPayload, counted_length list byte1_length]; omega)
    fun hw => by
    simp only [Instr.wellFormed, Bool.and_eq_true, fits1, decide_eq_true_eq] at hw
    exact ⟨by simp_all, by omega⟩

theorem Fields.attentionSend :
    Fields.Statement .attentionSend :=
  Fields.of_event rfl

theorem Fields.ready (c : Fin 4) (h : Head) (reads : List ReadOutcome) :
    Fields.Statement (.ready c h reads) :=
  Fields.of_request rfl (by simp [partnerKinds, cutterKinds]) rfl fun hw => ⟨hw, by decide⟩

theorem Fields.cutReport (c : Fin 4) (h : Head) (ticket outcome reason detail : Nat) :
    Fields.Statement (.cutReport c h ticket outcome reason detail) :=
  Fields.of_request rfl (by simp [partnerKinds, cutterKinds]) rfl fun hw => by
    simp only [Instr.wellFormed, Bool.and_eq_true] at hw
    exact ⟨by simp_all, by decide⟩

theorem Fields.cutterFault (c : Fin 4) (h : Head) (code : Nat) (reads : List ReadOutcome) :
    Fields.Statement (.cutterFault c h code reads) :=
  Fields.of_request rfl (by simp [partnerKinds, cutterKinds]) rfl fun hw => by
    simp only [Instr.wellFormed, Bool.and_eq_true] at hw
    exact ⟨by simp_all, by decide⟩

theorem Fields.ticketSend (c : Fin 4) :
    Fields.Statement (.ticketSend c) :=
  Fields.of_event rfl

theorem Fields.ticketAnswer (c : Fin 4) (tag : Nat) (answer : PlainAnswer) :
    Fields.Statement (.ticketAnswer c tag answer) :=
  Fields.of_event rfl

theorem Fields.ticketTimeout (c : Fin 4) :
    Fields.Statement (.ticketTimeout c) :=
  Fields.of_event rfl

theorem Fields.deadlineExpiry (c : Fin 4) (ticket : TicketRef) :
    Fields.Statement (.deadlineExpiry c ticket) :=
  Fields.of_event rfl

theorem Fields.ticketQuerySend (c : Fin 4) :
    Fields.Statement (.ticketQuerySend c) :=
  Fields.of_event rfl

theorem Fields.queryAnswer (c : Fin 4) (tag : Nat) (answer : QueryReply) (reads : List ReadOutcome) :
    Fields.Statement (.queryAnswer c tag answer reads) :=
  Fields.of_event rfl

theorem Fields.queryTimeout (c : Fin 4) (reads : List ReadOutcome) :
    Fields.Statement (.queryTimeout c reads) :=
  Fields.of_event rfl

theorem Fields.abortHideSend (c : Fin 4) :
    Fields.Statement (.abortHideSend c) :=
  Fields.of_event rfl

theorem Fields.abortAnswer (c : Fin 4) (tag : Nat) (answer : PlainAnswer) :
    Fields.Statement (.abortAnswer c tag answer) :=
  Fields.of_event rfl

theorem Fields.abortTimeout (c : Fin 4) :
    Fields.Statement (.abortTimeout c) :=
  Fields.of_event rfl

theorem Fields.unexpectedReply (c : Fin 4) (tag : Nat) :
    Fields.Statement (.unexpectedReply c tag) :=
  Fields.of_event rfl

theorem Fields.lenTooLong (l : Link) (bytes : List Byte) (last : Byte) :
    Fields.Statement (.lenTooLong l bytes last) :=
  Fields.of_event rfl

theorem Fields.frameCrcMismatch (l : Link) (bytes : List Byte) :
    Fields.Statement (.frameCrcMismatch l bytes) :=
  Fields.of_event rfl

theorem Fields.interByteGap (l : Link) :
    Fields.Statement (.interByteGap l) :=
  Fields.of_event rfl

theorem Fields.badKindFrame (l : Link) (bytes : List Byte) (last : Byte) :
    Fields.Statement (.badKindFrame l bytes last) :=
  Fields.of_event rfl

theorem Fields.frameBegin (p : Link × List Byte) :
    Fields.Statement (.frameBegin p) :=
  Fields.of_event rfl

theorem Fields.notOnLinkFrame (l : Link) (bytes : List Byte) (last : Byte) :
    Fields.Statement (.notOnLinkFrame l bytes last) :=
  Fields.of_event rfl

theorem Fields.replyOnControlOrScannerLink (p : UpLink × List Byte) :
    Fields.Statement (.replyOnControlOrScannerLink p) :=
  Fields.of_event rfl

end Sys2Proof.Laws
end

