-- ==== Sys2Proof/Laws/Rounds.lean ====
section
/-! SUPPORT. The rounds of a strike sweep (R105): each round that poisons a tile leaves fewer sound ones, so that the
rounds end. -/

namespace Sys2Proof.Laws

open Sys2Proof.Machine

/-- The tile table and the poisoned marks of the hide in a slot. -/
def mapOf (s : State) (slot : Nat) : Option (Tab Nat × List Nat) := (s.hide slot).map fun h => (h.frames, h.poisoned)

/-- The number of framed tiles that are not poisoned. -/
def soundTiles (m : Option (Tab Nat × List Nat)) : Nat := (m.map fun e => (e.1.filter fun f => decide (f.1 ∉
    e.2)).length).getD 0

/-- A write that keeps tile table and marks. -/
theorem mapOf_mod (s : State) (slot k : Nat) (f : Hide → Hide) (hf : ∀ h, (f h).frames = h.frames ∧ (f h).poisoned
    = h.poisoned) : mapOf (s.modHide slot f) k = mapOf s k := by
  unfold mapOf
  cases hg : s.hide slot with
  | none => rw [modHide_none _ hg]
  | some g =>
    rw [modHide_some _ hg]
    by_cases hk : k = slot
    · subst hk
      have : (s.putHide k (f g)).hide k = some (f g) := get_put_self _ _ _
      rw [this, hg]; simp [hf g]
    · have : (s.putHide slot (f g)).hide k = s.hide k := get_put_other _ _ hk
      rw [this]

/-- Only the hides decide it. -/
theorem mapOf_same {s t : State} (h : t.hides = s.hides) (k : Nat) : mapOf t k = mapOf s k := by
  unfold mapOf State.hide; rw [h]

/-- A strike keeps the map. -/
theorem mapOf_strikeOne (s : State) (slot i k : Nat) : mapOf (s.strikeOne slot i) k = mapOf s k := by
  unfold State.strikeOne
  split
  · rfl
  · split
    · rw [mapOf_same (raise_hides _ _), mapOf_same (claimReturn_hides _ _), mapOf_same (unmarkCover_hides _ _ _ _ _
        _)]
      exact mapOf_mod _ _ _ _ fun h => ⟨rfl, rfl⟩
    · rfl

/-- A strike with its partner keeps the map. -/
theorem mapOf_strike (s : State) (slot i k : Nat) : mapOf (s.strike slot i) k = mapOf s k := by
  unfold State.strike
  split
  · exact mapOf_strikeOne _ _ _ _
  · rw [mapOf_strikeOne, mapOf_strikeOne]

/-- A read keeps the map, or poisons a framed tile that was sound. -/
theorem readCell_map (s : State) (slot x y : Nat) (h : Hide) (hh : s.hide slot = some h) :
    (mapOf (s.readCell slot x y).1 slot = mapOf s slot ∧ (s.readCell slot x y).2 ≠ .poisoned true) ∨
    (soundTiles (mapOf (s.readCell slot x y).1 slot) + 1 ≤ soundTiles (mapOf s slot) ∧ (s.readCell slot x y).2 =
        .poisoned true) := by
  unfold State.readCell
  rw [hh]
  dsimp only
  cases hf : Tab.get h.frames (h.tileOf x y) with
  | none => exact .inl ⟨rfl, by simp⟩
  | some f =>
    dsimp only
    by_cases hp : h.poisoned.contains (h.tileOf x y) = true
    · rw [if_pos hp]; exact .inl ⟨rfl, by simp⟩
    · rw [if_neg hp]
      split
      · right
        refine ⟨?_, rfl⟩
        have hh' : State.hide { s with tape := s.tape.tail } slot = some h := hh
        have e : mapOf (State.poisonTile slot (h.tileOf x y) { s with tape := s.tape.tail }) slot = some (h.frames,
            insertNat (h.tileOf x y) h.poisoned) := by
          unfold State.poisonTile
          rw [mapOf_same (raise_hides _ _), modHide_some _ hh']
          unfold mapOf
          let g : Hide := { h with poisoned := insertNat (h.tileOf x y) h.poisoned }
          have : (State.putHide { s with tape := s.tape.tail } slot g).hide slot = some g := get_put_self _ _ _
          rw [this]; rfl
        rw [e]
        unfold mapOf; rw [hh]
        simp only [soundTiles, Option.map_some, Option.getD_some]
        have hp' : h.tileOf x y ∉ h.poisoned := by simpa using hp
        have hm := mem_of_get hf
        have hsub : (h.frames.filter fun f => decide (f.1 ∉ insertNat (h.tileOf x y) h.poisoned)) =
           ((h.frames.filter fun f => decide (f.1 ∉ h.poisoned)).filter fun f => decide (f.1 ≠ h.tileOf x y)) := by
          rw [List.filter_filter]
          apply List.filter_congr
          intro f hf; simp [mem_insertNat, not_or]
        rw [hsub]
        refine Nat.succ_le_of_lt (List.length_filter_lt_length_iff_exists.2 ⟨(h.tileOf x y, f), ?_, by simp⟩)
        simp [hm, hp']
      · left; exact ⟨rfl, by unfold State.contentRead; split <;> simp⟩
      · left; exact ⟨rfl, by unfold State.contentRead; split <;> simp⟩

/-- A hide that was there is still there. -/
theorem isSome_of_map {s t : State} {slot : Nat} (h : (t.hide slot).isSome = (s.hide slot).isSome) {g : Hide} (hg :
    s.hide slot = some g) : ∃ g', t.hide slot = some g' := by
  rw [hg] at h; exact Option.isSome_iff_exists.1 h

/-- No tile becomes sound, and one fewer is where a poisoning is told. -/
def TellsPoison (s t : State) (slot : Nat) (fresh : Option Nat) : Prop :=
  soundTiles (mapOf t slot) ≤ soundTiles (mapOf s slot) ∧ (fresh ≠ none → soundTiles (mapOf t slot) + 1 ≤
      soundTiles (mapOf s slot)) ∧ (t.hide slot).isSome = (s.hide slot).isSome

/-- The tile that a test poisoned. -/
def toldTile : FitResult → Option Nat
  | .pass => none
  | .fail _ _ _ f => f

/-- A cell test tells each tile it poisons. -/
theorem testCell_less (retest : Bool) (slot : Nat) (band) (g : Hide) (zone x y : Nat) (s : State) (h : Hide) (hh :
    s.hide slot = some h) :
    TellsPoison s (testCell retest slot band g zone x y s).1 slot (toldTile (testCell retest slot band g zone x y
        s).2) := by
  have hs : ((s.readCell slot x y).1.hide slot).isSome = (s.hide slot).isSome := readCell_isSome _ _ _ _
  have hr := readCell_map s slot x y h hh
  unfold testCell
  split
  · exact ⟨le_refl _, by simp [toldTile], rfl⟩
  · simp only
    have a : soundTiles (mapOf (s.readCell slot x y).1 slot) ≤ soundTiles (mapOf s slot) := by
      rcases hr with ⟨e, _⟩ | ⟨e, _⟩
      · rw [e]
      · omega
    (repeat' split) <;> refine ⟨a, fun hf => ?_, hs⟩ <;> simp [toldTile] at hf
    next heq e =>
      rcases hr with ⟨_, e2⟩ | ⟨e2, _⟩
      · rw [heq, e] at e2; exact absurd rfl e2
      · exact e2

/-- So do the tests of several cells. -/
theorem testCells_less (retest : Bool) (slot : Nat) (band) (g : Hide) (x y : Nat) (cells : List BodyCell) (s :
    State) (h : Hide) (hh : s.hide slot = some h) :
    TellsPoison s (testCells retest slot band g x y cells s).1 slot (toldTile (testCells retest slot band g x y
        cells s).2) := by
  induction cells generalizing s h with
  | nil => exact ⟨le_refl _, by simp [testCells, toldTile], rfl⟩
  | cons c t ih =>
    have h1 := testCell_less retest slot band g c.zone (x + c.i) (y + c.j) s h hh
    unfold testCells
    simp only
    split
    · obtain ⟨h', hh'⟩ := isSome_of_map h1.2.2 hh
      have h2 := ih _ h' hh'
      exact ⟨h2.1.trans h1.1, fun hf => by have := h2.2.1 hf; have := h1.1; omega, h2.2.2.trans h1.2.2⟩
    · exact h1

/-- So does a fit test. -/
theorem fitTest_less (retest : Bool) (slot : Nat) (band) (v : Variant) (x y : Nat) (s : State) :
    TellsPoison s (fitTest retest slot band v x y s).1 slot (toldTile (fitTest retest slot band v x y s).2) := by
  unfold fitTest
  split
  · exact ⟨le_refl _, by simp [toldTile], rfl⟩
  · next h hh => exact testCells_less _ _ _ _ _ _ _ _ _ hh

/-- No more tiles are sound than the hide has. -/
theorem sound_le (s : State) (slot : Nat) (g : Hide) (hg : s.hide slot = some g) (hs : Tab.sorted g.frames = true)
    (n : Nat) (hn : ∀ e ∈ g.frames, e.1 < n) : soundTiles (mapOf s slot) ≤ n := by
  unfold mapOf; rw [hg]
  simp only [soundTiles, Option.map_some, Option.getD_some]
  refine (List.length_filter_le _ _).trans ?_
  have hnd : (g.frames.map (·.1)).Nodup := by
    have : ∀ t : Tab Nat, Tab.sorted t = true → (t.map (·.1)).Nodup := by
      intro t
      induction t with
      | nil => intro _; simp
      | cons e t ih =>
        obtain ⟨j, b⟩ := e
        intro h; rw [sorted_cons] at h
        simp only [List.map_cons, List.nodup_cons]
        refine ⟨fun hm => ?_, ih h.2⟩
        obtain ⟨e, he, hj⟩ := List.mem_map.1 hm
        have := h.1 e he; omega
    exact this _ hs
  have hsub : (g.frames.map (·.1)) ⊆ List.range n := by
    intro k hk
    obtain ⟨e, he, rfl⟩ := List.mem_map.1 hk
    exact List.mem_range.2 (hn e he)
  have := (hnd.subperm hsub).length_le
  simpa using this

/-- A re-test tells each tile it poisons. -/
theorem retest_less (slot i : Nat) (w : Sweep) (n : Nat) (h1 : soundTiles (mapOf w.s slot) ≤ n) (h2 : w.fresh ≠ []
    → soundTiles (mapOf w.s slot) + 1 ≤ n) :
    soundTiles (mapOf (Sweep.retest slot w i).s slot) ≤ n ∧ ((Sweep.retest slot w i).fresh ≠ [] → soundTiles (mapOf
        (Sweep.retest slot w i).s slot) + 1 ≤ n) := by
  unfold Sweep.retest
  split
  · exact ⟨h1, h2⟩
  · next p hp =>
    split
    · split
      · exact ⟨h1, h2⟩
      · next pc v hv =>
        have hl := fitTest_less true slot pc.band v p.x p.y w.s
        simp only
        split
        · refine ⟨hl.1.trans h1, fun hf => ?_⟩
          have := h2 hf; have := hl.1; simp only; omega
        · next c a b fresh hr =>
          rw [hr] at hl
          simp only [mapOf_strike]
          refine ⟨hl.1.trans h1, fun hf => ?_⟩
          cases fresh with
          | none => have := h2 (by simpa [joinFresh] using hf); have := hl.1; omega
          | some t => have := hl.2.1 (by simp [toldTile]); omega
    · exact ⟨h1, h2⟩

/-- A round that ends with tiles poisoned leaves fewer tiles sound. -/
theorem round_less (slot : Nat) (area changed) (w : Sweep) :
    soundTiles (mapOf (Sweep.round slot area changed w).s slot) ≤ soundTiles (mapOf w.s slot) ∧
    ((Sweep.round slot area changed w).fresh ≠ [] → soundTiles (mapOf (Sweep.round slot area changed w).s slot) + 1
        ≤ soundTiles (mapOf w.s slot)) := by
  let Q (u : Sweep) : Prop := soundTiles (mapOf u.s slot) ≤ soundTiles (mapOf w.s slot) ∧ (u.fresh ≠ [] →
      soundTiles (mapOf u.s slot) + 1 ≤ soundTiles (mapOf w.s slot))
  refine foldl_inv (Sweep.mark slot) Q (fun u i hu => ?_) _ _ (foldl_inv (Sweep.retest slot) Q (fun u i hu =>
      retest_less _ _ _ _ hu.1 hu.2) _ { w with fresh := [] } ⟨le_refl _, fun h => absurd rfl h⟩)
  have : mapOf (Sweep.mark slot u i).s slot = mapOf u.s slot := by
    unfold Sweep.mark
    simp only
    rw [mapOf_same (raise_hides _ _)]
    exact mapOf_mod _ _ _ _ fun h => ⟨rfl, rfl⟩
  exact ⟨by rw [this]; exact hu.1, fun hf => by rw [this]; exact hu.2 hf⟩

/-- With rounds enough the last one poisons no tile. -/
theorem rounds_end (slot cols fuel : Nat) (w : Sweep) (h : w.fresh ≠ [] → soundTiles (mapOf w.s slot) < fuel) :
    (Sweep.rounds slot cols fuel w).fresh = [] := by
  induction fuel generalizing w with
  | zero =>
    by_contra hne
    have := h hne; omega
  | succ n ih =>
    unfold Sweep.rounds
    split
    · next he => simpa using he
    · next he =>
      have he' : w.fresh ≠ [] := by simpa using he
      refine ih _ fun hf => ?_
      have h1 := (round_less slot (inTiles cols w.fresh) (inTiles cols w.fresh) w).2 hf
      have := h he'
      omega

/-- A round of clean reads poisons no tile. -/
theorem clean_round (slot : Nat) (area changed) (w : Sweep) (ht : w.s.tape = []) : (Sweep.round slot area changed
    w).fresh = [] := by
  let Q (u : Sweep) : Prop := u.s.tape = [] ∧ u.fresh = []
  have key : Q (Sweep.round slot area changed w) := by
    refine foldl_inv (Sweep.mark slot) Q (fun u i hu => ⟨by simp [Sweep.mark, hu.1], hu.2⟩) _ _ (foldl_inv
        (Sweep.retest slot) Q (fun u i hu => ?_) _ { w with fresh := [] } ⟨ht, rfl⟩)
    unfold Sweep.retest
    split
    · exact hu
    · next p hp =>
      split
      · split
        · exact hu
        · next pc v hv =>
          have fc : ∀ retest slot band v x y (s : State), s.tape = [] → (fitTest retest slot band v x y s).1 = s ∧
              toldTile (fitTest retest slot band v x y s).2 = none := by
            intro retest slot band v x y s hts
            unfold fitTest
            cases hg : s.hide slot with
            | none => exact ⟨rfl, rfl⟩
            | some g =>
              dsimp only
              have : ∀ cs : List BodyCell, (testCells retest slot band g x y cs s).1 = s ∧ toldTile (testCells
                  retest slot band g x y cs s).2 = none := by
                intro cs
                induction cs with
                | nil => exact ⟨rfl, rfl⟩
                | cons c t ih =>
                  have e := testCell_clean retest slot band g c.zone (x + c.i) (y + c.j) s hts hg
                  unfold testCells
                  simp only
                  split
                  · rw [e]; exact ih
                  · next heq =>
                    refine ⟨e, ?_⟩
                    have hl := testCell_less retest slot band g c.zone (x + c.i) (y + c.j) s g hg
                    by_contra hne
                    have := hl.2.1 hne
                    rw [e] at this; omega
              exact this _
          obtain ⟨e1, e2⟩ := fc true slot pc.band v p.x p.y w.s ht
          simp only
          obtain ⟨e3, e4⟩ := fc true slot pc.band v p.x p.y u.s hu.1
          split
          · exact ⟨by rw [e3]; exact hu.1, hu.2⟩
          · next hr =>
            rw [hr] at e4
            simp only [toldTile] at e4
            subst e4
            exact ⟨by simp [e3, hu.1], by simp [joinFresh, hu.2]⟩
      · exact hu
  exact key.2

/-- Whether a cell lies in one of some tiles. -/
theorem inTiles_eq (g : Hide) (tiles : List Nat) : inTiles g.cols tiles = fun x y => decide (g.tileOf x y ∈ tiles)
    := by
  funext x y; rw [Bool.eq_iff_iff]; simp [inTiles, Hide.tileOf]; exact decide_eq_true_iff.symm

end Sys2Proof.Laws
end

