-- ==== Sys2Proof/Tests/Slice0.lean ====
section
/-! SUPPORT. The model's own tests: ill-formed commands, small steps, and a state for the hypotheses of every statement
that has some. -/

namespace Sys2Proof.Tests

open Sys2Proof Sys2Proof.Machine

/-! ### Ill-formed commands: one for each check -/

theorem test_head_tag : Instr.wellFormed (.identify { tag := 256 }) = false := by decide
theorem test_head_len : Instr.wellFormed (.identify { len := some 1025 }) = false := by decide
theorem test_head_ok : Instr.wellFormed (.identify { tag := 255, len := some 1024 }) = true := by decide
theorem test_set_code : Instr.wellFormed (.set {} 256 0) = false := by decide
theorem test_set_value : Instr.wellFormed (.set {} 1 4294967296) = false := by decide
theorem test_lineAdd_widths :
    Instr.wellFormed (.lineAdd {} 256 0 0 0 1) = false ∧ Instr.wellFormed (.lineAdd {} 0 256 0 0 1) = false ∧
    Instr.wellFormed (.lineAdd {} 0 0 65536 0 1) = false ∧ Instr.wellFormed (.lineAdd {} 0 0 0 65536 1) = false ∧
    Instr.wellFormed (.lineAdd {} 0 0 0 0 65536) = false := by decide
theorem test_pieceDefine_band : Instr.wellFormed (.pieceDefine {} 0 0 0 0 (some (30, 65536))) = false := by decide
theorem test_pieceRead_row : Instr.wellFormed (.pieceRead {} 0 (some (0, 256))) = false := by decide
theorem test_runs_width : Instr.wellFormed (.rows {} 0 0 0 [⟨0, 256⟩]) = false := by decide
set_option maxRecDepth 4000 in
theorem test_runs_count : Instr.wellFormed (.variantRows {} 0 0 0 0 (List.replicate 256 ⟨0, 1⟩)) = false := by decide
theorem test_reading_width : Instr.wellFormed (.thickness {} 0 [⟨0, 0, 65536⟩]) = false := by decide
theorem test_flaw_width : Instr.wellFormed (.flaw .scanner {} 0 ⟨65536, 0, 0, 0, 0, 0, 0⟩ []) = false := by decide
theorem test_commit_slot : Instr.wellFormed (.commitCompletion 12 []) = false := by decide
theorem test_step_width : Instr.wellFormed (.nest {} 0 [⟨0, 256, 0⟩]) = false := by decide
theorem test_spot_width : Instr.wellFormed (.placePair {} 0 0 ⟨0, 65536, 0⟩ ⟨0, 0, 0⟩ []) = false := by decide
theorem test_clear_entry : Instr.wellFormed (.attnClear {} 0 [256]) = false := by decide
theorem test_report_width : Instr.wellFormed (.cutReport 0 {} 1 256 0 0) = false := by decide
theorem test_answer_width : Instr.wellFormed (.ticketAnswer 0 0 (.refuse 256 0)) = false := by decide
theorem test_query_width : Instr.wellFormed (.queryAnswer 0 0 (.finished .cut 0 65536) []) = false := by decide
theorem test_expiry_ticket :
    Instr.wellFormed (.deadlineExpiry 0 ⟨0, 0⟩) = false ∧ Instr.wellFormed (.deadlineExpiry 0 ⟨65536, 0⟩) = false ∧
    Instr.wellFormed (.deadlineExpiry 0 ⟨1, 160⟩) = false := by decide
theorem test_frame_last_byte :
    Instr.wellFormed (.frameCrcMismatch .control []) = false ∧
    Instr.wellFormed (.replyOnControlOrScannerLink (.control, [])) = false := by decide
set_option maxRecDepth 8000 in
theorem test_frame_length :
    Instr.wellFormed (.frameCrcMismatch .control (List.replicate 1032 0)) = false ∧
    Instr.wellFormed (.frameCrcMismatch .control (List.replicate 1031 0)) = true ∧
    Instr.wellFormed (.lenTooLong .control (List.replicate 1031 0) 0) = false ∧
    Instr.wellFormed (.badKindFrame .control (List.replicate 1031 0) 0) = false ∧
    Instr.wellFormed (.notOnLinkFrame .control (List.replicate 1031 0) 0) = false ∧
    Instr.wellFormed (.notOnLinkFrame .control (List.replicate 1030 0) 0) = true ∧
    Instr.wellFormed (.frameBegin (.control, List.replicate 1030 0)) = false := by decide

/-! ### The check of a frame, and the layouts -/

set_option maxRecDepth 8000 in
/-- The check value that R168 gives for the nine digits. -/
theorem test_crc : crc [0x31, 0x32, 0x33, 0x34, 0x35, 0x36, 0x37, 0x38, 0x39] = 0x29B1 := by decide
theorem test_refuse_payload : OutFrame.payload (.reply (.refuseNoFit 6 258 3)) = [13, 0, 6, 1, 2, 0, 3] := by decide
theorem test_ticket_payload :
    OutFrame.payload (.ticket 258 1 2 3 4 5 6) = [1, 2, 0, 0, 0, 1, 2, 0, 3, 4, 0, 5, 0, 6] := by decide
/-- A line's record, with the mirror line's id and role absent. -/
theorem test_line_payload :
    acceptPayload (.line 9 ⟨.active, 1, 2, 3, 260, 258, 1, 1, none, false⟩) =
      [9, 0, 1, 0, 2, 0, 3, 1, 4, 1, 2, 0, 1, 0, 1, 0, 0, 0, 0, 0] := by decide
/-- A CUTTER_READ reply carries the kind of the outstanding request alone (R164). -/
theorem test_channel_payload :
    (acceptPayload (.channelRecord (channelView State.reset 2))).length = 25 := by decide
/-- A count without a range takes four bytes, and the throttle's code one (R65, R176). -/
theorem test_rows_payload :
    acceptPayload (.rows 2 258 1 8191 .throttled) = [2, 1, 2, 0, 0, 0, 1, 31, 255, 1] := by decide
/-- A FREE slot: every item of HIDE_READ but the first two is absent, with a presence byte of its own (R56). -/
theorem test_counts_without_range :
    (acceptPayload (.removed [7, 9]) = [0, 0, 0, 2, 7, 9] ∧
      acceptPayload (.cleared 3 [1] [0, 0, 0]) = [3, 0, 0, 0, 1, 1, 0, 0, 0]) ∧
    acceptPayload (.pendingCodes 3 []) = [3, 0, 0, 0, 0] ∧
    acceptPayload (.notices 16 2 [4, 5]) = [16, 0, 2, 2, 4, 5] := by decide

theorem test_free_payload : acceptPayload (.hide 3 0 none) = [3, 0] ++ List.replicate 118 0 := by decide
/-- A cutter's answers to a query (R158). -/
theorem test_query_payload :
    queryReply (.finished .skipped 7 258) = (0x80, [0, 2, 7, 1, 2]) ∧ queryReply .unknown = (0x80, [2]) ∧
    queryReply (.refuse 7 258) = (0x81, [7, 1, 2]) := by decide

/-! ### A small part -/

/-- A piece of one cell of zone class 3. -/
def dot : Piece := ⟨.ready, 77, 0, 0xFF, none, [(0, ⟨1, 1, [(0, 3)]⟩)]⟩

/-- A piece being loaded. -/
def draft : Piece := { dot with state := .loading }

/-- An ACTIVE line of piece slot 0. -/
def open1 (pair : Option Pairing) : Line := ⟨.active, 0, 0, 0, 3, 1, 1, 1, pair, false⟩

/-- Lines 0 to 8: one alone, a pair, a COMPLETE one, a CANCELLING one, a COMPLETE pair, and an ACTIVE line with
nothing open. -/
def lines : Tab Line :=
  [(0, open1 none), (1, open1 (some ⟨2, .first⟩)), (2, open1 (some ⟨1, .second⟩)),
   (3, ⟨.complete, 0, 0, 0, 1, 0, 0, 1, none, true⟩), (4, ⟨.cancelling, 0, 0, 0, 2, 0, 1, 1, none, false⟩),
   (5, ⟨.complete, 0, 0, 0, 1, 0, 0, 1, some ⟨6, .first⟩, true⟩),
   (6, ⟨.closed, 0, 0, 0, 1, 0, 0, 1, some ⟨5, .second⟩, true⟩), (7, ⟨.active, 0, 0, 0, 1, 0, 1, 0, none, false⟩)]

/-- A placement of line 0 at the origin. -/
def put (st : PlacementState) (ticket : Option (Nat × Fin 4)) (partner : Option Nat) : Placement :=
  ⟨0, 0, 0, 0, 0, partner, .engine, st, ticket, false, none⟩

/-- A hide of one tile. -/
def hide1 (st : HideState) (ps : List Placement) : Hide :=
  { state := st, tag := 9, width := 16, height := 16, backbone := 0, frames := [(0, 0)], thick := [], poisoned := [],
    staged := [], deferred := [], deferredPoison := [], placements := ps, commit := none, report := none,
    release := some ⟨1, .rush, 1⟩, channel := none, route := none }

/-- A part with that hide in slot 0; the cell at its origin is of grade A. -/
def part (g : Hide) : State :=
  { State.reset with
    book := lines
    library := { pieces := [(0, dot), (1, draft), (127, dot)], banks := Vector.replicate 4 .unlocked }
    hides := { slots := [(0, g)], released := 1 }
    grid := { State.reset.grid with contents := [(0, 0)] } }

/-- The part with a hide in slot 0 being cut by channel 0. -/
def cutting (st : ChannelState) (ps : List Placement) (out : Option Outstanding) (ds : List Deadline) : State :=
  (part { hide1 .cutting ps with channel := some 0 }).putChan 0
    { Channel.fresh with state := st, enabled := true, ready := true, hide := some 0, outstanding := out,
                         deadlines := ds }

/-- The part with a pass on slot 0. -/
def passing (st : HideState) (plan : List PlanStep) (ph : Phase) : State :=
  { part (hide1 st []) with engine := { queue := [], pass := some ⟨0, plan, 0, 0, [], ph⟩ } }

/-- A step of a plan. -/
def step1 (line quota : Nat) (mode : StepMode) (pair : Option Pairing) : PlanStep := ⟨line, quota, mode, pair⟩

/-- The next state; every command has one. -/
def after : Out → State
  | .next t => t
  | .fault _ => State.reset
  | .refused _ => State.reset

/-- What the last reply carries. -/
def lastReply (o : Out) : Option OutFrame := (after o).sent.head?.map Sent.frame

/-- A request is taken on a link without a request in hand. -/
theorem free_link (s : State) (l : Link) (n : Nat) (h : (s.link l).inHand = none) : s.takes l {} n := ⟨Or.inl rfl, h⟩

/-! ### Small steps -/

theorem test_identify : lastReply (exec (.identify {}) State.reset) =
    some (.reply (.accept (.identity 0x0151 0x0440 1 [12, 8192, 128, 262144, 256, 160, 64, 4]))) := by decide
theorem test_lineAdd_noPiece : lastReply (exec (.lineAdd {} 5 0 0 0 10) State.reset) =
    some (.reply (.refuse .wrongState 0)) := by decide
theorem test_lineAdd : (after (exec (.lineAdd {} 9 127 1 2 4095) (part (hide1 .mapping [])))).line 9 =
    some ⟨.active, 127, 1, 2, 4095, 4095, 0, 0, none, false⟩ := by decide
theorem test_cancel_pair : (after (exec (.lineCancel {} 1) (part (hide1 .mapping [])))).line 2 =
    some ⟨.cancelling, 0, 0, 0, 2, 0, 1, 1, some ⟨1, .second⟩, false⟩ := by decide
theorem test_hideOpen : lastReply (exec (.hideOpen {} 77 1536 1152 7) State.reset) =
    some (.reply (.accept (.opened 0 77))) := by decide
theorem test_hideOpen_width : lastReply (exec (.hideOpen {} 77 1537 1152 7) State.reset) =
    some (.reply (.refuse .range 1)) := by decide
theorem test_rows_cell :
    (State.readCell 0 4 1 (after (exec (.rows {} 0 1 2 [⟨2, 3⟩]) (part (hide1 .mapping []))))).2 = .grade .c := by decide
theorem test_rows_outside :
    (State.readCell 0 5 1 (after (exec (.rows {} 0 1 2 [⟨2, 3⟩]) (part (hide1 .mapping []))))).2 = .outside := by decide
theorem test_place : lastReply (exec (.place {} 0 0 0 0 0 []) (part (hide1 .mapped []))) =
    some (.reply (.accept (.placed [(0, { put .placed none none with source := .manual })] 6))) := by decide
/-- A request in hand. -/
def held (e : ReplyEnd) (begun : Bool) : InHand := ⟨0x05, 1, .accept .nothing, e, begun, []⟩

/-- The reset state with a request in hand on the control link. -/
def busyWith (e : ReplyEnd) : State := State.reset.setInHand .control (some (held e false))

/-- A state with a reply's frame being sent on a link, and a refusal due behind it. -/
def sendingOn (l : Link) (e : ReplyEnd) (s : State) : State :=
  (s.setInHand l (some (held e true))).answer l 2 (.refuse .busy 0x05)

/-- Its request in hand. -/
def heldBusy (e : ReplyEnd) : InHand := { held e true with behind := [(2, .refuse .busy 0x05)] }

theorem test_place_noFit : lastReply (exec (.place {} 0 0 0 1 0 []) (part (hide1 .mapped []))) =
    some (.reply (.refuseNoFit 2 1 0)) := by decide
theorem test_place_poisoned : (after (exec (.place {} 0 0 0 0 0 [.uncorrectable]) (part (hide1 .mapped [])))).hide 0 =
    some { hide1 .mapped [] with poisoned := [0] } := by decide
theorem test_strike : ((after (exec (.strike {} 0 0) (part (hide1 .nested [put .placed none none])))).line 0).map
    Line.openUnits = some 2 := by decide
theorem test_set_range : lastReply (exec (.set {} 1 111) State.reset) = some (.reply (.refuse .range 2)) := by decide
theorem test_ready_stopped : ((after (exec (.ready 0 {} []) State.reset)).chan 0).ready = true := by decide
theorem test_report_stale : lastReply (exec (.cutReport 0 {} 5 0 0 0) State.reset) =
    some (.reply (.refuse .stale 5)) := by decide
theorem test_ticket : (after (exec (.ticketSend 0) (cutting .running [put .placed none none] none []))).sent.head? =
    some ⟨.cutter 0, 0, .ticket 1 9 0 77 0 0 0⟩ := by decide
theorem test_attention : (after (exec .attentionSend State.reset)).sent = [⟨.control, 0, .attention [0, 0, 4]⟩] := by
  decide
/-- The first frame of the control link after a start is the ATTENTION frame. -/
theorem test_attention_leads : (after (exec (.get { tag := 7 } 1) State.reset)).sent =
    [⟨.control, 7, .reply (.accept (.setting 1 40))⟩, ⟨.control, 0, .attention [0, 0, 4]⟩] := by decide
/-- A frame that is being sent holds back the refusal behind it, the ATTENTION frame and the channel's own requests. -/
theorem test_whole_frames :
    (after (exec .attentionSend (sendingOn .control .idle State.reset))).sent = [] ∧
    (after (exec (.ticketSend 0) (sendingOn (.cutter 0) .idle (cutting .running [put .placed none none] none [])))).sent =
      [] ∧
    (idle (sendingOn .scanner .idle State.reset)).sent =
      [⟨.scanner, 2, .reply (.refuse .busy 0x05)⟩, ⟨.scanner, 1, .reply (.accept .nothing)⟩] := by decide
/-- With a RESET in hand an idle step sends no reply. -/
theorem test_reset_silences :
    (idle (sendingOn .scanner .idle (busyWith .restart))).sent = [] := by decide
/-- A request in hand at a reset is not answered. -/
theorem test_reset_drops : (after (exec .resetInput (after (exec (.get { tag := 7, slow := true } 1) State.reset)))).sent =
    [] := by decide
set_option maxRecDepth 8000 in
/-- The frame of IDENTIFY, byte by byte, with one bit wrong in its CRC. -/
theorem test_crc_mismatch : lastReply (exec (.frameCrcMismatch .scanner [0x5A, 0x01, 0x09, 0x00, 0x00, 0x00, 0x00])
    State.reset) = some (.reply (.refuse .badCrc 0)) := by decide
theorem test_tick_word : decodeTableWord 0 0 = none := rfl

/-! ### A state for the hypotheses of each statement

Each theorem is named after its statement and meets its hypotheses together, clause by clause, at the ends of the ranges
that the clauses name. -/

/-! The queue, the links and the replies -/

theorem witness_StepTakesTheFrontCommand :
    State.pending { State.reset with pending := [.powerOn] } = .powerOn :: [] := rfl

theorem witness_AnEmptyQueueSendsTheReplies :
    (busyWith .idle).pending = [] ∧
    ((busyWith .idle).attn.first = true ∧
      ((busyWith .idle).link .control).inHand = some (held .idle false)) ∧
    (State.sendAttention (busyWith .idle)).attn.first = false ∧
    ((busyWith .restart).link .control).inHand = some (held .restart false) ∧
    (((busyWith .rateChange).link .control).inHand = some (held .rateChange false) ∧
      (busyWith .rateChange).settings.controlRate = (busyWith .rateChange).links.rate) ∧
    ((sendingOn .scanner .idle State.reset).link .scanner).inHand = some (heldBusy .idle) ∧
    (State.reset.link .control).inHand = none := by decide

theorem witness_EveryCommandHasANextState : State.reset.tape = [] := rfl

theorem witness_EveryRequestGetsOneReply :
    asRequest (.identify {}) = some (.control, 0x01, {}, 0) ∧ State.reset.attn.first = true ∧
    asRequest (.flawsClear {} 0) = some (.scanner, 0x34, {}, 1) ∧
    ((sendingOn .scanner .idle State.reset).link .scanner).inHand = some (heldBusy .idle) ∧
    (heldBusy .idle).begun = true ∧ (held .idle false).begun = false := ⟨rfl, rfl, rfl, rfl, rfl, rfl⟩

theorem witness_ARefusalChangesNoBlock :
    asRequest (.get {} 24) = some (.control, 0x04, {}, 1) ∧ mayActRefused (.get {} 24) = false ∧
    (∃ t before, exec (.get {} 24) State.reset = .next t ∧
      t.sent = ⟨.control, 0, .reply (.refuse .range 0)⟩ :: before ∧ t.sent ≠ State.reset.sent) ∧
    (∃ t, exec (.get { slow := true } 24) State.reset = .next t ∧ (State.reset.link .control).inHand = none ∧
      (t.link .control).inHand = some ⟨0x04, 0, .refuse .range 0, .idle, false, []⟩) ∧
    (((sendingOn .control .idle State.reset).link .control).inHand = some (heldBusy .idle) ∧
      (heldBusy .idle).begun = true) :=
  ⟨rfl, rfl, ⟨_, _, rfl, rfl, by decide⟩, ⟨_, rfl, rfl, rfl⟩, rfl, rfl⟩

set_option maxRecDepth 8000 in
theorem witness_FramesAreRefusedByTheLinkUnit :
    State.reset.frameEnd .control ([0x5A, 0x01, 0x07, 0x04] ++ [0x01]) = some (.tooLong 7 1025) ∧
    State.reset.frameEnd .control [0x5A, 0x01, 0x07, 0x00, 0x00, 0x00, 0x00] = some (.badCrc 7) ∧
    (State.reset.frameEnd .control (frameBytes 0x00 5 []) = some (.good 0 5 []) ∧ 0 ∉ knownKinds) ∧
    (State.reset.frameEnd (.cutter 0) (frameBytes 0x60 5 []) = some (.good 0x60 5 []) ∧ 0x60 ∈ knownKinds ∧
      0x60 ∉ replyKinds ∧ 0x60 ∉ partnerKinds (.cutter 0)) ∧
    State.reset.frameEnd .control ([] ++ [0x5A]) = none ∧
    (State.reset.frameEnd .control (frameBytes 0x01 5 []) = some (.good 1 5 []) ∧ 1 ∈ knownKinds ∧
      1 ∈ partnerKinds .control) ∧
    (Head.len { len := some 1 } = some 1 ∧ 1 ≠ 0) ∧
    ((Head.len {} = none ∨ Head.len {} = some 0) ∧
      ((busyWith .idle).link .control).inHand = some (held .idle false)) := by decide

set_option maxRecDepth 8000 in
theorem witness_FramesAreGatheredAndDropped :
    (∀ b ∈ [(0x01 : Byte)], b ≠ 0x5A) ∧ arrive .hunting [0x01] = some (.going .hunting) ∧
    (1024 < (0x04 : Byte).toNat * 256 + (0x01 : Byte).toNat ∧
      (0x04 : Byte).toNat * 256 + (0x00 : Byte).toNat ≤ 1024) ∧
    (([] : List Byte).length < 0 + 2 ∧ [(0x01 : Byte), 0x02].length = 0 + 2) ∧
    arrive (State.reset.link .control).receiver [0x5A, 0x01] = some (.going (.inFrame [0x01])) ∧
    (∀ r, arrive (State.reset.link .control).receiver
      [0x5A, 0x01, 0x07, 0x04, 0x01] ≠ some (.going r)) ∧
    (State.reset.link .control).receiver = .hunting ∧
    (Instr.wellFormed (.identify { tag := 255 }) = true ∧
      asRequest (.identify { tag := 255 }) = some (.control, 0x01, { tag := 255 }, 0) ∧
      (requestFrame (.identify { tag := 255 })).isSome = true) ∧
    (State.reset.frameEnd (upLink .scanner) (frameBytes 0x80 1 []) = some (.good 0x80 1 []) ∧ 0x80 ∈ replyKinds) := by
  refine ⟨by decide, by decide, by decide, by decide, by decide, fun r h => ?_, by decide, by decide, by decide⟩
  have e : arrive (State.reset.link .control).receiver [0x5A, 0x01, 0x07, 0x04, 0x01] =
      some (.ended (.tooLong 7 1025)) := by decide
  rw [e] at h; cases h

/-! Start, settings and the profile store -/

/-- The reset state with a profile store. -/
def store (image : Image) (busy : Busy) : State :=
  { State.reset with profile := { settings := Settings.fixed, image := image, busy := busy } }

theorem witness_AStartPutsTheProfileInForce :
    ((busyWith .restart).links.control.inHand = some (held .restart false) ∧
      (held .restart false).ends = .restart) ∧
    (∀ q, State.reset.links.control.inHand = some q → q.ends ≠ .restart) ∧
    ((store (.good Settings.fixed) .idle).profile.image = .good Settings.fixed ∧
      ∀ w, (store (.good Settings.fixed) .idle).profile.busy ≠ .saving w) ∧
    (store .bad .idle).profile.image = .bad ∧
    (store .bad (.saving Settings.fixed)).profile.busy = .saving Settings.fixed ∧
    State.reset.takes .control {} 0 :=
  ⟨⟨rfl, rfl⟩, (fun _ h => by cases h), ⟨rfl, fun _ h => by cases h⟩, rfl, rfl, free_link _ _ _ rfl⟩

theorem witness_SettingsArePutInForceAndRead :
    State.reset.takes .control {} 5 ∧ State.reset.takes .control {} 1 ∧
    State.reset.settings.controlRate = State.reset.links.rate ∧
    (Settings.fixed.with 110 1 = some { Settings.fixed with sevT1 := 110 } ∧ 110 ≤ Settings.fixed.sevT2) ∧
    (Settings.fixed.with 111 1 = some { Settings.fixed with sevT1 := 111 } ∧ ¬ 111 ≤ Settings.fixed.sevT2) ∧
    (Settings.fixed.with 256 1 = none ∧ Settings.fixed.with 0 23 = none) ∧
    Settings.frameLow { Settings.fixed with frameLow := 8191 } ≠ State.reset.settings.frameLow ∧
    Settings.rushRatio { Settings.fixed with rushRatio := 8 } ≠ State.reset.settings.rushRatio := by
  refine ⟨free_link _ _ _ rfl, free_link _ _ _ rfl, ?_⟩
  decide

/-- A part whose rate in force is not the link's, with a request in hand. -/
def slower (e : ReplyEnd) : State :=
  { busyWith e with profile := { State.reset.profile with settings := { Settings.fixed with controlRate := 57600 } } }

/-- A part that reads a profile image of another rate, with a slow reply in hand whose frame is being sent or not. -/
def loading (sending : Bool) : State :=
  after (exec (.get { slow := true, sending := sending } 1)
    (store (.good { Settings.fixed with controlRate := 57600 }) .loading))

/-- The rate of a read image waits for a frame that is being sent and for a restart, and for no other reply in hand. -/
theorem test_load_rate :
    (after (exec .loadCompletion (loading true))).links.rate = 230400 ∧
    (after (exec .loadCompletion (after (exec (.reset { slow := true })
      (store (.good { Settings.fixed with controlRate := 57600 }) .loading))))).links.rate = 230400 ∧
    (after (exec .loadCompletion (loading false))).links.rate = 57600 ∧
    (after (exec .controlRateChange (after (exec .loadCompletion (loading true))))).links.rate = 57600 := by decide

theorem witness_ProfileOperationsBeginAndComplete :
    State.reset.takes .control {} 0 ∧ State.reset.profile.busy = .idle ∧
    (store .bad (.saving Settings.fixed)).profile.busy = .saving Settings.fixed ∧
    ((store .bad .loading).profile.busy = .loading ∧ (store .bad .loading).profile.image = .bad) ∧
    ((store (.good Settings.fixed) .loading).profile.image = .good Settings.fixed ∧
      Settings.fixed.controlRate = State.reset.links.rate ∧
      ((loading true).profile.busy = .loading ∧
        (loading true).profile.image = .good { Settings.fixed with controlRate := 57600 } ∧
        (loading true).links.control.inHand = some ⟨0x04, 0, .accept (.setting 1 40), .idle, true, []⟩) ∧
      ((loading false).profile.busy = .loading ∧
        (loading false).profile.image = .good { Settings.fixed with controlRate := 57600 } ∧ 57600 ≠ 230400 ∧
        (loading false).links.rate = 230400 ∧
        (loading false).links.control.inHand = some ⟨0x04, 0, .accept (.setting 1 40), .idle, false, []⟩) ∧
      Head.slow { slow := true, sending := true } = true ∧
      ((slower .rateChange).settings.controlRate ≠ (slower .rateChange).links.rate ∧
        (slower .rateChange).links.control.inHand = some (held .rateChange false)) ∧
      (slower .idle).links.control.inHand = some (held .idle false) ∧
        (sendingOn .control .idle (slower .idle)).links.control.inHand = some (heldBusy .idle) ∧
        (slower .restart).links.control.inHand = some (held .restart false) ∧
        ReplyEnd.idle ≠ .rateChange ∧ ReplyEnd.idle ≠ .restart ∧ ReplyEnd.rateChange ≠ .restart) := by
  refine ⟨free_link _ _ _ rfl, ?_⟩
  decide

/-! The cut order book -/

/-- The part with an empty hide. -/
def bare (st : HideState) : State := part (hide1 st [])

theorem witness_LinesAreAdded :
    (bare .mapping).takes .control {} 8 ∧ (bare .mapping).takes .control {} 10 ∧
    (127 < 128 ∧ 1 ≤ 4095 ∧ 4095 ≤ 4095 ∧ (bare .mapping).line 255 = none ∧ (bare .mapping).piece 127 = some dot ∧
      dot.state = .ready) ∧
    (254 ≠ 255 ∧ (bare .mapping).line 254 = none ∧ (bare .mapping).piece 0 = some dot) ∧
    (128 ≤ 128 ∧ 4095 < 4096 ∧ ((bare .mapping).line 0).isSome) ∧
    ∀ p, (bare .mapping).piece 1 = some p → p.state = .loading := by
  refine ⟨free_link _ _ _ rfl, free_link _ _ _ rfl, by decide, by decide, by decide, fun p h => ?_⟩
  have e : (bare .mapping).piece 1 = some draft := by decide
  rw [e] at h; cases h; rfl

theorem witness_LinesAreResizedCancelledAndRemoved :
    (bare .mapping).takes .control {} 3 ∧ (bare .mapping).takes .control {} 1 ∧
    ((bare .mapping).line 0 = some (open1 none) ∧ (open1 none).reserved + (open1 none).cut ≤ 2) ∧
    ((bare .mapping).line 1 = some (open1 (some ⟨2, .first⟩)) ∧ 2 ≠ 1 ∧
      (bare .mapping).line 2 = some (open1 (some ⟨1, .second⟩))) ∧
    (((bare .mapping).line 3).map Line.finished = some true ∧ ((bare .mapping).line 5).map Line.finished = some true ∧
      ((bare .mapping).line 6).map Line.finished = some true) := by
  refine ⟨free_link _ _ _ rfl, free_link _ _ _ rfl, ?_⟩
  decide

theorem witness_ClaimsMoveOneUnit :
    ((bare .mapping).line 0 = some (open1 none) ∧ 1 ≤ (open1 none).openUnits ∧ 1 ≤ (open1 none).reserved) ∧
    ((bare .mapping).line 7).map Line.openUnits = some 0 ∧
    ((bare .mapping).line 4).map (fun l => (l.state, l.reserved)) = some (.cancelling, 1) := by decide

/-! The pattern library -/

theorem witness_PiecesAreLoadedAndErased :
    (bare .mapping).takes .control {} 10 ∧ (bare .mapping).takes .control {} 4 ∧
    (bare .mapping).takes .control {} (5 + 2 * [(⟨3, 1⟩ : Run)].length) ∧ (bare .mapping).takes .control {} 1 ∧
    ((bare .mapping).bankOf 2 = .unlocked ∧ (bare .mapping).piece 2 = none) ∧
    ((bare .mapping).bankOf 1 = .unlocked ∧ (bare .mapping).piece 1 = some draft ∧ draft.state = .loading ∧
      192 * 192 ≤ (bare .mapping).arenaFree) ∧
    (Tab.get draft.variants 0 = some ⟨1, 1, [(0, 3)]⟩ ∧ 0 < 1 ∧ 0 + ([(⟨3, 1⟩ : Run)].map Run.length).sum ≤ 1) ∧
    (draft.variants ≠ [] ∧ (∀ e ∈ draft.variants, 1 ≤ e.2.bodyCount) ∧ draft.offsets ≠ 0) ∧
    ∀ e ∈ (bare .mapping).book, e.2.slot ≠ 1 := by
  refine ⟨free_link _ _ _ rfl, free_link _ _ _ rfl, free_link _ _ _ rfl, free_link _ _ _ rfl, ?_⟩
  decide

theorem witness_BankModeSetsTheMode :
    State.reset.takes .control {} 2 ∧ 4 ≤ 4 ∧ 3 < 4 ∧ State.reset.library.banks[3]? = some .unlocked :=
  ⟨free_link _ _ _ rfl, by decide, by decide, by decide⟩

/-- The part with every bank LOCKED. -/
def locked : State :=
  { bare .mapping with library := { (bare .mapping).library with banks := Vector.replicate 4 .locked } }

theorem witness_ALockedBankIsProtected :
    locked.bankOf 0 = .locked ∧ locked.bankOf 127 = .locked ∧ locked.takes .control {} 10 ∧ locked.takes .control {} 4 ∧
    locked.takes .control {} (5 + 2 * ([] : List Run).length) ∧ locked.takes .control {} 1 :=
  ⟨by decide, by decide, free_link _ _ _ rfl, free_link _ _ _ rfl, free_link _ _ _ rfl, free_link _ _ _ rfl⟩

/-! Attention and reads -/

theorem witness_RaisesMakeFramesDueAndFramesAreSent :
    (State.reset.attn.events.Pairwise (fun a b => a.key < b.key) ∧
      Event.profile .defaulted ∈ State.reset.attn.events) ∧
    (State.reset.attn.waiting = true ∧ State.reset.attn.first = true) ∧
    (State.sendAttention State.reset).attn.waiting = false ∧ (State.sendAttention State.reset).attn.first = false ∧
    (State.reset.link .control).inHand = none ∧
    (sendingOn .control .idle State.reset).links.control.inHand = some (heldBusy .idle) ∧
    (heldBusy .idle).begun = true := by
  decide

theorem witness_ListedEventsAreCleared :
    State.reset.takes .control {} (2 + [1].length) ∧ 18 ≤ 18 ∧ 1 ≤ [1].length ∧ 18 ≠ 16 ∧ [1].length ≤ 8 ∧
    (∀ k ∈ [1], k < eventCount 18) ∧ (List.replicate 32 3).length ≤ 32 :=
  ⟨free_link _ _ _ rfl, by decide, by decide, by decide, by decide, by decide, by decide⟩

theorem witness_ReadsChangeNothing :
    (bare .nested).takes .control {} 0 ∧ (bare .nested).takes .control {} 1 ∧ (bare .nested).takes .control {} 2 ∧
    (bare .nested).takes .control {} 4 ∧ (bare .nested).line 0 = some (open1 none) ∧
    (bare .nested).piece 0 = some dot ∧ Tab.get dot.variants 0 = some ⟨1, 1, [(0, 3)]⟩ ∧
    (bare .nested).hide 0 = some (hide1 .nested []) ∧ 0 ≤ (hide1 .nested []).placements.length :=
  ⟨free_link _ _ _ rfl, free_link _ _ _ rfl, free_link _ _ _ rfl, free_link _ _ _ rfl, by decide, by decide, by decide,
    by decide, by decide⟩

/-! Hides, maps and flaws -/

theorem witness_HidesAreOpened :
    (bare .mapping).takes .scanner {} 9 ∧ 16 ≤ 16 ∧ 1536 ≤ 1536 ∧ 1152 ≤ 1152 ∧ 7 < 8 ∧
    State.grid { bare .mapping with grid := { (bare .mapping).grid with throttle := .throttled } } =
      { (bare .mapping).grid with throttle := .throttled } ∧
    (bare .mapping).grid.throttle = .normal ∧ (∀ e ∈ (bare .mapping).hides.slots, e.2.tag ≠ 77) ∧
    (bare .mapping).hide 1 = none ∧ ∀ k < 1, (bare .mapping).hide k ≠ none := by
  refine ⟨free_link _ _ _ rfl, ?_⟩
  decide

/-- A hide of three tiles, the first of them framed. -/
def wide : Hide := { hide1 .mapping [] with width := 96 }

/-- The part with that hide and two retired frames, FRAME_LOW at its highest. -/
def low : State :=
  { part wide with
    grid := { (part wide).grid with retired := [1, 2] }
    profile := { State.reset.profile with settings := { Settings.fixed with frameLow := 8191, frameResume := 8192 } } }

theorem witness_RowsTakeFramesAndWriteCells :
    (part wide).takes .scanner {} (6 + 2 * [(⟨3, 80⟩ : Run)].length) ∧ (part wide).hide 0 = some wide ∧
    15 < wide.height ∧ 16 < wide.width ∧ 16 + ([(⟨3, 80⟩ : Run)].map Run.length).sum ≤ wide.width ∧
    State.newTiles wide 15 (runCells 16 [⟨3, 80⟩]) = [1, 2] ∧ 2 ≤ (part wide).free ∧
    (1 ∉ (part wide).ownedFrames ∧ 1 ∉ (part wide).grid.retired ∧
      ∀ k < 1, k ∈ (part wide).ownedFrames ∨ k ∈ (part wide).grid.retired) ∧
    ((part wide).canonical = true ∧ [1, 2].Nodup ∧ ∀ tile ∈ [1, 2], Tab.get wide.frames tile = none) ∧
    (wide.frames.map (·.2)).Nodup ∧
    (low.free < low.settings.frameLow ∧ low.grid.throttle = .normal) ∧
    (part wide).settings.frameLow ≤ (part wide).free := by
  refine ⟨free_link _ _ _ rfl, ?_⟩
  decide

theorem witness_ThicknessReadingsAreTaken :
    (bare .mapped).takes .scanner {} (2 + 4 * [(⟨0, 0, 30⟩ : Reading)].length) ∧
    (bare .mapped).hide 0 = some (hide1 .mapped []) ∧
    (∀ r ∈ [(⟨0, 0, 30⟩ : Reading)], r.col < (hide1 .mapped []).cols ∧ r.row < (hide1 .mapped []).tileRows) ∧
    (30 ≤ 30 ∧ 600 ≤ 600) ∧ 29 < 30 ∧ 600 < 601 := by
  refine ⟨free_link _ _ _ rfl, ?_⟩
  decide

/-- A scar of severity 40 on the origin. -/
def scar : Flaw := ⟨1, 0, 40, 0, 0, 15, 15⟩

theorem witness_FlawsAreListed :
    (bare .mapping).takes (upLink .control) {} 13 ∧ (bare .mapping).takes .scanner {} 1 ∧
    (bare .mapping).hide 0 = some (hide1 .mapping []) ∧ (bare .nesting).hide 0 = some (hide1 .nesting []) ∧
    scar.kind < 6 ∧ scar.x0 ≤ scar.x1 ∧ scar.x1 < 16 ∧ scar.y0 ≤ scar.y1 ∧ scar.y1 < 16 ∧
    (hide1 .mapping []).staged.length < 256 ∧ (hide1 .nesting []).deferred.length < 32 := by
  refine ⟨free_link _ _ _ rfl, free_link _ _ _ rfl, ?_⟩
  decide

theorem witness_LateFlawsAreAppliedAndSwept :
    (bare .done).takes (upLink .scanner) {} 13 ∧ (bare .done).hide 0 = some (hide1 .done []) ∧
    HideState.done ∈ [HideState.mapped, .nestWait, .nested, .dispatchWait, .cutting, .done] :=
  ⟨free_link _ _ _ rfl, by decide, by decide⟩

theorem witness_FlawGradesFollowTheThresholds :
    Settings.fixed.sevT1 ≤ Settings.fixed.sevT2 ∧ Settings.fixed.sevT2 ≤ Settings.fixed.sevT3 ∧ scar.kind ≠ 3 ∧
    flawGrade (bare .mapped).settings { scar with severity := 39 } = .a ∧
    flawGrade (bare .mapped).settings scar = .b := by decide

theorem witness_FlawsOnlyWorsenTheirRectangle :
    (bare .mapped).tape = [] ∧ (bare .mapped).hide 0 = some (hide1 .mapped []) ∧
    ((hide1 .mapped []).frames.map (·.2)).Nodup ∧
    (flawRect (bare .mapped).settings (hide1 .mapped []) scar).has 0 0 = true ∧
    (hide1 .mapped []).cellAt 0 0 = some 0 ∧ (hide1 .mapped []).tileOf 0 0 ∉ (hide1 .mapped []).poisoned := by decide

set_option maxRecDepth 4000 in
theorem witness_CommitsComplete :
    (bare .committing).hide 0 = some (hide1 .committing []) ∧ (bare .committing).tape = [] ∧
    (findInside 0 (framedCells (hide1 .committing [])) (bare .committing)).2 = true ∧
    (findOffHide 0 0 (hide1 .committing []).staged (bare .committing)).2 = none ∧
    missingThickness (bare .committing).settings (hide1 .committing []) = none ∧
    (findInside 0 [] (bare .committing)).2 = false ∧
    (findOffHide 0 0 [scar, { scar with x0 := 1, y0 := 1 }] (bare .committing)).2 = some 1 ∧
    (missingThickness { Settings.fixed with thickRequired := true } (hide1 .committing []) = some (0, 0) ∧
      (hide1 .committing []).frames = [] ++ (0, 0) :: [] ∧ Tab.get (hide1 .committing []).thick 0 = none) := by decide

theorem witness_HidesAreClosedAndDiscarded :
    (bare .done).takes .control {} 1 ∧ (bare .done).hide 0 = some (hide1 .done []) ∧
    (bare .nesting).takes (upLink .scanner) {} 1 ∧ (bare .nesting).hide 0 = some (hide1 .nesting []) ∧
    ((cutting .running [] none []).hide 0).map (fun g => (g.state, g.channel)) = some (.cutting, some 0) ∧
    HideState.done ∉ [HideState.nesting, .cutting, .discarding] ∧
    ((part (hide1 .nested [put .placed none none, put .cut none none])).placement 0 0 = some (put .placed none none) ∧
      (part (hide1 .nested [put .placed none none, put .cut none none])).placement 0 1 = some (put .cut none none)) ∧
    (State.settings (bare .done)).frameResume ≤ State.free { bare .done with hides := { slots := [], released := 1 } } ∧
    State.free { low with hides := { slots := [], released := 1 } } < low.settings.frameResume :=
  ⟨free_link _ _ _ rfl, by decide, free_link _ _ _ rfl, by decide, by decide, by decide, by decide, by decide, by decide⟩

theorem witness_ReleasesAreNumbered :
    (part (hide1 .nested [put .placed none none])).takes .control {} 3 ∧
    (part (hide1 .nested [put .placed none none])).hide 0 = some (hide1 .nested [put .placed none none]) ∧
    1 ≤ (1 : Byte).toNat ∧ (15 : Byte).toNat ≤ 15 ∧
    (∃ p ∈ (hide1 .nested [put .placed none none]).placements, p.state = .placed) ∧
    (part (hide1 .nested [put .placed none none])).hides.released < 4294967295 ∧
    HideTable.released { slots := [], released := 4294967295 } = 4294967295 :=
  ⟨free_link _ _ _ rfl, by decide, by decide, by decide, ⟨_, List.mem_cons_self, rfl⟩, by decide, rfl⟩

/-! The fit test and the nest engine -/

theorem witness_NestsAreQueuedAndTaken :
    (bare .mapped).takes .control {} (2 + 3 * [(⟨0, 64, 0⟩ : StepReq)].length) ∧
    (bare .mapped).hide 0 = some (hide1 .mapped []) ∧
    ((bare .mapped).line 0 = some (open1 none) ∧ (open1 none).state = .active ∧ (open1 none).pair = none) ∧
    (bare .mapped).line 2 = some (open1 (some ⟨1, .second⟩)) ∧
    State.engine { bare .nestWait with engine := { queue := [⟨0, []⟩], pass := none } } =
      { queue := ⟨0, []⟩ :: [], pass := none } ∧
    (bare .nestWait).hide 0 = some (hide1 .nestWait []) := by
  refine ⟨free_link _ _ _ rfl, ?_⟩
  decide

theorem witness_StopChecksAreMadeInOrder :
    (∃ p, (passing .nesting [step1 0 1 .fill none] .attempt).engine.pass = some p ∧ p.phase = .attempt ∧
      p.plan[p.step]? = some (step1 0 1 .fill none) ∧ p.units ≠ 1) ∧
    (passing .nesting [step1 0 1 .fill none] .attempt).hide 0 = some (hide1 .nesting []) ∧
    (passing .discarding [step1 0 1 .fill none] .attempt).hide 0 = some (hide1 .discarding []) ∧
    ((bare .nesting).line 0 = some (open1 none) ∧ (open1 none).openUnits ≠ 0 ∧ (bare .nesting).piece 0 = some dot) ∧
    ((bare .nesting).line 7).map Line.openUnits = some 0 ∧
    ((bare .nesting).line 3).map Line.state = some .complete ∧ ¬ 160 + 0 + 1 ≤ 160 :=
  ⟨⟨_, rfl, rfl, rfl, by decide⟩, by decide, by decide, by decide, by decide, by decide, by decide⟩

theorem witness_FitTestsPassExactlyOnFits :
    (bare .mapped).tape = [] ∧ (bare .mapped).hide 0 = some (hide1 .mapped []) := by decide

set_option maxRecDepth 4000 in
theorem witness_SearchesTestTheirCandidatesInOrder :
    Tab.sorted dot.variants = true ∧
    (candidates (hide1 .nesting []) dot)[0]? = some (0, 0, 0) ∧ (candidates (hide1 .nesting []) dot)[1]? = some (0, 1, 0) ∧
    Tab.get dot.variants 0 = some ⟨1, 1, [(0, 3)]⟩ ∧
    (fitTest false 0 none ⟨1, 1, [(0, 3)]⟩ 0 0 (bare .nesting)).2 = .pass ∧
    (fitTest false 0 none ⟨1, 1, [(0, 3)]⟩ 1 0 (bare .nesting)).2 = .fail 2 1 0 none ∧
    (passing .nesting [step1 0 1 .fill none] (.search ⟨.single, 0, 0, none, dot, 0⟩)).hide 0 = some (hide1 .nesting []) := by
  decide

/-- The search of a pair's primary. -/
def first1 : Search := ⟨.primary, 1, 0, some ⟨2, .first⟩, dot, 0⟩

theorem witness_UnitsArePushedOrTheStepEnds :
    (∃ p, (passing .nesting [step1 0 1 .fill none] .mirrorNoFit).engine.pass = some p ∧ p.phase = .mirrorNoFit) ∧
    (∃ p, (passing .nesting [step1 1 1 .fill (some ⟨2, .first⟩)] (.found first1 0 0 0)).engine.pass = some p ∧
      p.phase = .found first1 0 0 0 ∧ p.plan[p.step]? = some (step1 1 1 .fill (some ⟨2, .first⟩))) ∧
    ((bare .nesting).line 1 = some (open1 first1.pair) ∧ (open1 first1.pair).slot = first1.slot ∧
      1 ≤ (open1 first1.pair).openUnits ∧ (bare .nesting).piece first1.slot = some first1.piece ∧
      Tab.get first1.piece.variants 0 = some ⟨1, 1, [(0, 3)]⟩) ∧
    ((bare .nesting).line 7).map (fun l => (l.state, l.openUnits)) = some (.active, 0) ∧
    ((bare .nesting).line 3).map Line.state = some .complete ∧
    ((bare .nesting).line 4).map Line.state = some .cancelling ∧
    ((bare .nesting).line 9 = none ∧ (bare .nesting).piece 1 ≠ some dot) :=
  ⟨⟨_, rfl, rfl⟩, ⟨_, rfl, rfl, rfl⟩, by decide, by decide, by decide, by decide, by decide⟩

theorem witness_StepsEndInACommitOrARollback :
    (∃ p, (passing .nesting [step1 0 1 .exact none] (.ending .noFit)).engine.pass = some p ∧
      p.phase = .ending .noFit ∧ p.plan[p.step]? = some (step1 0 1 .exact none)) ∧
    (∃ p, (passing .nesting [step1 0 1 .fill none] (.ending .noFit)).engine.pass = some p ∧
      p.phase = .ending .noFit ∧ p.plan[p.step]? = some (step1 0 1 .fill none)) ∧
    (passing .nesting [step1 0 1 .fill none] (.ending .noFit)).hide 0 = some (hide1 .nesting []) :=
  ⟨⟨_, rfl, rfl, rfl⟩, ⟨_, rfl, rfl, rfl⟩, by decide⟩

theorem witness_PassesEndOrAreAborted :
    (∃ p, (passing .nesting [] .passEnd).engine.pass = some p ∧ p.phase = .passEnd) ∧
    (passing .nesting [] .passEnd).hide 0 = some (hide1 .nesting []) ∧
    (∃ p, (passing .discarding [] .aborting).engine.pass = some p ∧ p.phase = .aborting) ∧
    (passing .discarding [] .aborting).hide 0 = some (hide1 .discarding []) ∧
    (∃ p, (passing .discarding [] .passEnd).engine.pass = some p ∧ p.phase = .passEnd) :=
  ⟨⟨_, rfl, rfl⟩, by decide, ⟨_, rfl, rfl⟩, by decide, _, rfl, rfl⟩

/-! Placing by hand and strikes -/

theorem witness_PiecesArePlacedByHand :
    (bare .mapped).takes .control {} 7 ∧ (bare .mapped).takes .control {} 12 ∧
    (bare .mapped).hide 0 = some (hide1 .mapped []) ∧ (bare .mapped).line 0 = some (open1 none) ∧
    (bare .mapped).line 1 = some (open1 (some ⟨2, .first⟩)) ∧ 2 ≠ 1 ∧
    (bare .mapped).line 2 = some (open1 (some ⟨1, .second⟩)) ∧ (bare .mapped).piece 0 = some dot ∧
    dot.offsets.getLsbD ((7 + 8 - 0 % 8) % 8) = true ∧ dot.offsets.getLsbD ((0 + 8 - 0 % 8) % 8) = true ∧
    Tab.get dot.variants 0 = some ⟨1, 1, [(0, 3)]⟩ ∧
    (fitTest false 0 none ⟨1, 1, [(0, 3)]⟩ 0 0 (bare .mapped)).2 = .pass ∧
    (fitTest false 0 none ⟨1, 1, [(0, 3)]⟩ 15 15 (bare .mapped)).2 = .fail 2 15 15 none := by
  refine ⟨free_link _ _ _ rfl, free_link _ _ _ rfl, ?_⟩
  decide

/-- A NESTED hide with two placements that are partners, the second at the state given. -/
def partners (st : PlacementState) : State :=
  part (hide1 .nested [put .placed none (some 1), put st none (some 0)])

theorem witness_StrikesTakeThePlacedPartner :
    ((partners .placed).placement 0 0 = some (put .placed none (some 1)) ∧
      (partners .placed).placement 0 1 = some (put .placed none (some 0))) ∧
    (partners .cut).placement 0 1 = some (put .cut none (some 0)) ∧
    (partners .placed).takes .control {} 2 ∧ ((partners .placed).hide 0).map Hide.state = some .nested :=
  ⟨by decide, by decide, free_link _ _ _ rfl, by decide⟩

/-- A piece of one cell of zone class 3 with a margin of one. -/
def margin1 : Piece := { dot with margin := 1 }

/-- The part with a hide and read outcomes to come. -/
def reading (st : HideState) (poisoned : List Nat) (reads : List ReadOutcome) : State :=
  { part { hide1 st [] with poisoned := poisoned } with tape := reads }

theorem witness_SweepsRetestStrikeAndMark :
    ((partners .placed).placement 0 0 = some (put .placed none (some 1)) ∧ (partners .placed).piece 0 = some dot ∧
      Tab.get dot.variants 0 = some ⟨1, 1, [(0, 3)]⟩ ∧
      (fitTest true 0 none ⟨1, 1, [(0, 3)]⟩ 0 0 (partners .placed)).2 = .pass ∧
      (fitTest true 0 none ⟨1, 1, [(0, 3)]⟩ 0 0 { partners .placed with tape := [.uncorrectable] }).2 =
        .fail 3 0 0 (some 0)) ∧
    (partners .cut).placement 0 1 = some (put .cut none (some 0)) ∧
    (partners .placed).meeting 0 .placed (fun x y => x == 0 && y == 0) = [0, 1] ∧
    ((partners .placed).canonical = true ∧ (partners .placed).tape = [] ∧
      ∀ e ∈ (hide1 .nested []).frames, e.1 < (hide1 .nested []).cols * (hide1 .nested []).tileRows) ∧
    ((partners .placed).hide 0).map Hide.state = some .nested := by decide

set_option maxRecDepth 4000 in
theorem witness_CoverIsCountedAndReadsAreChecked :
    ((∀ c ∈ (⟨1, 1, [(0, 3)]⟩ : Variant).body, c.i < 1 ∧ c.j < 1) ∧ ((hide1 .mapped []).frames.map (·.2)).Nodup ∧
      (claimed (hide1 .mapped []) 1 ⟨1, 1, [(0, 3)]⟩ 0 0).length = 4) ∧
    ((reading .mapped [] []).hide 0 = some (hide1 .mapped []) ∧ (reading .mapped [] []).piece 0 = some dot ∧
      Tab.get margin1.variants 0 = some ⟨1, 1, [(0, 3)]⟩ ∧ Mem.wf noCover (reading .mapped [] []).grid.covers = true) ∧
    (Tab.get (hide1 .mapped []).frames 0 = some 0 ∧ Tab.get wide.frames 1 = none ∧
      (hide1 .mapped []).tileOf 0 0 = 0 ∧ wide.tileOf 32 0 = 1) ∧
    ((reading .mapped [0] []).hide 0 = some { hide1 .mapped [] with poisoned := [0] }) ∧
    ((reading .mapped [] [.clean]).tape.head? = some .clean ∧
      (reading .mapped [] [.singleBit]).tape.head? = some .singleBit ∧
      (reading .mapped [] [.uncorrectable]).tape.head? = some .uncorrectable) ∧
    (((reading .mapping [] []).hide 0).map Hide.state = some .mapping ∧
      ((reading .nesting [] []).hide 0).map Hide.state = some .nesting) ∧
    State.readCell 0 0 0 (reading .mapped [] [.singleBit]) =
      ({ reading .mapped [] [] with grid := { (reading .mapped [] []).grid with corrected := 1 } }, .grade .a) := by
  decide

/-! Dispatch -/

theorem witness_HoldAndRunMoveTheChannels : State.reset.takes .control {} 0 := free_link _ _ _ rfl

/-- A waiting hide and channel 0 IDLE, in RUN. -/
def waiting1 (pick : Pick) : State :=
  State.putChan
    { part (hide1 .dispatchWait [put .placed none none]) with
      arbiter := { state := .run, waiting := [0], ratio := 0, lastGranted := 3 }
      profile := { State.reset.profile with settings := { Settings.fixed with pick := pick } } }
    0 { Channel.fresh with state := .idle, enabled := true, ready := true }

/-- A RUSH and a NORMAL hide waiting for channel 0, which is IDLE, in RUN. -/
def contest (ratio : Nat) : State :=
  { waiting1 .lowest with
    hides := { slots := [(0, hide1 .dispatchWait [put .placed none none]),
                         (1, { hide1 .dispatchWait [put .placed none none] with
                               tag := 10, frames := [], release := some ⟨2, .normal, 1⟩ })],
               released := 2 }
    arbiter := { state := .run, waiting := [0, 1], ratio := ratio, lastGranted := 3 } }

theorem witness_GrantsAreMadeByClassHideAndChannel :
    (State.reset.arbiter.state = .hold ∧ State.reset.nextGrant = none) ∧
    (waiting1 .lowest).arbiter.state = .run ∧ (waiting1 .lowest).arbiter.waiting = [] ++ 0 :: [] ∧
    (waiting1 .lowest).hide 0 = some (hide1 .dispatchWait [put .placed none none]) ∧
    (hide1 .dispatchWait [put .placed none none]).release = some ⟨1, .rush, 1⟩ ∧
    ((1 : Byte).getLsbD 0 = true ∧ ((waiting1 .lowest).chan 0).state = .idle) ∧
    (waiting1 .lowest).settings.pick = .lowest ∧ (waiting1 .rotate).settings.pick = .rotate ∧
    (waiting1 .lowest).nextGrant.isSome = true ∧ (waiting1 .rotate).nextGrant.isSome = true ∧
    (((contest 2).chan 0).state = .idle ∧ (contest 2).arbiter.ratio < (contest 2).settings.rushRatio ∧
      (contest 2).nextGrant.map (fun t => ((t.chan 0).hide, t.arbiter.ratio)) = some (some 0, 3)) ∧
    ¬ (contest 3).arbiter.ratio < (contest 3).settings.rushRatio ∧
    (contest 3).nextGrant.map (fun t => ((t.chan 0).hide, t.arbiter.ratio)) = some (some 1, 0) := by decide

theorem witness_HidesAndChannelsAreSettled :
    (bare .nested).hide 0 = some (hide1 .nested []) ∧
    (bare .dispatchWait).hide 0 = some (hide1 .dispatchWait []) ∧ (hide1 .dispatchWait []).anyPlaced = false ∧
    (waiting1 .lowest).hide 0 = some (hide1 .dispatchWait [put .placed none none]) ∧
    (hide1 .dispatchWait [put .placed none none]).anyPlaced = true ∧
    ((cutting .draining [put .placed none none] none []).chan 0).state = .draining ∧
    ((cutting .running [put .ticketed (some (1, 0)) none] none []).hide 0).map (fun g => (g.anyPlaced, g.anyTicketed)) =
      some (false, true) ∧
    ((cutting .held [put .ticketed (some (1, 0)) none] none []).chan 0).state = .held ∧
    ((cutting .running [] none []).hide 0).map (fun g => (g.anyPlaced, g.anyTicketed)) = some (false, false) := by
  decide

/-! The cutter channels -/

/-- The reset state with channel 3 in a state. -/
def channel3 (st : ChannelState) (enabled ready : Bool) : State :=
  State.reset.putChan 3 { Channel.fresh with state := st, enabled := enabled, ready := ready }

theorem witness_ChannelsEnterAndLeaveService :
    (channel3 .stopped false true).takes .control {} 1 ∧ ((channel3 .stopped false true).chan 3).ready = true ∧
    ((channel3 .stopped false false).chan 3).ready = false ∧ ((channel3 .idle true true).chan 3).state = .idle ∧
    ((channel3 .held true true).chan 3).state = .held ∧ (channel3 .idle true true).takes (.cutter 3) {} 0 ∧
    ((channel3 .faulted true false).chan 3).state = .faulted ∧
    ((channel3 .stopped true false).chan 3).enabled = true :=
  ⟨free_link _ _ _ rfl, by decide, by decide, by decide, by decide, free_link _ _ _ rfl, by decide, by decide⟩

theorem witness_ReturnChecksAreMade :
    ((partners .struck).placement 0 0 = some (put .placed none (some 1)) ∧
      (partners .struck).placement 0 1 = some (put .struck none (some 0))) ∧
    (partners .placed).placement 0 1 = some (put .placed none (some 0)) ∧
    (part (hide1 .cutting [{ put .placed none none with marker := true }])).placement 0 0 =
      some { put .placed none none with marker := true } ∧
    (bare .cutting).piece 0 = some dot ∧ Tab.get dot.variants 0 = some ⟨1, 1, [(0, 3)]⟩ ∧
    (fitTest true 0 none ⟨1, 1, [(0, 3)]⟩ 0 0 (bare .cutting)).2 = .pass ∧
    (fitTest true 0 none ⟨1, 1, [(0, 3)]⟩ 1 0 (bare .cutting)).2 = .fail 2 1 0 none ∧
    (bare .cutting).placement 0 0 = none := by decide

theorem witness_ChannelFaultsGiveTheHideBack :
    ((channel3 .idle true true).chan 3).state = .idle ∧
    (((cutting .running [put .ticketed (some (1, 0)) none] none []).chan 0).state = .running ∧
      ((cutting .running [put .ticketed (some (1, 0)) none] none []).chan 0).hide = some 0 ∧
      ((State.returnAll 0 0 (cutting .running [put .ticketed (some (1, 0)) none] none [])).hide 0).map Hide.anyPlaced =
        some true) ∧
    ((State.returnAll 0 0 (cutting .running [] none [])).hide 0).map Hide.anyPlaced = some false ∧
    ((cutting .aborting [] none []).chan 0).state = .aborting ∧
    Tab.sorted (cutting .running [put .ticketed (some (1, 0)) none] none []).hides.slots = true ∧
    (put .ticketed (some (1, 0)) none).marker = false ∧ (put .ticketed (some (1, 0)) none).partner = none := by decide

theorem witness_CuttersFaultAndCutterResetStopsTheChannel :
    (cutting .running [] none []).takes (.cutter 0) {} 2 ∧ (cutting .running [] none []).takes (.cutter 0) {} 0 ∧
    (cutting .running [] none []).takes .control {} 1 ∧ ((cutting .running [] none []).chan 0).state = .running ∧
    ((cutting .running [] none []).chan 0).hide = some 0 ∧ ((cutting .aborting [] none []).chan 0).state = .aborting ∧
    ((channel3 .faulted true true).chan 3).state = .faulted ∧
    ((State.returnAll 0 0 (cutting .running [put .ticketed (some (1, 0)) none] none [])).hide 0).map Hide.anyPlaced =
      some true ∧
    ((State.returnAll 0 0 (cutting .running [] none [])).hide 0).map Hide.anyPlaced = some false :=
  ⟨free_link _ _ _ rfl, free_link _ _ _ rfl, free_link _ _ _ rfl, by decide, by decide, by decide, by decide, by decide,
    by decide⟩

/-- Channel 0 with ticket 1 out. -/
def out1 (out : Option Outstanding) (expired : Bool) : State :=
  cutting .running [put .ticketed (some (1, 0)) none] out [⟨⟨1, 0⟩, 90, expired⟩]

/-- Channel 0 with ticket 1 out for two placements, and a third placement resolved under that number. -/
def twice (out : Option Outstanding) : State :=
  cutting .running [put .ticketed (some (1, 0)) none, put .ticketed (some (1, 0)) none, put .cut (some (1, 0)) none] out
    [⟨⟨1, 0⟩, 90, false⟩, ⟨⟨1, 1⟩, 90, false⟩]

/-- The placement states and the deadlines that an outcome leaves of channel 0's hide. -/
def left (o : Host.Outcome State Fault Refusal) : Option (List PlacementState × List (Nat × Bool)) :=
  match o with
  | .next t => (t.hide 0).map fun g => (g.placements.map Placement.state,
      (t.chan 0).deadlines.map fun d => (d.ticket.index, d.expired))
  | _ => none

theorem test_refused_ticket_of_two :
    left (exec (.ticketAnswer 0 4 (.refuse 1 0)) (twice (some ⟨.ticket ⟨1, 1⟩, 4⟩))) =
      some ([.ticketed, .skipped, .cut], [(0, false)]) := by decide

theorem test_deadline_of_two :
    left (exec (.deadlineExpiry 0 ⟨1, 1⟩) (twice none)) =
      some ([.ticketed, .ticketed, .cut], [(0, false), (1, true)]) := by decide

theorem test_query_of_a_resolved_ticket :
    left (exec (.queryAnswer 0 4 .unknown []) (twice (some ⟨.query ⟨1, 2⟩, 4⟩))) =
      some ([.ticketed, .ticketed, .cut], [(0, false), (1, false)]) := by decide

theorem witness_CutReportsResolveTickets :
    (out1 none false).takes (.cutter 0) {} 6 ∧ 2 < 3 ∧ (2 ≤ 2 ∧ (State.reset.chan 0).hide = none) ∧
    ((out1 none false).chan 0).state = .running ∧ ((out1 none false).chan 0).hide = some 0 ∧
    ((out1 none false).hide 0).bind (fun g => g.placements[0]?) = some (put .ticketed (some (1, 0)) none) ∧
    (put .ticketed (some (1, 0)) none).state = .ticketed ∧
    (put .ticketed (some (1, 0)) none).ticket = some (1, 0) :=
  ⟨free_link _ _ _ rfl, by decide, by decide, by decide, by decide, by decide, by decide, by decide⟩

theorem witness_TicketsAreSentAndAnswered :
    (((cutting .running [put .placed none none] none []).chan 0).hide = some 0 ∧
      (cutting .running [put .placed none none] none []).ticketsOut 0 <
        (cutting .running [put .placed none none] none []).settings.window 0 ∧
      ((cutting .running [put .placed none none] none []).hide 0).bind (fun g => g.placements[0]?) =
        some (put .placed none none) ∧
      (cutting .running [put .placed none none] none []).piece 0 = some dot ∧
      ((cutting .running [put .placed none none] none []).link (.cutter 0)).inHand = none) ∧
    ((sendingOn (.cutter 0) .idle (cutting .running [put .placed none none] none [])).link (.cutter 0)).inHand =
      some (heldBusy .idle) ∧
    ((cutting .held [] none []).chan 0).state ≠ .running ∧
    ((out1 (some ⟨.ticket ⟨1, 0⟩, 4⟩) false).chan 0).outstanding = some ⟨.ticket ⟨1, 0⟩, 4⟩ ∧
    ((out1 (some ⟨.ticket ⟨1, 0⟩, 4⟩) false).hide 0).bind (fun g => g.placements[0]?) =
      some (put .ticketed (some (1, 0)) none) := by decide

theorem witness_OverdueTicketsAreQueried :
    ((out1 none true).chan 0).hide = some 0 ∧ ((out1 none true).chan 0).state = .running ∧
    ((out1 none true).hide 0).bind (fun g => g.placements[0]?) = some (put .ticketed (some (1, 0)) none) ∧
    ((out1 none true).link (.cutter 0)).inHand = none ∧ ((out1 none true).chan 0).outstanding = none ∧
    ((out1 none true).chan 0).deadlines = [] ++ ⟨⟨1, 0⟩, 90, true⟩ :: [] ∧
    ((out1 (some ⟨.query ⟨1, 0⟩, 4⟩) true).chan 0).outstanding = some ⟨.query ⟨1, 0⟩, 4⟩ ∧
    ((twice (some ⟨.query ⟨1, 2⟩, 4⟩)).chan 0).outstanding = some ⟨.query ⟨1, 2⟩, 4⟩ ∧
    ((twice (some ⟨.query ⟨1, 2⟩, 4⟩)).chan 0).hide = some 0 ∧
    ((twice (some ⟨.query ⟨1, 2⟩, 4⟩)).hide 0).bind (fun g => g.placements[2]?) =
      some (put .cut (some (1, 0)) none) := by decide

theorem witness_AbortsComplete :
    ((cutting .aborting [] none []).chan 0).state = .aborting ∧ ((cutting .aborting [] none []).chan 0).hide = some 0 ∧
    ((cutting .aborting [] none []).chan 0).outstanding = none ∧
    ((cutting .aborting [] none []).link (.cutter 0)).inHand = none ∧
    ((sendingOn (.cutter 0) .idle (cutting .aborting [] none [])).link (.cutter 0)).inHand = some (heldBusy .idle) ∧
    ((cutting .aborting [] (some ⟨.abort, 4⟩) []).chan 0).outstanding = some ⟨.abort, 4⟩ := by decide

/-! What every step keeps: a state that is no reset state meets each condition, and a step from it answers next. -/

/-- The part in RUN with a hide that no channel can take, and an empty queue. -/
def kept : State :=
  { part (hide1 .dispatchWait [put .placed none none]) with
    arbiter := { state := .run, waiting := [0], ratio := 8, lastGranted := 0 } }

theorem witness_StepsKeepTheBookSound : kept.bookSound = true ∧ ∃ t, step kept = .next t := ⟨by decide, _, rfl⟩
theorem witness_StepsKeepTheSettingsSound : kept.settingsSound = true ∧ ∃ t, step kept = .next t := ⟨by decide, _, rfl⟩
theorem witness_StepsKeepTheMemoriesCanonical : kept.canonical = true ∧ ∃ t, step kept = .next t := ⟨by decide, _, rfl⟩
/-- The same part with the one line that the hide's placement draws on. -/
def joined1 : State := { kept with book := [(0, open1 none)] }

/-- The only hide of that part. -/
theorem joined1_hide (slot : Nat) (g : Hide) (h : joined1.hide slot = some g) :
    slot = 0 ∧ g = hide1 .dispatchWait [put .placed none none] := by
  unfold State.hide at h
  simp only [joined1, kept, part, Tab.get] at h
  split at h
  · next e => cases h; exact ⟨e.symm, rfl⟩
  · cases h

/-- Its records name one another as they should. -/
theorem joined1_joined : joined1.joined := by
  have hc : ∀ c, joined1.chan c = Channel.fresh := by decide
  have h0 : joined1.hide 0 = some (hide1 .dispatchWait [put .placed none none]) := rfl
  refine ⟨⟨fun slot => ⟨fun h => ?_, fun ⟨g, hg, _⟩ => ?_⟩, List.pairwise_singleton _ _⟩,
    ⟨fun slot g r hg hr => ?_, fun a b g k q r hg hk _ _ _ => ?_, fun slot g hg _ => ?_⟩,
    ⟨fun c => by rw [hc]; decide, fun c slot => ⟨fun h => ?_, fun ⟨g, hg, h⟩ => ?_⟩, fun slot g hg => ?_⟩,
    ⟨List.nodup_nil, fun slot => ⟨(fun h => by cases h), fun ⟨g, hg, h⟩ => ?_⟩,
      fun slot => ⟨(fun h => by cases h), fun ⟨g, hg, h⟩ => ?_⟩, fun p hp => by cases hp⟩,
    fun slot g hg => ?_⟩
  · have e : slot = 0 := List.mem_singleton.1 h
    subst e; exact ⟨_, h0, rfl⟩
  · rw [(joined1_hide _ _ hg).1]; exact List.mem_singleton.2 rfl
  · rw [(joined1_hide _ _ hg).2] at hr; cases hr; decide
  · rw [(joined1_hide _ _ hg).1, (joined1_hide _ _ hk).1]
  · rw [(joined1_hide _ _ hg).2]; decide
  · rw [hc] at h; cases h
  · rw [(joined1_hide _ _ hg).2] at h; cases h
  · rw [(joined1_hide _ _ hg).2]
    exact ⟨by decide, by decide, fun c h => by cases h⟩
  · rw [(joined1_hide _ _ hg).2] at h; cases h
  · rw [(joined1_hide _ _ hg).2] at h; cases h
  · rw [(joined1_hide _ _ hg).2]
    refine ⟨fun p hp h => ?_, by decide⟩
    rw [List.mem_singleton.1 hp] at h; cases h

theorem witness_StepsKeepTheRecordsJoined : joined1.joined ∧ ∃ t, step joined1 = .next t := ⟨joined1_joined, _, rfl⟩

theorem witness_StepsKeepTheReserves :
    joined1.bookSound = true ∧ joined1.canonical = true ∧ joined1.joined ∧ joined1.drawn ∧
    ∃ t, step joined1 = .next t := by
  refine ⟨by decide, by decide, joined1_joined, fun id => ?_, _, rfl⟩
  by_cases h : id = 0
  · subst h; decide
  · have h1 : joined1.line id = none := if_neg (Ne.symm h)
    have h2 : joined1.draws id = 0 := by
      simp [State.draws, joined1, kept, part, hide1, put, Placement.draws, State.reset, Ne.symm h]
    rw [h1, h2]; rfl

theorem witness_StepsLeaveNothingGrantable :
    kept.settingsSound = true ∧ kept.arbiterSound = true ∧ ∃ t, step kept = .next t := ⟨by decide, by decide, _, rfl⟩

end Sys2Proof.Tests
end

section
/-! The statements about the order book (chapter 1): what LINE_ADD and PAIR_ADD make or refuse, and what the three claims
on a line write. -/

namespace Sys2Proof.Proofs.Book

open Sys2Proof.Machine Sys2Proof.Laws

/-! ### Checks in order (R11) -/

/-- A request without a check left is done. -/
@[simp] theorem checked_nil (s : State) (go : State × Reply) : checked s [] go = go := rfl

/-- A check that passes leaves the answer to those after it. -/
theorem checked_pass {ok : Bool} (h : ok = true) (s : State) (reason : Reason) (detail : Nat) (rest : List Check)
    (go : State × Reply) : checked s ((ok, reason, detail) :: rest) go = checked s rest go := by
  subst h; rfl

/-- A check that fails gives the refusal, whatever stands after it, and nothing changes. -/
theorem checked_fail {ok : Bool} (h : ok = false) (s : State) (reason : Reason) (detail : Nat) (rest : List Check)
    (go : State × Reply) : checked s ((ok, reason, detail) :: rest) go = (s, .refuse reason detail) := by
  subst h; rfl

/-- The ordered values that LINE_ADD and PAIR_ADD take (R12). -/
theorem orderedOk_iff (n : Nat) : orderedOk n = true ↔ 1 ≤ n ∧ n ≤ 4095 := by simp [orderedOk]

/-- The ordered values that are refused. -/
theorem orderedOk_eq_false_iff (n : Nat) : orderedOk n = false ↔ n = 0 ∨ 4095 < n := by
  rw [← Bool.not_eq_true, orderedOk_iff]; omega

/-- A slot is ready where it holds a piece in READY. -/
theorem slotReady_of_ready {s : State} {slot : Nat} {p : Piece} (hp : s.piece slot = some p) (hr : p.state = .ready) :
    s.slotReady slot = true := by
  simp [State.slotReady, pieceCode, hp, hr]

/-- A slot is not ready where it is EMPTY or its piece is still LOADING. -/
theorem slotReady_of_loading {s : State} {slot : Nat} (h : ∀ p, s.piece slot = some p → p.state = .loading) :
    s.slotReady slot = false := by
  cases hp : s.piece slot with
  | none => simp [State.slotReady, pieceCode, hp]
  | some p => simp [State.slotReady, pieceCode, hp, h p hp]

/-- The readiness of a slot is no matter of the links. -/
@[simp] theorem hunt_slotReady (s : State) (l : Link) (slot : Nat) : (s.hunt l).slotReady slot = s.slotReady slot := by
  simp [State.slotReady]

/-! ### What the replies carry (R11) -/

/-- The reply of a request on a line that is not paired carries that line. -/
theorem lineResult_single {s : State} {id : Nat} {l : Line} (hl : s.line id = some l) (hp : l.pair = none) :
    s.lineResult id = .line id l := by
  simp [State.lineResult, hl, hp]

/-- The reply of a request on a paired line carries the line and then its mirror. -/
theorem lineResult_paired {s : State} {id : Nat} {l m : Line} {p : Pairing} (hl : s.line id = some l)
    (hp : l.pair = some p) (hm : s.line p.mirror = some m) : s.lineResult id = .lines id l p.mirror m := by
  simp [State.lineResult, hl, hp, hm]

/-! ### LINE_ADD (R12) -/

/-- LINE_ADD where its four checks pass. -/
theorem lineAddBody_accepts {s : State} {id slot ordered : Nat} (style size : Nat) (hslot : slot < 128)
    (hn : orderedOk ordered = true) (hid : s.line id = none) (hr : s.slotReady slot = true) :
    lineAddBody id slot style size ordered s =
      (s.putLine id (newLine slot style size ordered none),
        .accept (.line id (newLine slot style size ordered none))) := by
  unfold lineAddBody
  rw [checked_pass (decide_eq_true hslot), checked_pass hn, checked_pass (by rw [hid]; rfl), checked_pass hr, checked_nil]
  dsimp only
  rw [lineResult_single (line_putLine_self _ _ _) rfl]

/-- The first check of LINE_ADD: the slot's range. -/
theorem lineAddBody_slotRange (s : State) (id : Nat) {slot : Nat} (style size ordered : Nat) (hslot : 128 ≤ slot) :
    lineAddBody id slot style size ordered s = (s, .refuse .range 1) :=
  checked_fail (decide_eq_false (Nat.not_lt.2 hslot)) ..

/-- The second check of LINE_ADD: the ordered value's range. -/
theorem lineAddBody_orderedRange (s : State) (id : Nat) {slot ordered : Nat} (style size : Nat) (hslot : slot < 128)
    (hn : orderedOk ordered = false) : lineAddBody id slot style size ordered s = (s, .refuse .range 2) := by
  unfold lineAddBody
  rw [checked_pass (decide_eq_true hslot), checked_fail hn]

/-- The third check of LINE_ADD: the id is free. -/
theorem lineAddBody_inUse {s : State} {id slot ordered : Nat} (style size : Nat) (hslot : slot < 128)
    (hn : orderedOk ordered = true) (hid : (s.line id).isSome) :
    lineAddBody id slot style size ordered s = (s, .refuse .inUse id) := by
  unfold lineAddBody
  rw [checked_pass (decide_eq_true hslot), checked_pass hn, checked_fail (Option.isNone_eq_false_iff.2 hid)]

/-- The fourth check of LINE_ADD: the slot's piece is READY. -/
theorem lineAddBody_notReady {s : State} {id slot ordered : Nat} (style size : Nat) (hslot : slot < 128)
    (hn : orderedOk ordered = true) (hid : s.line id = none) (hr : s.slotReady slot = false) :
    lineAddBody id slot style size ordered s = (s, .refuse .wrongState slot) := by
  unfold lineAddBody
  rw [checked_pass (decide_eq_true hslot), checked_pass hn, checked_pass (by rw [hid]; rfl), checked_fail hr]

/-- A LINE_ADD that is taken does its work on the state whose receiver is HUNTING again, and replies. -/
theorem exec_lineAdd_of_body {h : Head} {id slot style size ordered : Nat} {s t : State} {r : Reply}
    (ht : s.takes .control h 8) (hb : lineAddBody id slot style size ordered (s.hunt .control) = (t, r)) :
    exec (.lineAdd h id slot style size ordered) s = .next (t.replied .control 0x10 h r) :=
  congrArg Host.Outcome.next (request_next 0x10 _ t r ht hb)

/-! ### PAIR_ADD (R13) -/

/-- PAIR_ADD where its eight checks pass. -/
theorem pairAddBody_accepts {s : State} {id1 id2 slot1 slot2 ordered : Nat} (style size : Nat) (hne : id1 ≠ id2)
    (hslot1 : slot1 < 128) (hslot2 : slot2 < 128) (hn : orderedOk ordered = true) (hid1 : s.line id1 = none)
    (hid2 : s.line id2 = none) (hr1 : s.slotReady slot1 = true) (hr2 : s.slotReady slot2 = true) :
    pairAddBody id1 id2 slot1 slot2 ordered style size s =
      ((s.putLine id1 (newLine slot1 style size ordered (some ⟨id2, .first⟩))).putLine id2
          (newLine slot2 style size ordered (some ⟨id1, .second⟩)),
        .accept (.lines id1 (newLine slot1 style size ordered (some ⟨id2, .first⟩)) id2
          (newLine slot2 style size ordered (some ⟨id1, .second⟩)))) := by
  unfold pairAddBody
  rw [checked_pass (decide_eq_true hne), checked_pass (decide_eq_true hslot1), checked_pass (decide_eq_true hslot2),
    checked_pass hn, checked_pass (by rw [hid1]; rfl), checked_pass (by rw [hid2]; rfl), checked_pass hr1,
    checked_pass hr2, checked_nil]
  dsimp only
  rw [lineResult_paired ((line_putLine_other _ _ hne).trans (line_putLine_self _ _ _)) rfl (line_putLine_self _ _ _)]

/-- A PAIR_ADD that is taken does its work on the state whose receiver is HUNTING again, and replies. -/
theorem exec_pairAdd_of_body {h : Head} {id1 id2 slot1 slot2 ordered style size : Nat} {s t : State} {r : Reply}
    (ht : s.takes .control h 10)
    (hb : pairAddBody id1 id2 slot1 slot2 ordered style size (s.hunt .control) = (t, r)) :
    exec (.pairAdd h id1 id2 slot1 slot2 ordered style size) s = .next (t.replied .control 0x11 h r) :=
  congrArg Host.Outcome.next (request_next 0x11 _ t r ht hb)

/-- Settles O13, by passing the checks of LINE_ADD and PAIR_ADD in their order up to the one that decides. -/
theorem linesAreAdded : Obligations.LinesAreAdded := by
  unfold Obligations.LinesAreAdded
  refine ⟨fun h id slot style size ordered p s hslot h1 h2 hid hp hready => ?_,
    fun h id slot style size ordered s ht => ?_⟩
  · have hn : orderedOk ordered = true := (orderedOk_iff _).2 ⟨h1, h2⟩
    have hr : (s.hunt .control).slotReady slot = true := by simpa using slotReady_of_ready hp hready
    have hid' : (s.hunt .control).line id = none := by simpa using hid
    refine ⟨fun ht => ?added, fun id2 slot2 p2 ht hne hslot2 hid2 hp2 hready2 => ?paired⟩
    case added => exact exec_lineAdd_of_body ht (lineAddBody_accepts style size hslot hn hid' hr)
    case paired =>
      have hr2 : (s.hunt .control).slotReady slot2 = true := by simpa using slotReady_of_ready hp2 hready2
      have hid2' : (s.hunt .control).line id2 = none := by simpa using hid2
      exact exec_pairAdd_of_body ht (pairAddBody_accepts style size hne hslot hslot2 hn hid' hid2' hr hr2)
  · refine ⟨fun hslot => ?slotRange, fun hslot hn => ?orderedRange, fun hslot h1 h2 hid => ?inUse,
      fun hslot h1 h2 hid hp => ?notReady⟩
    case slotRange => exact exec_lineAdd_of_body ht (lineAddBody_slotRange _ _ _ _ _ hslot)
    case orderedRange =>
      exact exec_lineAdd_of_body ht (lineAddBody_orderedRange _ _ _ _ hslot ((orderedOk_eq_false_iff _).2 hn))
    case inUse =>
      exact exec_lineAdd_of_body ht (lineAddBody_inUse _ _ hslot ((orderedOk_iff _).2 ⟨h1, h2⟩) (by simpa using hid))
    case notReady =>
      exact exec_lineAdd_of_body ht (lineAddBody_notReady _ _ hslot ((orderedOk_iff _).2 ⟨h1, h2⟩) (by simpa using hid)
        (by simpa using slotReady_of_loading hp))

/-! ### The test of R9 -/

/-- An ACTIVE line's new counts: with no unit open or reserved it is COMPLETE, its notice set. -/
theorem settleLine_active (s : State) (id : Nat) {l : Line} (h : l.state = .active) :
    s.settleLine id l =
      if l.openUnits = 0 ∧ l.reserved = 0 then s.raiseNotice id { l with state := .complete } else s.putLine id l := by
  simp only [State.settleLine, h]

/-- A CANCELLING line's new counts: with no unit reserved it is CLOSED, its notice set. -/
theorem settleLine_cancelling (s : State) (id : Nat) {l : Line} (h : l.state = .cancelling) :
    s.settleLine id l =
      if l.reserved = 0 then s.raiseNotice id { l with state := .closed } else s.putLine id l := by
  simp only [State.settleLine, h]

/-! ### Claims (R6 to R8) -/

/-- The lines that a reserve takes a unit from. -/
theorem canReserve_iff (l : Line) : State.canReserve l = true ↔ l.state = .active ∧ 1 ≤ l.openUnits := by
  simp [State.canReserve]

/-- A reserve on an ACTIVE line with an open unit. -/
theorem claimReserve_granted {s : State} {id : Nat} {l : Line} (hl : s.line id = some l) (ha : l.state = .active)
    (ho : 1 ≤ l.openUnits) :
    s.claimReserve id = some (s.putLine id { l with openUnits := l.openUnits - 1, reserved := l.reserved + 1 }) := by
  simp only [State.claimReserve, hl]
  exact if_pos ((canReserve_iff l).2 ⟨ha, ho⟩)

/-- A reserve on a line that is not ACTIVE or has no open unit is refused. -/
theorem claimReserve_refused {s : State} {id : Nat} {l : Line} (hl : s.line id = some l)
    (h : l.state ≠ .active ∨ l.openUnits = 0) : s.claimReserve id = none := by
  rw [Option.eq_none_iff_forall_ne_some]
  intro t ht
  obtain ⟨l', hl', ha, ho, -⟩ := claimReserve_some ht
  obtain rfl : l = l' := Option.some.inj (hl.symm.trans hl')
  rcases h with hna | hz
  · exact hna ha
  · omega

/-- A resolve of a reserved unit moves it to cut and makes the test of R9. -/
theorem claimResolve_settles {s : State} {id : Nat} {l : Line} (hl : s.line id = some l)
    (hst : l.state = .active ∨ l.state = .cancelling) (hr : 1 ≤ l.reserved) :
    s.claimResolve id = s.settleLine id { l with reserved := l.reserved - 1, cut := l.cut + 1 } := by
  have hr0 : l.reserved ≠ 0 := by omega
  rcases hst with h | h <;> simp only [State.claimResolve, hl, h, if_neg hr0]

/-- A return of a reserved unit of an ACTIVE line makes it open again: the line, with a unit open, does not finish. -/
theorem claimReturn_active {s : State} {id : Nat} {l : Line} (hl : s.line id = some l) (ha : l.state = .active)
    (hr : 1 ≤ l.reserved) :
    s.claimReturn id = s.putLine id { l with reserved := l.reserved - 1, openUnits := l.openUnits + 1 } := by
  have hr0 : l.reserved ≠ 0 := by omega
  have hreturn : s.claimReturn id =
      s.settleLine id { l with reserved := l.reserved - 1, openUnits := l.openUnits + 1 } := by
    simp only [State.claimReturn, hl, ha, if_neg hr0]
  rw [hreturn, settleLine_active _ _ (by exact ha), if_neg (by simp)]

/-- A resolve on an ACTIVE line: the last unit neither open nor cut makes it COMPLETE. -/
theorem claimResolve_active {s : State} {id : Nat} {l : Line} (hl : s.line id = some l) (ha : l.state = .active)
    (hr : 1 ≤ l.reserved) :
    s.claimResolve id =
      if l.openUnits = 0 ∧ l.reserved = 1 then
        s.raiseNotice id { l with reserved := 0, cut := l.cut + 1, state := .complete }
      else s.putLine id { l with reserved := l.reserved - 1, cut := l.cut + 1 } := by
  rw [claimResolve_settles hl (.inl ha) hr, settleLine_active _ _ (by exact ha)]
  by_cases hlast : l.openUnits = 0 ∧ l.reserved = 1
  · obtain ⟨ho, hr1⟩ := hlast
    simp [ho, hr1]
  · rw [if_neg hlast, if_neg (by dsimp only; omega)]

/-- A resolve on a CANCELLING line: the last reserved unit makes it CLOSED. -/
theorem claimResolve_cancelling {s : State} {id : Nat} {l : Line} (hl : s.line id = some l)
    (hc : l.state = .cancelling) (hr : 1 ≤ l.reserved) :
    s.claimResolve id =
      if l.reserved = 1 then s.raiseNotice id { l with reserved := 0, cut := l.cut + 1, state := .closed }
      else s.putLine id { l with reserved := l.reserved - 1, cut := l.cut + 1 } := by
  rw [claimResolve_settles hl (.inr hc) hr, settleLine_cancelling _ _ (by exact hc)]
  by_cases hlast : l.reserved = 1
  · simp [hlast]
  · rw [if_neg hlast, if_neg (by dsimp only; omega)]

/-- A return on a CANCELLING line: the unit is no longer ordered, and the last reserved one makes the line CLOSED. -/
theorem claimReturn_cancelling {s : State} {id : Nat} {l : Line} (hl : s.line id = some l)
    (hc : l.state = .cancelling) (hr : 1 ≤ l.reserved) :
    s.claimReturn id =
      if l.reserved = 1 then s.raiseNotice id { l with reserved := 0, ordered := l.ordered - 1, state := .closed }
      else s.putLine id { l with reserved := l.reserved - 1, ordered := l.ordered - 1 } := by
  have hr0 : l.reserved ≠ 0 := by omega
  have hreturn : s.claimReturn id =
      s.settleLine id { l with reserved := l.reserved - 1, ordered := l.ordered - 1 } := by
    simp only [State.claimReturn, hl, hc, if_neg hr0]
  rw [hreturn, settleLine_cancelling _ _ (by exact hc)]
  by_cases hlast : l.reserved = 1
  · simp [hlast]
  · rw [if_neg hlast, if_neg (by dsimp only; omega)]

/-- Settles O15, from what each claim writes on an ACTIVE and on a CANCELLING line. -/
theorem claimsMoveOneUnit : Obligations.ClaimsMoveOneUnit := by
  unfold Obligations.ClaimsMoveOneUnit
  intro id l s hl
  exact ⟨claimReserve_granted hl, claimReserve_refused hl,
    fun ha hr => ⟨claimResolve_active hl ha hr, claimReturn_active hl ha hr⟩,
    fun hc hr => ⟨claimResolve_cancelling hl hc hr, claimReturn_cancelling hl hc hr⟩⟩

end Sys2Proof.Proofs.Book
end

section
/-! The statements about the Pattern Library (chapter 2): the mode that BANK_MODE gives a bank. -/

namespace Sys2Proof.Proofs.PatternLibrary

open Sys2Proof.Machine Sys2Proof.Laws

/-! ### The modes of the banks (R27) -/

/-- A slot of the bank whose mode is set has that mode. -/
theorem bankOf_setBank_self (s : State) {slot bank : Nat} (m : BankMode) (hb : bank < 4) (h : slot / 32 = bank) :
    State.bankOf { s with library := { s.library with banks := s.library.banks.set bank m hb } } slot = m := by
  subst h
  simp [State.bankOf]

/-- A slot of another bank keeps its mode. -/
theorem bankOf_setBank_other (s : State) {slot bank : Nat} (m : BankMode) (hb : bank < 4) (h : slot / 32 ≠ bank) :
    State.bankOf { s with library := { s.library with banks := s.library.banks.set bank m hb } } slot = s.bankOf slot := by
  simp [State.bankOf, Vector.getElem?_set_ne hb h.symm]

/-- A bank that is given the mode it has leaves the modes as they were. -/
theorem setBank_of_getElem? {banks : Vector BankMode 4} {bank : Nat} {m : BankMode} (hb : bank < 4)
    (h : banks[bank]? = some m) : banks.set bank m hb = banks := by
  obtain ⟨-, rfl⟩ := Vector.getElem?_eq_some_iff.1 h
  exact Vector.set_getElem_self hb

/-! ### BANK_MODE (R28) -/

/-- The two codes that name a mode (R176). -/
theorem bankModeOf_eq_some_iff (code : Nat) (m : BankMode) :
    bankModeOf code = some m ↔ code = 0 ∧ m = .unlocked ∨ code = 1 ∧ m = .locked := by
  match code with
  | 0 => simp [bankModeOf, eq_comm]
  | 1 => simp [bankModeOf, eq_comm]
  | _ + 2 => simp [bankModeOf]

/-- A bank outside the four is refused, whatever the mode. -/
theorem bankModeBody_range {bank : Nat} (hb : 4 ≤ bank) (code : Nat) (s : State) :
    bankModeBody bank code s = (s, .refuse .range 0) := by
  unfold bankModeBody
  exact dif_neg (Nat.not_lt.2 hb)

/-- One of the four banks takes a mode that the code names. -/
theorem bankModeBody_accepts {bank code : Nat} {m : BankMode} (hb : bank < 4) (hm : bankModeOf code = some m)
    (s : State) :
    bankModeBody bank code s =
      ({ s with library := { s.library with banks := s.library.banks.set bank m hb } }, .accept (.bank bank m)) := by
  unfold bankModeBody
  rw [dif_pos hb, hm]

/-- A BANK_MODE that is taken does its work on the state whose receiver is HUNTING again, and replies. -/
theorem exec_bankMode_of_body {h : Head} {bank code : Nat} {s t : State} {r : Reply} (ht : s.takes .control h 2)
    (hb : bankModeBody bank code (s.hunt .control) = (t, r)) :
    exec (.bankMode h bank code) s = .next (t.replied .control 0x26 h r) :=
  congrArg Host.Outcome.next (request_next 0x26 _ t r ht hb)

/-- Settles O17: a bank outside the four fails the range check, and one of the four has its entry among the modes set to
the mode that the code names, which leaves the other entries, and an entry that held this mode, as they were. -/
theorem bankModeSetsTheMode : Obligations.BankModeSetsTheMode := by
  unfold Obligations.BankModeSetsTheMode
  intro h bank code s ht
  refine ⟨fun hb => exec_bankMode_of_body ht (bankModeBody_range hb _ _), fun m hb hcode => ?_⟩
  have hm : bankModeOf code = some m := (bankModeOf_eq_some_iff code m).2 hcode
  refine ⟨s.library.banks.set bank m hb, ?reply, fun slot hslot => ?self, fun slot hslot => ?other, fun hheld => ?held⟩
  case reply => exact exec_bankMode_of_body ht (bankModeBody_accepts hb hm _)
  case self => exact bankOf_setBank_self s m hb hslot
  case other => exact bankOf_setBank_other s m hb hslot
  case held => exact setBank_of_getElem? hb hheld

end Sys2Proof.Proofs.PatternLibrary
end

section
/-! The statements about dispatch (chapter 8): what HOLD and RUN make of the channels, and what their replies give. -/

namespace Sys2Proof.Proofs.Dispatch

open Sys2Proof.Machine Sys2Proof.Laws

/-! ### The channels under HOLD and RUN (R156) -/

/-- HOLD makes a channel that is RUNNING or DRAINING HELD, and leaves the others alone. -/
theorem held_eq_ite (ch : Channel) :
    ch.held = if ch.state = .running ∨ ch.state = .draining then { ch with state := .held } else ch := by
  unfold Channel.held
  cases ch.state <;> simp

/-- RUN moves a HELD channel by what its hide holds, and leaves the others alone. -/
theorem resumed_eq_ite (s : State) (ch : Channel) :
    resumed s ch =
      if ch.state = .held then
        { ch with state := if (ch.hide.bind s.hide).any Hide.anyPlaced then .running else .draining }
      else ch := by
  unfold resumed
  cases ch.state <;> simp

/-- What RUN makes of a channel is no matter of the links. -/
@[simp] theorem resumed_hunt (s : State) (l : Link) : resumed (s.hunt l) = resumed s := by
  have hhide : (s.hunt l).hide = s.hide := funext (hunt_hide s l)
  funext ch
  rw [resumed_eq_ite, resumed_eq_ite, hhide]

/-! ### The view that the replies give (R141) -/

/-- The release of a hide in use that was released. -/
theorem releaseOf_of_hide {s : State} {slot : Nat} {g : Hide} {r : Release} (hg : s.hide slot = some g)
    (hr : g.release = some r) : s.releaseOf slot = some r := by
  rw [State.releaseOf, hg, Option.bind_some, hr]

/-- The view lists the waiting hides in the order of the waiting list. -/
theorem dispatchView_waiting_fst (s : State) : s.dispatchView.waiting.map Prod.fst = s.arbiter.waiting := by
  simp [State.dispatchView, Function.comp_def]

/-- An entry of the view gives the number and the urgency of its hide's release. -/
theorem dispatchView_entry {s : State} {e : Nat × Nat × Urgency} {g : Hide} {r : Release}
    (he : e ∈ s.dispatchView.waiting) (hg : s.hide e.1 = some g) (hr : g.release = some r) :
    e.2 = (r.number, r.urgency) := by
  obtain ⟨slot, -, rfl⟩ := List.mem_map.1 he
  have hrel : s.releaseOf slot = some r := releaseOf_of_hide hg hr
  simp [State.numberOf, hrel]

/-! ### The requests taken -/

/-- A HOLD that is taken does its work on the state whose receiver is HUNTING again, and replies. -/
theorem exec_hold_of_body {h : Head} {s t : State} {r : Reply} (ht : s.takes .control h 0)
    (hb : holdBody (s.hunt .control) = (t, r)) : exec (.hold h) s = .next (t.replied .control 0x49 h r) :=
  congrArg Host.Outcome.next (request_next 0x49 _ t r ht hb)

/-- A RUN that is taken does its work on the state whose receiver is HUNTING again, and replies. -/
theorem exec_run_of_body {h : Head} {s t : State} {r : Reply} (ht : s.takes .control h 0)
    (hb : runBody (s.hunt .control) = (t, r)) : exec (.run h) s = .next (t.replied .control 0x4A h r) :=
  congrArg Host.Outcome.next (request_next 0x4A _ t r ht hb)

/-- Settles O43, from what HOLD and RUN make of one channel and from the entries of the view; the evaluation that RUN
starts, whatever it grants, stands in the statement as it does in RUN's work. -/
theorem holdAndRunMoveTheChannels : Obligations.HoldAndRunMoveTheChannels := by
  unfold Obligations.HoldAndRunMoveTheChannels
  intro h s ht
  refine ⟨exec_hold_of_body ht ?held, ⟨rfl, rfl, rfl, dispatchView_waiting_fst s,
    fun e he g r hg hr => dispatchView_entry he hg hr⟩, exec_run_of_body ht ?resumed⟩
  case held => simp only [holdBody, funext held_eq_ite, hunt_arbiter, hunt_chans]
  case resumed => simp only [runBody, resumed_hunt, funext (resumed_eq_ite s), hunt_arbiter, hunt_chans]

end Sys2Proof.Proofs.Dispatch
end

section
/-! The statements about every step (chapters 1, 3, 4, 8, 9 and 12): what each keeps, from what every command keeps. -/

namespace Sys2Proof.Proofs.Steps

open Sys2Proof.Machine Sys2Proof.Laws

/-! ### The Profile Store's events -/

/-- The rate of a LOAD is a write of the links. -/
theorem loadRate_eq (s : State) : loadRate s = { s with links := (loadRate s).links } := by
  unfold loadRate switchRate
  (repeat' split) <;> rfl

/-- What the completion of a LOAD can do: a good image in force, no image, or no event at all. -/
theorem loadCompletion_cases (s : State) :
    (∃ g, s.profile.image = .good g ∧
      loadCompletion s = setBusy .idle ((loadRate (putInForce g s)).raise (.profile .loaded))) ∨
    loadCompletion s = setBusy .idle (s.raise (.profile .loadFailed)) ∨ loadCompletion s = s := by
  unfold loadCompletion
  split
  · split
    · next g hg => exact .inl ⟨g, hg, rfl⟩
    · exact .inr (.inl rfl)
  · exact .inr (.inr rfl)

/-- A condition that a write of the busy state and settings put in force keep is kept by the completion of a LOAD. -/
theorem loadCompletion_keeps {P : State → Prop} (H : Steady P) (hbusy : ∀ s b, P s → P (setBusy b s))
    (hput : ∀ g s, P s → P (putInForce g s)) (s : State) (h : P s) : P (loadCompletion s) := by
  obtain ⟨g, -, e⟩ | e | e := loadCompletion_cases s
  · have hrate : P (loadRate (putInForce g s)) := by rw [loadRate_eq]; exact H.links _ _ (hput g s h)
    rw [e]
    exact hbusy _ _ (H.raise _ _ hrate)
  · rw [e]
    exact hbusy _ _ (H.raise _ _ h)
  · rw [e]
    exact h

/-! ### The records that name one another -/

/-- A start leaves the tables, the queues and the channels as after reset. -/
theorem jb_start (s : State) : JointBut none (start s) := jb_same (s := State.reset) rfl rfl rfl rfl reset_joined

/-- The records stay joined through every command. -/
theorem coarse_jb : Coarse (JointBut none) where
  toSteady := steady_jb
  sendAttention s h := jb_same (s := s) rfl rfl rfl rfl h
  start s _ := jb_start s
  body := jb_body
  saveCompletion s b h := jb_same (s := s) (by simp) (by simp) (by simp) (by simp) h
  loadCompletion := loadCompletion_keeps steady_jb (fun s b h => jb_same (s := s) rfl rfl rfl rfl h) jb_putInForce
  completeCommit := jb_completeCommit
  takeHide := jb_takeHide
  setPhase := jb_setPhase
  handFresh := jb_handFresh
  unitPush := jb_unitPush
  stepEnd := jb_stepEnd
  passEnd := jb_passEnd
  passAbort := jb_passAbort
  chan s c f hf h := jb_chan' s c f hf h
  ticketSend := jb_ticketSend
  ticketRefused := jb_ticketRefused
  finishedTicket := jb_finished
  stillOut := jb_stillOut
  unknownTicket := jb_unknown
  abortEnd s c ha h := jb_endAbort s c (of_decide_eq_true (Bool.and_eq_true_iff.1 ha).1) h
  evaluate := jb_evaluate

/-- Settles O58: every command keeps the records joined, by what its work keeps. -/
theorem stepsKeepTheRecordsJoined : Obligations.StepsKeepTheRecordsJoined := by
  unfold Obligations.StepsKeepTheRecordsJoined
  intro s t h he
  exact (joined_iff t).2 (coarse_jb.step_keeps s t ((joined_iff s).1 h) he)

/-! ### The reserves -/

/-- What a line's reserves are counted in: the records joined, with the lines and the draws on them. -/
def Reserved (s : State) : Prop := JointBut none s ∧ Drawing s

/-- The reserves are kept through every command, where the records are joined. -/
theorem coarse_reserved : Coarse Reserved where
  toSteady := steady_both steady_jb steady_ds
  sendAttention s h := ⟨coarse_jb.sendAttention s h.1, ds_sendAttention s h.2⟩
  start s _ := ⟨jb_start s, ds_same (s := State.reset) rfl rfl rfl reset_ds⟩
  body c s h := ⟨jb_body c s h.1, ds_body c s h.1 h.2⟩
  saveCompletion s b h := ⟨coarse_jb.saveCompletion s b h.1, ds_same (by simp) (by simp) (by simp) h.2⟩
  loadCompletion s h := ⟨coarse_jb.loadCompletion s h.1,
    loadCompletion_keeps steady_ds (fun s b k => ds_same (s := s) rfl rfl rfl k) ds_putInForce s h.2⟩
  completeCommit s slot g hg hc h := ⟨jb_completeCommit s slot g hg hc h.1, ds_completeCommit s slot g h.2⟩
  takeHide s h := ⟨jb_takeHide s h.1, ds_takeHide s h.2⟩
  setPhase s ph hp h := ⟨jb_setPhase s ph hp h.1, ds_setPhase s ph h.2⟩
  handFresh s slot f h := ⟨jb_handFresh s slot f h.1, ds_handFresh s slot f h.2⟩
  unitPush s h := ⟨jb_unitPush s h.1, ds_unitPush s h.2⟩
  stepEnd s h := ⟨jb_stepEnd s h.1, ds_stepEnd s h.1 h.2⟩
  passEnd s h := ⟨jb_passEnd s h.1, ds_passEnd s h.1 h.2⟩
  passAbort s h := ⟨jb_passAbort s h.1, ds_passAbort s h.2⟩
  chan s c f hf h := ⟨jb_chan' s c f hf h.1, ds_chan s c f h.2⟩
  ticketSend s c h := ⟨jb_ticketSend s c h.1, ds_ticketSend s c h.1 h.2⟩
  ticketRefused s c n r h := ⟨jb_ticketRefused s c n r h.1, ds_ticketRefused s c n r h.1 h.2⟩
  finishedTicket s c n o r h := ⟨jb_finished s c n o r h.1, ds_finished s c n o r h.1 h.2⟩
  stillOut s c n h := ⟨jb_stillOut s c n h.1, ds_stillOut s c n h.2⟩
  unknownTicket s c n h := ⟨jb_unknown s c n h.1, ds_unknown s c n h.2⟩
  abortEnd s c ha h := ⟨coarse_jb.abortEnd s c ha h.1, ds_endAbort s c h.2⟩
  evaluate s h := ⟨jb_evaluate s h.1, ds_evaluate s h.2⟩

/-- Settles O59: every command keeps the draws, from the sound book, the sorted hide table and the joined records. -/
theorem stepsKeepTheReserves : Obligations.StepsKeepTheReserves := by
  unfold Obligations.StepsKeepTheReserves
  intro s t hbook hcanon hjoined hdrawn he
  have hlines : s.linesSound = true := (Bool.and_eq_true_iff.1 hbook).1
  obtain ⟨-, -, -, -, hsorted, -⟩ := (canonical_iff s).1 (Bool.and_eq_true_iff.1 hcanon).1
  obtain ⟨-, hds⟩ := coarse_reserved.step_keeps s t ⟨(joined_iff s).1 hjoined, hlines, hsorted, hdrawn⟩ he
  exact hds.drawn

/-! ### The settings -/

/-- The settings are sound where the Profile Store is as it was. -/
theorem stable_settings : Stable fun s => s.settingsSound = true where
  tape _ _ h := h
  links _ _ h := h
  sent _ _ h := h
  pending _ _ h := h
  attn _ _ _ h := h
  throttle _ _ h := h
  corrected _ _ h := h
  contents _ _ _ h := h
  covers _ _ _ h := h
  note _ _ _ _ h := settingsSound_same (by simp) h
  strikeOne _ _ _ h := settingsSound_same (by simp) h
  marker _ _ _ _ h := settingsSound_same (by simp) h
  engine _ _ h := h
  released _ _ h := h
  takeFrame _ _ _ h := settingsSound_same (by simp) h
  freeSlot _ _ h := settingsSound_same (by simp) h
  hide _ _ _ _ h := settingsSound_same (by simp) h
  reserve _ _ _ he h := settingsSound_same (claimReserve_profile he) h
  resolve _ _ h := settingsSound_same (by simp) h
  claimReturn _ _ h := settingsSound_same (by simp) h
  leave _ _ h := h
  chan _ _ _ _ h := settingsSound_same (by simp) h

/-- The arbiter's work leaves the settings alone. -/
theorem evaluated_settings : Evaluated (fun s => s.settingsSound = true) fun s => s.settingsSound = true where
  strong := stable_settings
  loose := stable_settings
  weaken _ h := h
  anyChan _ _ _ h := settingsSound_same (by simp) h
  anyRelease _ _ _ _ h := settingsSound_same (by simp) h
  join _ _ h := h
  evaluate _ h := settingsSound_same (by simp) h

/-- Sound settings put in force. -/
theorem settingsSound_putInForce {g : Settings} {s : State} (hg : g.sound = true) (h : s.settingsSound = true) :
    (putInForce g s).settingsSound = true := by
  obtain ⟨-, himage, hbusy⟩ := (settingsSound_iff s).1 h
  rw [settingsSound_iff, putInForce_profile]
  exact ⟨hg, himage, hbusy⟩

/-- SET puts settings in force that lie in their ranges and keep the two orders. -/
theorem settingsSound_setBody (code v : Nat) (s : State) (h : s.settingsSound = true) :
    (setBody code v s).1.settingsSound = true := by
  obtain ⟨hforce, -, -⟩ := (settingsSound_iff s).1 h
  unfold setBody
  split
  · split
    · exact h
    · next g hw =>
      split
      · next ho => exact settingsSound_putInForce (sound_with hforce hw ho) h
      · exact h
  · exact h

/-- SAVE takes the settings in force. -/
theorem settingsSound_saving {s : State} (h : s.settingsSound = true) :
    (setBusy (.saving s.settings) s).settingsSound = true := by
  obtain ⟨hforce, himage, -⟩ := (settingsSound_iff s).1 h
  refine (settingsSound_iff _).2 ⟨hforce, himage, fun g hg => ?_⟩
  obtain rfl : s.settings = g := by simpa [setBusy] using hg
  exact hforce

/-- A store that writes nothing holds no settings of a SAVE. -/
theorem settingsSound_setBusy {s : State} {b : Busy} (hb : ∀ g, b ≠ .saving g) (h : s.settingsSound = true) :
    (setBusy b s).settingsSound = true := by
  obtain ⟨hforce, himage, -⟩ := (settingsSound_iff s).1 h
  exact (settingsSound_iff _).2 ⟨hforce, himage, fun g hg => absurd hg (hb g)⟩

/-- A profile write ends with the settings taken at the SAVE in the image, or with none. -/
theorem settingsSound_saveCompletion (s : State) (b : Bool) (h : s.settingsSound = true) :
    (saveCompletion b s).settingsSound = true := by
  obtain ⟨hforce, -, hbusy⟩ := (settingsSound_iff s).1 h
  unfold saveCompletion
  split
  · next g hg =>
    split
    · refine (settingsSound_same (by simp) ((settingsSound_iff { s with
        profile := { s.profile with image := .good g, busy := .idle } }).2 ⟨hforce, fun k hk => ?_, by simp⟩))
      obtain rfl : g = k := by simpa using hk
      exact hbusy g hg
    · exact settingsSound_same (by simp) ((settingsSound_iff { s with
        profile := { s.profile with image := .bad, busy := .idle } }).2 ⟨hforce, by simp, by simp⟩)
  · exact h

/-- A profile read puts the settings of a good image in force. -/
theorem settingsSound_loadCompletion (s : State) (h : s.settingsSound = true) :
    (loadCompletion s).settingsSound = true := by
  obtain ⟨-, himage, -⟩ := (settingsSound_iff s).1 h
  have hidle : ∀ g, Busy.idle ≠ .saving g := by simp
  obtain ⟨g, hg, e⟩ | e | e := loadCompletion_cases s
  · rw [e]
    exact settingsSound_setBusy hidle (settingsSound_same (by simp) (settingsSound_putInForce (himage g hg) h))
  · rw [e]
    exact settingsSound_setBusy hidle (settingsSound_same (by simp) h)
  · rw [e]
    exact h

/-- A start puts the settings of a good image in force, or the fixed defaults. -/
theorem settingsSound_start (s : State) (h : s.settingsSound = true) : (start s).settingsSound = true := by
  obtain ⟨-, himage, -⟩ := (settingsSound_iff s).1 h
  have hstart : ∀ g, startImage s.profile = .good g → g.sound = true := by
    unfold startImage
    split
    · simp
    · exact himage
  refine (settingsSound_iff _).2 ⟨?_, hstart, fun g hg => by cases hg⟩
  show (startSettings (startImage s.profile)).sound = true
  cases hi : startImage s.profile with
  | good g => exact hstart g hi
  | bad => exact fixed_sound

/-- The settings stay sound through every command. -/
theorem kept_settings : Kept (fun s => s.settingsSound = true) fun s => s.settingsSound = true where
  toEvaluated := evaluated_settings
  lineAdd _ _ _ _ _ _ h := settingsSound_same (by simp) h
  pairAdd _ _ _ _ _ _ _ _ h := settingsSound_same (by simp) h
  lineResize _ _ _ h := settingsSound_same (by simp) h
  lineCancel _ _ h := settingsSound_same (by simp) h
  lineRemove _ _ h := settingsSound_same (by simp) h
  clearNotices s ids h := settingsSound_same (by rw [clearNotices_eq]) h
  pieceDefine _ _ _ _ _ _ h := settingsSound_same (by simp) h
  variantDefine _ _ _ _ _ h := settingsSound_same (by simp) h
  variantRows _ _ _ _ _ _ h := settingsSound_same (by simp) h
  pieceReady _ _ h := settingsSound_same (by simp) h
  pieceErase _ _ h := settingsSound_same (by simp) h
  bankMode _ _ _ h := settingsSound_same (by simp) h
  hideOpen _ _ _ _ _ h := settingsSound_same (by simp) h
  thickness _ _ _ h := settingsSound_same (by simp) h
  hold _ h := h
  run _ h := settingsSound_same (by simp) h
  set s code v h := settingsSound_setBody code v s h
  save _ h := kept_checked (P := fun s => s.settingsSound = true) h (settingsSound_saving h)
  load _ h := kept_checked (P := fun s => s.settingsSound = true) h (settingsSound_setBusy (by simp) h)
  defaults _ h := settingsSound_putInForce fixed_sound h
  sendAttention _ h := h
  start := settingsSound_start
  saveCompletion := settingsSound_saveCompletion
  loadCompletion := settingsSound_loadCompletion

/-- Settles O55: every command keeps the settings sound, in force, in the image and in a save. -/
theorem stepsKeepTheSettingsSound : Obligations.StepsKeepTheSettingsSound := by
  unfold Obligations.StepsKeepTheSettingsSound
  exact kept_settings.step_keeps

/-! ### The arbiter -/

/-- The settings are sound and no waiting hide is grantable in RUN. -/
def Quiet (s : State) : Prop := s.settingsSound = true ∧ s.arbiterSound = true

/-- What an evaluation starts from: sound settings and a ratio counter that has not passed 8. -/
def Ratioed (s : State) : Prop := s.settingsSound = true ∧ s.arbiter.ratio ≤ 8

theorem ratioed_of_quiet {s : State} (h : Quiet s) : Ratioed s := by
  obtain ⟨hset, harb⟩ := h
  exact ⟨hset, ((arbiterSound_iff s).1 harb).1⟩

/-- A slot that is freed has no release any more. -/
theorem releaseOf_freeSlot (s : State) (slot k : Nat) :
    (s.freeSlot slot).releaseOf k = s.releaseOf k ∨ (s.freeSlot slot).releaseOf k = none := by
  cases hg : s.hide slot with
  | none => left; rw [State.freeSlot, hg]
  | some g =>
    obtain ⟨hhide, -⟩ := freeSlot_same hg
    simp only [State.releaseOf, hhide]
    split <;> simp

/-- RUSH_RATIO lies in its range. -/
theorem rushRatio_le {s : State} (h : s.settingsSound = true) : s.settings.rushRatio ≤ 8 := by
  obtain ⟨hforce, -, -⟩ := (settingsSound_iff s).1 h
  simp only [Settings.sound, between, Bool.and_eq_true, decide_eq_true_eq] at hforce
  exact hforce.1.1.1.1.1.1.1.1.2.2

/-- The writes of a slot's hide and of the channels that take nothing into the arbiter's view. -/
theorem quiet_mono {s t : State} (hset : t.settingsSound = true) (harb : t.arbiter = s.arbiter)
    (hidle : ∀ c, (t.chan c).state = .idle → (s.chan c).state = .idle)
    (hrel : ∀ k, t.releaseOf k = s.releaseOf k ∨ t.releaseOf k = none) (h : Quiet s) : Quiet t :=
  ⟨hset, arbiterSound_mono (by rw [harb]) (by rw [harb]) (fun k hk => by rwa [harb] at hk) hidle hrel h.2⟩

/-- Writes of other blocks. -/
theorem quiet_same {s t : State} (hset : t.settingsSound = true) (harb : t.arbiter = s.arbiter)
    (hchans : t.chans = s.chans) (hhides : t.hides = s.hides) (h : Quiet s) : Quiet t :=
  ⟨hset, arbiterSound_same harb hchans hhides h.2⟩

/-- A write of a hide that leaves its release. -/
theorem quiet_modHide {s : State} {slot : Nat} {f : Hide → Hide} (hf : ∀ g, s.hide slot = some g → (f g).release = g.release)
    (h : Quiet s) : Quiet (s.modHide slot f) :=
  quiet_mono (settingsSound_same (by simp) h.1) (by simp) (fun c hc => by simpa [State.chan] using hc)
    (fun k => .inl (releaseOf_modHide s slot f hf k)) h

/-- No small write makes a waiting hide grantable. -/
theorem stable_quiet : Stable Quiet where
  tape _ _ h := h
  links _ _ h := h
  sent _ _ h := h
  pending _ _ h := h
  attn _ _ _ h := h
  throttle _ _ h := h
  corrected _ _ h := h
  contents _ _ _ h := h
  covers _ _ _ h := h
  note _ _ _ hf h := quiet_modHide (fun g _ => (hf g).2.2.2.2.1) h
  strikeOne := strikeOne_of (fun _ _ _ h => h) (fun _ _ _ h => h)
    (fun _ _ _ hf h => quiet_modHide (fun g _ => (hf g).2.2) h)
    (fun _ _ h => quiet_same (settingsSound_same (by simp) h.1) (by simp) (by simp) (by simp) h)
  marker _ _ _ _ h := quiet_modHide (fun _ _ => rfl) h
  engine _ _ h := h
  released _ _ h := h
  takeFrame s slot tile h := by
    unfold State.takeFrame
    split
    · exact h
    · exact quiet_modHide (f := fun g => { g with frames := Tab.put g.frames tile _ }) (fun _ _ => rfl) h
  freeSlot s slot h := quiet_mono (settingsSound_same (by simp) h.1) (by simp)
    (fun c hc => by simpa [State.chan] using hc) (releaseOf_freeSlot s slot) h
  hide _ _ _ hf h := quiet_modHide (fun g _ => (hf g).2.2) h
  reserve _ _ _ he h := by
    obtain ⟨h1, h2, h3, -⟩ := reserve_same he
    exact quiet_same (settingsSound_same (claimReserve_profile he) h.1) h2 h3 h1 h
  resolve _ _ h := quiet_same (settingsSound_same (by simp) h.1) (by simp) (by simp) (by simp) h
  claimReturn _ _ h := quiet_same (settingsSound_same (by simp) h.1) (by simp) (by simp) (by simp) h
  leave s slot h := ⟨h.1, arbiterSound_mono (s := s) rfl rfl (fun k hk => (List.mem_filter.1 hk).1) (fun _ hc => hc)
    (fun _ => .inl rfl) h.2⟩
  chan s c f hf h := quiet_mono (s := s) (settingsSound_same (by simp) h.1) (by simp)
    (fun d hd => by
      rw [chan_modChan] at hd
      split at hd
      · exact hf _ hd
      · exact hd) (fun _ => .inl rfl) h

/-- The ratio counter is the arbiter's own. -/
theorem ratioed_same {s t : State} (hset : t.settingsSound = true) (harb : t.arbiter.ratio = s.arbiter.ratio)
    (h : Ratioed s) : Ratioed t := ⟨hset, by rw [harb]; exact h.2⟩

theorem stable_ratioed : Stable Ratioed where
  tape _ _ h := h
  links _ _ h := h
  sent _ _ h := h
  pending _ _ h := h
  attn _ _ _ h := h
  throttle _ _ h := h
  corrected _ _ h := h
  contents _ _ _ h := h
  covers _ _ _ h := h
  note _ _ _ _ h := ratioed_same (settingsSound_same (by simp) h.1) (by simp) h
  strikeOne _ _ _ h := ratioed_same (settingsSound_same (by simp) h.1) (by simp) h
  marker _ _ _ _ h := ratioed_same (settingsSound_same (by simp) h.1) (by simp) h
  engine _ _ h := h
  released _ _ h := h
  takeFrame _ _ _ h := ratioed_same (settingsSound_same (by simp) h.1) (by simp) h
  freeSlot _ _ h := ratioed_same (settingsSound_same (by simp) h.1) (by simp) h
  hide _ _ _ _ h := ratioed_same (settingsSound_same (by simp) h.1) (by simp) h
  reserve _ _ _ he h := by
    obtain ⟨-, h2, -, -⟩ := reserve_same he
    exact ratioed_same (settingsSound_same (claimReserve_profile he) h.1) (by rw [h2]) h
  resolve _ _ h := ratioed_same (settingsSound_same (by simp) h.1) (by simp) h
  claimReturn _ _ h := ratioed_same (settingsSound_same (by simp) h.1) (by simp) h
  leave _ _ h := h
  chan _ _ _ _ h := ratioed_same (settingsSound_same (by simp) h.1) (by simp) h

/-- A grant counts the ratio at most up to RUSH_RATIO. -/
theorem ratioed_grant {s t : State} (h : Ratioed s) (hg : s.nextGrant = some t) : Ratioed t := by
  obtain ⟨hset, hratio⟩ := h
  obtain ⟨-, slot, c, n, -, -, rfl, hn⟩ := nextGrant_facts hg
  refine ⟨settingsSound_same (by simp) hset, ?_⟩
  have := rushRatio_le hset
  rw [grant_arbiter]
  dsimp only
  omega

/-- An evaluation grants until nothing is grantable. -/
theorem quiet_evaluate {s : State} (h : Ratioed s) : Quiet s.evaluate := by
  obtain ⟨hset, hratio⟩ := evaluate_keeps (P := Ratioed) (fun _ _ => ratioed_grant) s h
  refine ⟨hset, (arbiterSound_iff _).2 ⟨hratio, ?_⟩⟩
  rw [evaluate_state]
  cases hs : s.arbiter.state with
  | hold => exact .inl rfl
  | run => exact .inr (evaluate_quiet s hs)

theorem evaluated_quiet : Evaluated Quiet Ratioed where
  strong := stable_quiet
  loose := stable_ratioed
  weaken _ := ratioed_of_quiet
  anyChan _ _ _ h := ratioed_same (settingsSound_same (by simp) h.1) (by simp) h
  anyRelease _ _ _ _ h := ratioed_same (settingsSound_same (by simp) h.1) (by simp) h
  join _ _ h := h
  evaluate _ := quiet_evaluate

/-- Settings put in force where the arbiter's own have changed are followed by an evaluation. -/
theorem quiet_putInForce {g : Settings} {s : State} (hg : g.sound = true) (h : Quiet s) : Quiet (putInForce g s) := by
  refine ⟨settingsSound_putInForce hg h.1, ?_⟩
  have hput : Quiet { s with profile := { s.profile with settings := g } } := by
    obtain ⟨-, himage, hbusy⟩ := (settingsSound_iff s).1 h.1
    exact ⟨(settingsSound_iff _).2 ⟨hg, himage, hbusy⟩, h.2⟩
  have hmarked := stable_quiet.markEval _ hput
  unfold putInForce
  dsimp only
  split
  · split
    · exact (quiet_evaluate (ratioed_of_quiet hmarked)).2
    · exact (quiet_evaluate (ratioed_of_quiet hput)).2
  · split
    · exact hmarked.2
    · exact h.2

/-- SET puts sound settings in force. -/
theorem quiet_setBody (code v : Nat) (s : State) (h : Quiet s) : Quiet (setBody code v s).1 := by
  obtain ⟨hforce, -, -⟩ := (settingsSound_iff s).1 h.1
  unfold setBody
  split
  · split
    · exact h
    · next g hw =>
      split
      · next ho => exact quiet_putInForce (sound_with hforce hw ho) h
      · exact h
  · exact h

/-- The completion of a LOAD puts sound settings in force, or changes no hide and no channel. -/
theorem quiet_loadCompletion (s : State) (h : Quiet s) : Quiet (loadCompletion s) := by
  refine ⟨kept_settings.loadCompletion s h.1, ?_⟩
  obtain ⟨-, himage, -⟩ := (settingsSound_iff s).1 h.1
  obtain ⟨g, hg, e⟩ | e | e := loadCompletion_cases s
  · rw [e]
    exact arbiterSound_same (by simp) (by simp) (by simp) (quiet_putInForce (himage g hg) h).2
  · rw [e]
    exact arbiterSound_same (by simp) (by simp) (by simp) h.2
  · rw [e]
    exact h.2

/-- A hide that is opened has no release. -/
theorem quiet_hideOpenBody (tag width height backbone : Nat) (s : State) (h : Quiet s) :
    Quiet (hideOpenBody tag width height backbone s).1 := by
  unfold hideOpenBody
  refine kept_checked h ?_
  split
  · exact h
  · next slot hslot =>
    refine quiet_mono (settingsSound_same (by simp) h.1) (by simp) (fun c hc => by simpa [State.chan] using hc)
      (fun k => ?_) h
    by_cases hk : k = slot
    · subst hk; right; simp [State.releaseOf, newHide]
    · left; simp [State.releaseOf, hide_putHide_other _ _ hk]

/-- HOLD makes no grant. -/
theorem quiet_holdBody (s : State) (h : Quiet s) : Quiet (holdBody s).1 :=
  ⟨h.1, (arbiterSound_iff _).2 ⟨((arbiterSound_iff s).1 h.2).1, .inl rfl⟩⟩

/-- A write of a hide record that leaves its release. -/
theorem quiet_thicknessBody (slot : Nat) (entries : List Reading) (s : State) (h : Quiet s) :
    Quiet (thicknessBody slot entries s).1 := by
  unfold thicknessBody
  refine kept_onHide h fun g hg => kept_checked h ?_
  dsimp only
  rw [← modHide_some (fun k => entries.foldl takeReading k) hg]
  exact quiet_modHide (fun k hk => foldl_keeps takeReading Hide.release (fun _ _ => rfl) _ _) h

/-- No command taken in RUN leaves a waiting hide grantable. -/
theorem kept_quiet : Kept Quiet Ratioed where
  toEvaluated := evaluated_quiet
  lineAdd _ _ _ _ _ _ h := kept_checked h h
  pairAdd _ _ _ _ _ _ _ _ h := kept_checked h h
  lineResize _ _ _ h := quiet_same (settingsSound_same (by simp) h.1) (by simp) (by simp) (by simp) h
  lineCancel _ _ h := quiet_same (settingsSound_same (by simp) h.1) (by simp) (by simp) (by simp) h
  lineRemove _ _ h := quiet_same (settingsSound_same (by simp) h.1) (by simp) (by simp) (by simp) h
  clearNotices s ids h := by rw [clearNotices_eq]; exact h
  pieceDefine _ _ _ _ _ _ h := quiet_same (settingsSound_same (by simp) h.1) (by simp) (by simp) (by simp) h
  variantDefine _ _ _ _ _ h := quiet_same (settingsSound_same (by simp) h.1) (by simp) (by simp) (by simp) h
  variantRows _ _ _ _ _ _ h := quiet_same (settingsSound_same (by simp) h.1) (by simp) (by simp) (by simp) h
  pieceReady _ _ h := quiet_same (settingsSound_same (by simp) h.1) (by simp) (by simp) (by simp) h
  pieceErase _ _ h := quiet_same (settingsSound_same (by simp) h.1) (by simp) (by simp) (by simp) h
  bankMode _ _ _ h := quiet_same (settingsSound_same (by simp) h.1) (by simp) (by simp) (by simp) h
  hideOpen s a b c d h := quiet_hideOpenBody a b c d s h
  thickness s a b h := quiet_thicknessBody a b s h
  hold := quiet_holdBody
  run _ h := quiet_evaluate (ratioed_of_quiet h : Ratioed _)
  set s code v h := quiet_setBody code v s h
  save s h := ⟨kept_settings.save s h.1, by
    exact arbiterSound_same (by simp) (by simp) (by simp) h.2⟩
  load s h := ⟨kept_settings.load s h.1, by
    exact arbiterSound_same (by simp) (by simp) (by simp) h.2⟩
  defaults _ h := quiet_putInForce fixed_sound h
  sendAttention _ h := h
  start s h := ⟨kept_settings.start s h.1, rfl⟩
  saveCompletion s b h := ⟨kept_settings.saveCompletion s b h.1,
    arbiterSound_same (by simp) (by simp) (by simp) h.2⟩
  loadCompletion := quiet_loadCompletion

/-- Settles O57: a command that can make a hide grantable evaluates, and an evaluation in RUN leaves none. -/
theorem stepsLeaveNothingGrantable : Obligations.StepsLeaveNothingGrantable := by
  unfold Obligations.StepsLeaveNothingGrantable
  intro s t hset harb he
  exact (kept_quiet.step_keeps s t ⟨hset, harb⟩ he).2

/-! ### The memories and the tables -/

/-- The two halves of the canonical form. -/
theorem canonical_halves (s : State) : s.canonical = true ↔ s.tablesCanonical = true ∧ s.framesSound = true :=
  Bool.and_eq_true_iff

/-- The hide table of a canonical state stands by rising slot. -/
theorem canonical_sorted {s : State} (h : s.canonical = true) : Tab.sorted s.hides.slots = true := by
  obtain ⟨-, -, -, -, hsorted, -⟩ := (canonical_iff s).1 ((canonical_halves s).1 h).1
  exact hsorted

/-- Writes of other blocks, and of the throttle and the corrected count. -/
theorem canonical_of {s t : State} (hcont : t.grid.contents = s.grid.contents) (hcov : t.grid.covers = s.grid.covers)
    (hret : t.grid.retired = s.grid.retired) (hlib : t.library.pieces = s.library.pieces)
    (hhides : t.hides.slots = s.hides.slots) (h : s.canonical = true) : t.canonical = true := by
  obtain ⟨htab, hfr⟩ := (canonical_halves s).1 h
  have hiff := (canonical_iff s).1 htab
  rw [← hcont, ← hcov, ← hlib, ← hhides] at hiff
  exact (canonical_halves t).2 ⟨(canonical_iff t).2 hiff,
    framesSound_same (fun a => by rw [State.ownedFrames, hhides, State.ownedFrames]) hret hfr⟩

/-- A content byte and a cover byte written. -/
theorem canonical_writeContent (s : State) (a : Nat) (b : Byte) (h : s.canonical = true) :
    State.canonical { s with grid := { s.grid with contents := Mem.write outsideCode s.grid.contents a b } } = true := by
  obtain ⟨htab, hframes⟩ := (canonical_halves s).1 h
  obtain ⟨h1, h2⟩ := (canonical_iff s).1 htab
  exact (canonical_halves _).2 ⟨(canonical_iff _).2 ⟨wf_write a b h1, h2⟩, hframes⟩

theorem canonical_writeCover (s : State) (a : Nat) (b : Byte) (h : s.canonical = true) :
    State.canonical { s with grid := { s.grid with covers := Mem.write noCover s.grid.covers a b } } = true := by
  obtain ⟨htab, hframes⟩ := (canonical_halves s).1 h
  obtain ⟨h1, h2, h3⟩ := (canonical_iff s).1 htab
  exact (canonical_halves _).2 ⟨(canonical_iff _).2 ⟨h1, wf_write a b h2, h3⟩, hframes⟩

/-- A hide's record changed, but for its tile table, where its thickness entries stay sorted. -/
theorem canonical_hideWrite {s : State} {slot : Nat} {f : Hide → Hide} (hframes : ∀ g, (f g).frames = g.frames)
    (hthick : ∀ g, Tab.sorted g.thick = true → Tab.sorted (f g).thick = true) (h : s.canonical = true) :
    (s.modHide slot f).canonical = true := by
  obtain ⟨htab, hfr⟩ := (canonical_halves s).1 h
  refine (canonical_halves _).2 ⟨canonical_modHide (fun k hk => ?_) htab,
    framesSound_modHide (canonical_sorted h) (fun g _ => hframes g) hfr⟩
  obtain ⟨h1, h2⟩ := Bool.and_eq_true_iff.1 hk
  exact Bool.and_eq_true_iff.2 ⟨by rw [hframes]; exact h1, hthick k h2⟩

theorem canonical_hideNote {s : State} {slot : Nat} {f : Hide → Hide}
    (hf : ∀ g, (f g).frames = g.frames ∧ (f g).thick = g.thick) (h : s.canonical = true) :
    (s.modHide slot f).canonical = true :=
  canonical_hideWrite (fun g => (hf g).1) (fun g hg => by rw [(hf g).2]; exact hg) h

/-- The throttle's evaluation leaves the memories alone. -/
theorem releaseEval_memories (s : State) :
    s.releaseEval.grid.contents = s.grid.contents ∧ s.releaseEval.grid.covers = s.grid.covers := by
  unfold State.releaseEval
  split
  · rw [toNormal_eq]; exact ⟨rfl, rfl⟩
  · exact ⟨rfl, rfl⟩

/-- A slot freed, its frames given back or retired. -/
theorem canonical_freeSlot (s : State) (slot : Nat) (h : s.canonical = true) : (s.freeSlot slot).canonical = true := by
  obtain ⟨htab, hfr⟩ := (canonical_halves s).1 h
  refine (canonical_halves _).2 ⟨?_, framesSound_freeSlot (canonical_sorted h) hfr⟩
  cases hg : s.hide slot with
  | none => rw [State.freeSlot, hg]; exact htab
  | some g =>
    obtain ⟨h1, h2, h3, h4, h5, h6⟩ := (canonical_iff s).1 htab
    refine (canonical_iff _).2 ⟨?_, ?_, by simpa using h3, by simpa using h4, ?_, ?_⟩ <;> rw [freeSlot_eq hg]
    · rw [(releaseEval_memories _).1]; exact h1
    · rw [(releaseEval_memories _).2]; exact h2
    · rw [(releaseEval_same _).1]; exact sorted_del slot h5
    · rw [(releaseEval_same _).1]; exact all_del h6

/-- Every small write keeps the canonical form. -/
theorem stable_canonical : Stable fun s => s.canonical = true where
  tape _ _ h := h
  links _ _ h := h
  sent _ _ h := h
  pending _ _ h := h
  attn _ _ _ h := h
  throttle _ _ h := h
  corrected _ _ h := h
  contents := canonical_writeContent
  covers := canonical_writeCover
  note _ _ _ hf h := canonical_hideNote (fun g => ⟨(hf g).2.1, (hf g).2.2.1⟩) h
  strikeOne := strikeOne_of (fun _ _ _ h => h) canonical_writeCover
    (fun _ _ _ hf h => canonical_hideNote (fun g => ⟨(hf g).1, (hf g).2.1⟩) h)
    (fun _ _ h => canonical_of (by simp) (by simp) (by simp) (by simp) (by simp) h)
  marker _ _ _ _ h := canonical_hideNote (fun _ => ⟨rfl, rfl⟩) h
  engine _ _ h := h
  released _ _ h := h
  takeFrame s slot tile h := canonical_takeFrame slot tile h
  freeSlot := canonical_freeSlot
  hide _ _ _ hf h := canonical_hideNote (fun g => ⟨(hf g).1, (hf g).2.1⟩) h
  reserve s t id he h := by
    obtain ⟨l, -, -, -, rfl⟩ := claimReserve_some he
    exact h
  resolve _ _ h := canonical_of (by simp) (by simp) (by simp) (by simp) (by simp) h
  claimReturn _ _ h := canonical_of (by simp) (by simp) (by simp) (by simp) (by simp) h
  leave _ _ h := h
  chan _ _ _ _ h := h

/-- A grant names a channel in the hide's record. -/
theorem canonical_evaluate (s : State) (h : s.canonical = true) : s.evaluate.canonical = true := by
  refine evaluate_keeps (P := fun s => s.canonical = true) (fun s t h hg => ?_) s h
  obtain ⟨-, slot, c, n, -, -, rfl, -⟩ := nextGrant_facts hg
  refine canonical_of (by simp) (by simp) (by simp) (by simp) (by rw [grant_hides]) (canonical_hideNote
    (slot := slot) (f := fun g => { g with state := .cutting, channel := some c }) (fun _ => ⟨rfl, rfl⟩) h)

theorem evaluated_canonical : Evaluated (fun s => s.canonical = true) fun s => s.canonical = true where
  strong := stable_canonical
  loose := stable_canonical
  weaken _ h := h
  anyChan _ _ _ h := h
  anyRelease _ _ _ hf h := canonical_hideNote hf h
  join _ _ h := h
  evaluate := canonical_evaluate

theorem canonical_putInForce (g : Settings) (s : State) (h : s.canonical = true) : (putInForce g s).canonical = true := by
  have hput : State.canonical { s with profile := { s.profile with settings := g } } = true := h
  have hmarked := stable_canonical.markEval _ hput
  unfold putInForce
  dsimp only
  split
  · split
    · exact canonical_evaluate _ hmarked
    · exact canonical_evaluate _ hput
  · split
    · exact hmarked
    · exact hput

theorem canonical_setBody (code v : Nat) (s : State) (h : s.canonical = true) : (setBody code v s).1.canonical = true := by
  unfold setBody
  split
  · split
    · exact h
    · split
      · exact canonical_putInForce _ _ h
      · exact h
  · exact h

/-- A piece written whose variants are in canonical form. -/
theorem canonical_pieceWrite {s : State} {slot : Nat} {p : Piece} (hp : p.canonical = true) (h : s.canonical = true) :
    (s.putPiece slot p).canonical = true := by
  obtain ⟨htab, hfr⟩ := (canonical_halves s).1 h
  exact (canonical_halves _).2 ⟨canonical_putPiece htab hp, hfr⟩

theorem canonical_dropPiece (s : State) (slot : Nat) (h : s.canonical = true) : (s.dropPiece slot).canonical = true := by
  obtain ⟨htab, hfr⟩ := (canonical_halves s).1 h
  obtain ⟨h1, h2, h3, h4, h5⟩ := (canonical_iff s).1 htab
  exact (canonical_halves _).2 ⟨(canonical_iff _).2 ⟨h1, h2, sorted_del slot h3, all_del h4, h5⟩, hfr⟩

/-- A piece of a canonical state. -/
theorem piece_of_canonical {s : State} {slot : Nat} {p : Piece} (hp : s.piece slot = some p) (h : s.canonical = true) :
    p.canonical = true := piece_canonical ((canonical_halves s).1 h).1 hp

theorem piece_canonical_iff (p : Piece) :
    p.canonical = true ↔ Tab.sorted p.variants = true ∧ ∀ e ∈ p.variants, Mem.wf noZone e.2.raster = true := by
  simp [Piece.canonical]

/-- A variant written into a piece. -/
theorem piece_canonical_put {p : Piece} {o : Nat} {v : Variant} (hv : Mem.wf noZone v.raster = true)
    (h : p.canonical = true) : Piece.canonical { p with variants := Tab.put p.variants o v } = true := by
  obtain ⟨h1, h2⟩ := (piece_canonical_iff p).1 h
  exact (piece_canonical_iff _).2 ⟨sorted_put o v h1, all_put h2 hv⟩

/-- The raster of a variant found in a canonical state. -/
theorem wf_of_variantOf {s : State} {slot o : Nat} {p : Piece} {v : Variant} (hv : s.variantOf slot o = some (p, v))
    (h : s.canonical = true) : s.piece slot = some p ∧ Mem.wf noZone v.raster = true := by
  unfold State.variantOf at hv
  split at hv
  · cases hv
  · next q hq =>
    obtain ⟨w, hw, hpair⟩ := Option.map_eq_some_iff.1 hv
    obtain ⟨rfl, rfl⟩ := Prod.mk.inj hpair
    exact ⟨hq, ((piece_canonical_iff q).1 (piece_of_canonical hq h)).2 _ (mem_of_get hw)⟩

/-- The zone classes of a row written. -/
theorem wf_writeZones (v : Variant) (row : Nat) (cells : List (Nat × Nat)) (h : Mem.wf noZone v.raster = true) :
    Mem.wf noZone (writeZones v row cells).raster = true :=
  foldl_inv _ (fun m => Mem.wf noZone m = true) (fun _ _ hm => wf_write _ _ hm) cells v.raster h

theorem canonical_variantDefineBody (slot o w g : Nat) (s : State) (h : s.canonical = true) :
    (variantDefineBody slot o w g s).1.canonical = true := by
  unfold variantDefineBody
  refine kept_checked (P := fun s => s.canonical = true) h ?_
  split
  · exact h
  · next p hp => exact canonical_pieceWrite (piece_canonical_put rfl (piece_of_canonical hp h)) h

theorem canonical_variantRowsBody (slot o row start : Nat) (runs : List Run) (s : State) (h : s.canonical = true) :
    (variantRowsBody slot o row start runs s).1.canonical = true := by
  unfold variantRowsBody
  refine kept_checked (P := fun s => s.canonical = true) h ?_
  split
  · exact h
  · next p v hv =>
    obtain ⟨hp, hraster⟩ := wf_of_variantOf hv h
    exact canonical_pieceWrite (piece_canonical_put (wf_writeZones v row _ hraster) (piece_of_canonical hp h)) h

theorem canonical_pieceReadyBody (slot : Nat) (s : State) (h : s.canonical = true) :
    (pieceReadyBody slot s).1.canonical = true := by
  unfold pieceReadyBody
  refine kept_checked (P := fun s => s.canonical = true) h ?_
  split
  · exact h
  · next p hp =>
    exact kept_checked (P := fun s => s.canonical = true) h
      (canonical_pieceWrite (show p.canonical = true from piece_of_canonical hp h) h)

/-- A hide without a frame put into a slot brings no frame into the pool's tables. -/
theorem owned_put_empty (t : Tab Hide) (slot : Nat) {k : Hide} (hk : k.frames = []) :
    ((Tab.put t slot k).flatMap fun e => e.2.frames.map (·.2)).Sublist (t.flatMap fun e => e.2.frames.map (·.2)) := by
  induction t with
  | nil => simp [Tab.put, hk]
  | cons e t ih =>
    obtain ⟨j, g⟩ := e
    simp only [Tab.put]
    split
    · simp [hk]
    · split
      · simp [hk]
      · simpa using ih

/-- A hide that is opened has no tiles and no entries. -/
theorem canonical_hideOpenBody (tag width height backbone : Nat) (s : State) (h : s.canonical = true) :
    (hideOpenBody tag width height backbone s).1.canonical = true := by
  unfold hideOpenBody
  refine kept_checked (P := fun s => s.canonical = true) h ?_
  split
  · exact h
  · next slot _ =>
    obtain ⟨htab, hfr⟩ := (canonical_halves s).1 h
    obtain ⟨h1, h2, h3, h4, h5, h6⟩ := (canonical_iff s).1 htab
    refine (canonical_halves _).2 ⟨(canonical_iff _).2 ⟨h1, h2, h3, h4, sorted_put _ _ h5, all_put h6 rfl⟩,
      framesSound_same (s := s) (fun a => ?_) rfl hfr⟩
    exact (owned_put_empty s.hides.slots slot (k := newHide tag width height backbone) rfl).count_le a

/-- Readings taken leave the tile table and keep the entries by rising tile. -/
theorem takeReadings_keep (entries : List Reading) (g : Hide) :
    (entries.foldl takeReading g).frames = g.frames ∧
      (Tab.sorted g.thick = true → Tab.sorted (entries.foldl takeReading g).thick = true) :=
  ⟨foldl_keeps takeReading Hide.frames (fun _ _ => rfl) entries g,
    foldl_inv takeReading (fun k => Tab.sorted k.thick = true) (fun _ _ hk => sorted_put _ _ hk) entries g⟩

theorem canonical_thicknessBody (slot : Nat) (entries : List Reading) (s : State) (h : s.canonical = true) :
    (thicknessBody slot entries s).1.canonical = true := by
  unfold thicknessBody
  refine kept_onHide (P := fun s => s.canonical = true) h fun g hg => kept_checked (P := fun s => s.canonical = true) h ?_
  dsimp only
  rw [← modHide_some (fun k => entries.foldl takeReading k) hg]
  exact canonical_hideWrite (fun k => (takeReadings_keep entries k).1) (fun k => (takeReadings_keep entries k).2) h

/-- The canonical form is kept through every command. -/
theorem kept_canonical : Kept (fun s => s.canonical = true) fun s => s.canonical = true where
  toEvaluated := evaluated_canonical
  lineAdd _ _ _ _ _ _ h := canonical_of (by simp) (by simp) (by simp) (by simp) (by simp) h
  pairAdd _ _ _ _ _ _ _ _ h := canonical_of (by simp) (by simp) (by simp) (by simp) (by simp) h
  lineResize _ _ _ h := canonical_of (by simp) (by simp) (by simp) (by simp) (by simp) h
  lineCancel _ _ h := canonical_of (by simp) (by simp) (by simp) (by simp) (by simp) h
  lineRemove _ _ h := canonical_of (by simp) (by simp) (by simp) (by simp) (by simp) h
  clearNotices s ids h := by rw [clearNotices_eq]; exact h
  pieceDefine _ _ _ _ _ _ h := kept_checked (P := fun s => s.canonical = true) h (canonical_pieceWrite rfl h)
  variantDefine s a b c d h := canonical_variantDefineBody a b c d s h
  variantRows s a b c d e h := canonical_variantRowsBody a b c d e s h
  pieceReady s a h := canonical_pieceReadyBody a s h
  pieceErase s a h := kept_checked (P := fun s => s.canonical = true) h (canonical_dropPiece s a h)
  bankMode s a b h := by
    unfold bankModeBody
    split
    · split <;> exact h
    · exact h
  hideOpen s a b c d h := canonical_hideOpenBody a b c d s h
  thickness s a b h := canonical_thicknessBody a b s h
  hold _ h := h
  run _ h := canonical_evaluate _ h
  set s a b h := canonical_setBody a b s h
  save _ h := canonical_of (by simp) (by simp) (by simp) (by simp) (by simp) h
  load _ h := canonical_of (by simp) (by simp) (by simp) (by simp) (by simp) h
  defaults s h := canonical_putInForce _ s h
  sendAttention _ h := h
  start _ _ := rfl
  saveCompletion _ _ h := canonical_of (by simp) (by simp) (by simp) (by simp) (by simp) h
  loadCompletion := loadCompletion_keeps stable_canonical.toSteady (fun _ _ h => h) canonical_putInForce

/-- Settles O56: every command keeps the canonical form, by what the writes of the memories, the tables and the frame
pool keep. -/
theorem stepsKeepTheMemoriesCanonical : Obligations.StepsKeepTheMemoriesCanonical := by
  unfold Obligations.StepsKeepTheMemoriesCanonical
  exact kept_canonical.step_keeps

/-! ### The order book -/

/-- The lines stay sound through every command. -/
theorem stable_lines : Stable fun s => s.linesSound = true where
  tape _ _ h := h
  links _ _ h := h
  sent _ _ h := h
  pending _ _ h := h
  attn _ _ _ h := h
  throttle _ _ h := h
  corrected _ _ h := h
  contents _ _ _ h := h
  covers _ _ _ h := h
  note _ _ _ _ h := linesSound_same (by simp) h
  strikeOne := strikeOne_of (fun _ _ _ h => h) (fun _ _ _ h => h) (fun _ _ _ _ h => linesSound_same (by simp) h)
    lines_return
  marker _ _ _ _ h := linesSound_same (by simp) h
  engine _ _ h := h
  released _ _ h := h
  takeFrame _ _ _ h := linesSound_same (by simp) h
  freeSlot _ _ h := linesSound_same (by simp) h
  hide _ _ _ _ h := linesSound_same (by simp) h
  reserve := lines_reserve
  resolve := lines_resolve
  claimReturn := lines_return
  leave _ _ h := h
  chan _ _ _ _ h := h

theorem kept_lines : Kept (fun s => s.linesSound = true) fun s => s.linesSound = true where
  strong := stable_lines
  loose := stable_lines
  weaken _ h := h
  anyChan _ _ _ h := h
  anyRelease _ _ _ _ h := linesSound_same (by simp) h
  join _ _ h := h
  evaluate _ h := linesSound_same (by simp) h
  lineAdd := lines_lineAdd
  pairAdd := lines_pairAdd
  lineResize := lines_lineResize
  lineCancel := lines_lineCancel
  lineRemove := lines_lineRemove
  clearNotices := lines_clear
  pieceDefine _ _ _ _ _ _ h := linesSound_same (by simp) h
  variantDefine _ _ _ _ _ h := linesSound_same (by simp) h
  variantRows _ _ _ _ _ _ h := linesSound_same (by simp) h
  pieceReady _ _ h := linesSound_same (by simp) h
  pieceErase _ _ h := linesSound_same (by simp) h
  bankMode _ _ _ h := linesSound_same (by simp) h
  hideOpen _ _ _ _ _ h := linesSound_same (by simp) h
  thickness _ _ _ h := linesSound_same (by simp) h
  hold _ h := h
  run _ h := linesSound_same (by simp) h
  set _ _ _ h := linesSound_same (by simp) h
  save _ h := linesSound_same (by simp) h
  load _ h := linesSound_same (by simp) h
  defaults _ h := linesSound_same (by simp [defaultsBody]) h
  sendAttention _ h := h
  start _ _ := rfl
  saveCompletion _ _ h := linesSound_same (by simp) h
  loadCompletion _ h := linesSound_same (by simp) h

/-! ### The pieces that the lines name (R12) -/

/-- Every line in use names a slot whose piece is READY. -/
theorem slotsReady_iff (s : State) : s.slotsReady = true ↔ ∀ e ∈ s.book, s.slotReady e.2.slot = true := by
  simp [State.slotsReady]

/-- The pieces are as they were, and no line names a slot that no line named before. -/
structure SameSlots (s t : State) : Prop where
  pieces : t.library.pieces = s.library.pieces
  slots : ∀ e ∈ t.book, ∃ d ∈ s.book, d.2.slot = e.2.slot

theorem slotReady_same {s t : State} (h : t.library.pieces = s.library.pieces) (k : Nat) :
    t.slotReady k = s.slotReady k := by
  unfold State.slotReady State.piece
  rw [h]

theorem SameSlots.ready {s t : State} (k : SameSlots s t) (h : s.slotsReady = true) : t.slotsReady = true := by
  refine (slotsReady_iff t).2 fun e he => ?_
  obtain ⟨d, hd, hslot⟩ := k.slots e he
  rw [slotReady_same k.pieces, ← hslot]
  exact (slotsReady_iff s).1 h d hd

theorem SameSlots.refl (s : State) : SameSlots s s := ⟨rfl, fun e he => ⟨e, he, rfl⟩⟩

theorem SameSlots.trans {s t u : State} (h : SameSlots s t) (k : SameSlots t u) : SameSlots s u := by
  refine ⟨k.pieces.trans h.pieces, fun e he => ?_⟩
  obtain ⟨d, hd, hde⟩ := k.slots e he
  obtain ⟨c, hc, hcd⟩ := h.slots d hd
  exact ⟨c, hc, hcd.trans hde⟩

/-- Writes of other blocks. -/
theorem SameSlots.of_same {s t : State} (hbook : t.book = s.book) (hpieces : t.library.pieces = s.library.pieces) :
    SameSlots s t := ⟨hpieces, fun e he => ⟨e, by rwa [← hbook], rfl⟩⟩

/-- A line's record written that names the slot it named. -/
theorem SameSlots.putLine {s : State} {id : Nat} {l m : Line} (hl : s.line id = some l) (hm : m.slot = l.slot) :
    SameSlots s (s.putLine id m) := by
  refine ⟨rfl, fun e he => ?_⟩
  rcases mem_put he with rfl | he
  · exact ⟨(id, l), mem_of_get hl, hm.symm⟩
  · exact ⟨e, he, rfl⟩

theorem SameSlots.raiseNotice {s : State} {id : Nat} {l m : Line} (hl : s.line id = some l) (hm : m.slot = l.slot) :
    SameSlots s (s.raiseNotice id m) := by
  have hdue : SameSlots s s.frameDue := SameSlots.of_same (by simp) (by simp)
  exact hdue.trans (SameSlots.putLine (l := l) (by simpa using hl) hm)

theorem SameSlots.settleLine {s : State} {id : Nat} {l m : Line} (hl : s.line id = some l) (hm : m.slot = l.slot) :
    SameSlots s (s.settleLine id m) := by
  unfold State.settleLine
  split
  · split
    · exact SameSlots.raiseNotice hl hm
    · exact SameSlots.putLine hl hm
  · split
    · exact SameSlots.raiseNotice hl hm
    · exact SameSlots.putLine hl hm
  · exact SameSlots.putLine hl hm
  · exact SameSlots.putLine hl hm

theorem SameSlots.claimReturn (s : State) (id : Nat) : SameSlots s (s.claimReturn id) := by
  unfold State.claimReturn
  split
  · exact .refl s
  · next l hl =>
    split
    · exact .refl s
    · split
      · exact .settleLine hl rfl
      · exact .settleLine hl rfl
      · exact .refl s
      · exact .refl s

theorem SameSlots.claimResolve (s : State) (id : Nat) : SameSlots s (s.claimResolve id) := by
  unfold State.claimResolve
  split
  · exact .refl s
  · next l hl =>
    split
    · exact .refl s
    · split
      · exact .settleLine hl rfl
      · exact .settleLine hl rfl
      · exact .refl s
      · exact .refl s

theorem SameSlots.resizeLine (n id : Nat) (s : State) : SameSlots s (resizeLine n id s) := by
  unfold Machine.resizeLine
  split
  · exact .refl s
  · next l hl => exact .settleLine hl rfl

theorem SameSlots.cancelLine (id : Nat) (s : State) : SameSlots s (cancelLine id s) := by
  unfold Machine.cancelLine
  split
  · exact .refl s
  · next l hl =>
    split
    · split
      · exact .raiseNotice hl rfl
      · exact .putLine hl rfl
    · exact .refl s

theorem SameSlots.dropLine (id : Nat) (s : State) : SameSlots s (s.dropLine id) :=
  ⟨rfl, fun e he => ⟨e, mem_del he, rfl⟩⟩

theorem SameSlots.clearNotice (s : State) (id : Nat) : SameSlots s (s.clearNotice id) := by
  unfold State.clearNotice
  split
  · exact .refl s
  · next l hl => exact .putLine hl rfl

/-- The work of a request on a line and on its mirror. -/
theorem SameSlots.onPair {f : Nat → State → State} (hf : ∀ k t, SameSlots t (f k t)) (id : Nat) (l : Line) (s : State) :
    SameSlots s (s.onPair id l f) := by
  unfold State.onPair
  split
  · exact hf id s
  · exact (hf id s).trans (hf _ _)

/-- A line added names a slot whose piece is READY. -/
theorem slotsReady_putLine {s : State} {id : Nat} {l : Line} (hl : s.slotReady l.slot = true) (h : s.slotsReady = true) :
    (s.putLine id l).slotsReady = true :=
  (slotsReady_iff _).2 (all_put ((slotsReady_iff s).1 h) hl)

theorem slotsReady_lineAddBody (s : State) (id slot style size n : Nat) (h : s.slotsReady = true) :
    (lineAddBody id slot style size n s).1.slotsReady = true := by
  refine checked_all (P := fun s => s.slotsReady = true) h fun hc => ?_
  simp only [List.forall_mem_cons] at hc
  obtain ⟨-, -, -, hready, -⟩ := hc
  exact slotsReady_putLine hready h

theorem slotsReady_pairAddBody (s : State) (a b c d n e f : Nat) (h : s.slotsReady = true) :
    (pairAddBody a b c d n e f s).1.slotsReady = true := by
  refine checked_all (P := fun s => s.slotsReady = true) h fun hc => ?_
  simp only [List.forall_mem_cons] at hc
  obtain ⟨-, -, -, -, -, -, hready1, hready2, -⟩ := hc
  exact slotsReady_putLine (l := newLine d e f n _) hready2 (slotsReady_putLine (l := newLine c e f n _) hready1 h)

theorem slotsReady_lineResizeBody (s : State) (id n : Nat) (h : s.slotsReady = true) :
    (lineResizeBody id n s).1.slotsReady = true := by
  unfold lineResizeBody
  split
  · exact h
  · exact kept_checked (P := fun s => s.slotsReady = true) h
      ((SameSlots.onPair (fun k t => .resizeLine n k t) id _ s).ready h)

theorem slotsReady_lineCancelBody (s : State) (id : Nat) (h : s.slotsReady = true) :
    (lineCancelBody id s).1.slotsReady = true := by
  unfold lineCancelBody
  split
  · exact h
  · exact kept_checked (P := fun s => s.slotsReady = true) h
      ((SameSlots.onPair (fun k t => .cancelLine k t) id _ s).ready h)

theorem slotsReady_lineRemoveBody (s : State) (id : Nat) (h : s.slotsReady = true) :
    (lineRemoveBody id s).1.slotsReady = true := by
  unfold lineRemoveBody
  split
  · exact h
  · exact kept_checked (P := fun s => s.slotsReady = true) h
      ((SameSlots.onPair (fun k t => .dropLine k t) id _ s).ready h)

/-- A slot that no line names may be given any record, or be emptied. -/
theorem slotsReady_other {s t : State} {slot : Nat} (hbook : t.book = s.book)
    (hpiece : ∀ k, k ≠ slot → t.piece k = s.piece k) (hnamed : ∀ e ∈ s.book, e.2.slot ≠ slot)
    (h : s.slotsReady = true) : t.slotsReady = true := by
  refine (slotsReady_iff t).2 fun e he => ?_
  rw [hbook] at he
  have hready := (slotsReady_iff s).1 h e he
  simpa only [State.slotReady, hpiece _ (hnamed e he)] using hready

/-- A slot that is EMPTY or LOADING is named by no line. -/
theorem not_named {s : State} {slot : Nat} (hcode : pieceCode (s.piece slot) ≠ 2) (h : s.slotsReady = true) :
    ∀ e ∈ s.book, e.2.slot ≠ slot := by
  rintro e he rfl
  exact hcode (of_decide_eq_true ((slotsReady_iff s).1 h e he))

/-- A piece record written into a slot that was not READY. -/
theorem slotsReady_putPiece {s : State} {slot : Nat} {p : Piece} (hcode : pieceCode (s.piece slot) ≠ 2)
    (h : s.slotsReady = true) : (s.putPiece slot p).slotsReady = true :=
  slotsReady_other (s := s) rfl (fun _ hk => piece_putPiece_other s p hk) (not_named hcode h) h

/-- The common checks of the library let a request through only in the slot states that it takes. -/
theorem pieceChecks_state {s : State} {slot : Nat} {states : List Nat} {rest : List Check}
    (h : ∀ c ∈ pieceChecks s slot states ++ rest, c.1 = true) : pieceCode (s.piece slot) ∈ states := by
  have hstate := h (states.contains (pieceCode (s.piece slot)), .wrongState, pieceCode (s.piece slot))
    (by simp [pieceChecks])
  simpa using hstate

theorem slotsReady_pieceDefineBody (slot code margin : Nat) (offsets : Byte) (band : Option (Nat × Nat)) (s : State)
    (h : s.slotsReady = true) : (pieceDefineBody slot code margin offsets band s).1.slotsReady = true := by
  refine checked_all (P := fun s => s.slotsReady = true) h fun hc => ?_
  have hstate := pieceChecks_state hc
  exact slotsReady_putPiece (by rw [List.mem_singleton.1 hstate]; decide) h

theorem slotsReady_variantDefineBody (slot o w g : Nat) (s : State) (h : s.slotsReady = true) :
    (variantDefineBody slot o w g s).1.slotsReady = true := by
  refine checked_all (P := fun s => s.slotsReady = true) h fun hc => ?_
  have hstate := pieceChecks_state hc
  split
  · exact h
  · exact slotsReady_putPiece (by rw [List.mem_singleton.1 hstate]; decide) h

theorem slotsReady_variantRowsBody (slot o row start : Nat) (runs : List Run) (s : State) (h : s.slotsReady = true) :
    (variantRowsBody slot o row start runs s).1.slotsReady = true := by
  refine checked_all (P := fun s => s.slotsReady = true) h fun hc => ?_
  rw [List.append_assoc] at hc
  have hstate := pieceChecks_state hc
  split
  · exact h
  · exact slotsReady_putPiece (by rw [List.mem_singleton.1 hstate]; decide) h

theorem slotsReady_pieceReadyBody (slot : Nat) (s : State) (h : s.slotsReady = true) :
    (pieceReadyBody slot s).1.slotsReady = true := by
  refine checked_all (P := fun s => s.slotsReady = true) h fun hc => ?_
  have hstate := pieceChecks_state (rest := []) (by simpa using hc)
  split
  · exact h
  · exact kept_checked (P := fun s => s.slotsReady = true) h
      (slotsReady_putPiece (by rw [List.mem_singleton.1 hstate]; decide) h)

/-- PIECE_ERASE empties only a slot that no line in use names. -/
theorem slotsReady_pieceEraseBody (slot : Nat) (s : State) (h : s.slotsReady = true) :
    (pieceEraseBody slot s).1.slotsReady = true := by
  refine checked_all (P := fun s => s.slotsReady = true) h fun hc => ?_
  have hnone : (namingLine s slot).isNone = true := hc _ (List.mem_append_right _ (List.mem_singleton.2 rfl))
  have hnamed : ∀ e ∈ s.book, e.2.slot ≠ slot := by
    simpa [namingLine, List.find?_eq_none] using hnone
  exact slotsReady_other (s := s) (t := s.dropPiece slot) rfl (fun _ hk => piece_dropPiece_other s hk) hnamed h

/-- The claims take no line to another slot, and the other small writes leave the book and the pieces alone. -/
theorem stable_slots : Stable fun s => s.slotsReady = true where
  tape _ _ h := h
  links _ _ h := h
  sent _ _ h := h
  pending _ _ h := h
  attn _ _ _ h := h
  throttle _ _ h := h
  corrected _ _ h := h
  contents _ _ _ h := h
  covers _ _ _ h := h
  note _ _ _ _ h := (SameSlots.of_same (by simp) (by simp)).ready h
  strikeOne := strikeOne_of (fun _ _ _ h => h) (fun _ _ _ h => h)
    (fun _ _ _ _ h => (SameSlots.of_same (by simp) (by simp)).ready h) (fun s id h => (SameSlots.claimReturn s id).ready h)
  marker _ _ _ _ h := (SameSlots.of_same (by simp) (by simp)).ready h
  engine _ _ h := h
  released _ _ h := h
  takeFrame _ _ _ h := (SameSlots.of_same (by simp) (by simp)).ready h
  freeSlot _ _ h := (SameSlots.of_same (by simp) (by simp)).ready h
  hide _ _ _ _ h := (SameSlots.of_same (by simp) (by simp)).ready h
  reserve s t id he h := by
    obtain ⟨l, hl, -, -, rfl⟩ := claimReserve_some he
    have hput : SameSlots s (s.putLine id { l with openUnits := l.openUnits - 1, reserved := l.reserved + 1 }) :=
      .putLine hl rfl
    exact hput.ready h
  resolve s id h := (SameSlots.claimResolve s id).ready h
  claimReturn s id h := (SameSlots.claimReturn s id).ready h
  leave _ _ h := h
  chan _ _ _ _ h := h

/-- The lines name READY pieces through every command. -/
theorem kept_slots : Kept (fun s => s.slotsReady = true) fun s => s.slotsReady = true where
  strong := stable_slots
  loose := stable_slots
  weaken _ h := h
  anyChan _ _ _ h := h
  anyRelease _ _ _ _ h := (SameSlots.of_same (by simp) (by simp)).ready h
  join _ _ h := h
  evaluate _ h := (SameSlots.of_same (by simp) (by simp)).ready h
  lineAdd := slotsReady_lineAddBody
  pairAdd := slotsReady_pairAddBody
  lineResize := slotsReady_lineResizeBody
  lineCancel := slotsReady_lineCancelBody
  lineRemove := slotsReady_lineRemoveBody
  clearNotices s ids h := foldl_inv State.clearNotice (fun t => t.slotsReady = true)
    (fun t k ht => (SameSlots.clearNotice t k).ready ht) ids s h
  pieceDefine s a b c d e h := slotsReady_pieceDefineBody a b c d e s h
  variantDefine s a b c d h := slotsReady_variantDefineBody a b c d s h
  variantRows s a b c d e h := slotsReady_variantRowsBody a b c d e s h
  pieceReady s a h := slotsReady_pieceReadyBody a s h
  pieceErase s a h := slotsReady_pieceEraseBody a s h
  bankMode s a b h := by
    unfold bankModeBody
    split
    · split <;> exact h
    · exact h
  hideOpen _ _ _ _ _ h := (SameSlots.of_same (by simp) (by simp)).ready h
  thickness _ _ _ h := (SameSlots.of_same (by simp) (by simp)).ready h
  hold _ h := h
  run _ h := (SameSlots.of_same (by simp) (by simp)).ready h
  set _ _ _ h := (SameSlots.of_same (by simp) (by simp)).ready h
  save _ h := (SameSlots.of_same (by simp) (by simp)).ready h
  load _ h := (SameSlots.of_same (by simp) (by simp)).ready h
  defaults _ h := (SameSlots.of_same (by simp [defaultsBody]) (by simp [defaultsBody])).ready h
  sendAttention _ h := h
  start _ _ := rfl
  saveCompletion _ _ h := (SameSlots.of_same (by simp) (by simp)).ready h
  loadCompletion _ h := (SameSlots.of_same (by simp) (by simp)).ready h

/-- Settles O54: every command keeps the lines sound and their pieces READY. -/
theorem stepsKeepTheBookSound : Obligations.StepsKeepTheBookSound := by
  unfold Obligations.StepsKeepTheBookSound
  intro s t h he
  obtain ⟨hlines, hslots⟩ := Bool.and_eq_true_iff.1 h
  exact Bool.and_eq_true_iff.2 ⟨kept_lines.step_keeps s t hlines he, kept_slots.step_keeps s t hslots he⟩

/-! ### Reset -/

/-- Settles O60: the state after reset has empty tables, the fixed defaults and an arbiter in HOLD. -/
theorem resetIsSound : Obligations.ResetIsSound := by
  unfold Obligations.ResetIsSound
  refine ⟨rfl, ?settings, rfl, rfl, (joined_iff _).2 reset_joined, reset_ds.drawn⟩
  case settings => exact (settingsSound_iff _).2 ⟨fixed_sound, by simp [State.reset], by simp [State.reset]⟩

end Sys2Proof.Proofs.Steps
end

section
/-! The statements about the queue, the links and the replies (chapters 10 and 11). -/

namespace Sys2Proof.Proofs.Links

open Sys2Proof.Machine Sys2Proof.Laws

/-! ### The queue -/

/-- Settles O1: the two branches of a step are told apart by the queue. -/
theorem stepTakesTheFrontCommand : Obligations.StepTakesTheFrontCommand := by
  unfold Obligations.StepTakesTheFrontCommand
  intro c rest s hs
  unfold step
  rw [hs]

/-! ### The frames sent -/

/-- The queue is as it was, and no frame that was sent is taken back. -/
def Sends (s t : State) : Prop := t.pending = s.pending ∧ ∃ frames, t.sent = frames ++ s.sent

theorem Sends.of_same {s t : State} (hpending : t.pending = s.pending) (hsent : t.sent = s.sent) : Sends s t :=
  ⟨hpending, [], by rw [hsent]; rfl⟩

theorem Sends.trans {s t u : State} (h : Sends s t) (k : Sends t u) : Sends s u := by
  obtain ⟨hp, a, ha⟩ := h
  obtain ⟨kp, b, kb⟩ := k
  exact ⟨kp.trans hp, b ++ a, by rw [kb, ha, List.append_assoc]⟩

theorem Sends.send (s : State) (l : Link) (tag : Nat) (f : OutFrame) : Sends s (s.send l tag f) :=
  ⟨rfl, [⟨l, tag, f⟩], rfl⟩

theorem Sends.sendAttention (s : State) : Sends s s.sendAttention := ⟨rfl, [_], rfl⟩

theorem Sends.lead (s : State) (l : Link) : Sends s (s.lead l) := by
  unfold State.lead
  split
  · split
    · exact .sendAttention s
    · exact .of_same rfl rfl
  · exact .of_same rfl rfl
  · exact .of_same rfl rfl

theorem Sends.answer (s : State) (l : Link) (tag : Nat) (r : Reply) : Sends s (s.answer l tag r) := by
  unfold State.answer
  split
  · exact (Sends.lead s l).trans (.send _ l tag _)
  · exact .of_same (by simp) (by simp)

theorem Sends.sendReply (s : State) (l : Link) (now : InHand → Bool) : Sends s (sendReply l now s) := by
  unfold Machine.sendReply
  split
  · exact .of_same rfl rfl
  · next q _ =>
    split
    · have hhand : Sends s (s.setInHand l none) := .of_same (by simp) (by simp)
      refine foldl_inv _ (Sends s) (fun t d ht => ht.trans (.send t l d.1 _)) q.behind _ ?_
      exact hhand.trans (.answer _ l q.tag q.reply)
    · exact .of_same rfl rfl

theorem Sends.switchRate (s : State) : Sends s (switchRate s) := .of_same (by simp) (by simp)

theorem Sends.controlRateChange (s : State) : Sends s (controlRateChange s) := by
  unfold Machine.controlRateChange
  split
  · exact .of_same rfl rfl
  · exact (Sends.sendReply s _ _).trans (.switchRate _)

theorem Sends.start (s : State) : Sends s (start s) := .of_same rfl rfl

theorem Sends.restartAfterReset (s : State) : Sends s (restartAfterReset s) := by
  unfold Machine.restartAfterReset
  split
  · exact .of_same rfl rfl
  · next q _ =>
    have hhand : Sends s (s.setInHand .control none) := .of_same (by simp) (by simp)
    exact (hhand.trans (.answer _ _ q.tag q.reply)).trans (.start _)

/-- The events of the channels that send a frame of the part's own. -/
theorem Sends.sendOwn (s : State) (c : Fin 4) (r : OwnRequest) (f : OutFrame) : Sends s (s.sendOwn c r f) := ⟨rfl, [_], rfl⟩

theorem Sends.sendTicket (c : Fin 4) (slot : Nat) (h : Hide) (i : Nat) (p : Placement) (s : State) :
    Sends s (sendTicket c slot h i p s) := by
  refine ⟨by simp, [⟨.cutter c, (s.chan c).nextTag,
    .ticket (s.chan c).ticketCounter h.tag i (codeOf s p.slot) p.variant p.x p.y⟩], ?_⟩
  simp [Machine.sendTicket, State.sendOwn]

theorem Sends.ticketSend (c : Fin 4) (s : State) : Sends s (ticketSend c s) := by
  unfold Machine.ticketSend
  split
  · split
    · exact .of_same rfl rfl
    · next slot g _ =>
      split
      · exact .of_same rfl rfl
      · next i p _ =>
        exact .sendTicket c slot g i p s
  · exact .of_same rfl rfl

theorem Sends.ticketQuerySend (c : Fin 4) (s : State) : Sends s (ticketQuerySend c s) := by
  unfold Machine.ticketQuerySend
  split
  · split
    · exact .sendOwn s c _ _
    · exact .of_same rfl rfl
  · exact .of_same rfl rfl

theorem Sends.abortSend (c : Fin 4) (s : State) : Sends s (abortSend c s) := by
  unfold Machine.abortSend
  split
  · split
    · exact .of_same rfl rfl
    · exact .sendOwn s c _ _
  · exact .of_same rfl rfl

theorem Sends.refuseFrame (l : Link) (tag : Nat) (reason : Reason) (detail : Nat) (s : State) :
    Sends s (refuseFrame l tag reason detail s) := by
  have hhunt : Sends s (s.hunt l) := .of_same (by simp) (by simp)
  exact hhunt.trans (.answer _ l tag _)

theorem Sends.withReads {f : State → State} (hf : ∀ t, Sends t (f t)) (s : State) (reads : List ReadOutcome) :
    Sends s (s.withReads reads f) := by
  obtain ⟨hp, frames, hs⟩ := hf { s with tape := reads }
  exact ⟨hp, frames, hs⟩

theorem Sends.requestUntil {body : State → State × Reply} (hpending : ∀ t, (body t).1.pending = t.pending)
    (hsent : ∀ t, (body t).1.sent = t.sent) (s : State) (l : Link) (h : Head) (len kind : Nat)
    (ends : State → Option ReplyEnd) : Sends s (requestUntil ends l kind h len body s) :=
  requestUntil_keeps (P := Sends s) s l h len kind body ends
    (fun t v ht => ht.trans (.of_same (by simp) (by simp))) (fun t ht => ht.trans (.lead t l))
    (fun t tag r ht => ht.trans (.answer t l tag r)) (fun t ht => ht.trans (.of_same (hpending t) (hsent t)))
    (.of_same rfl rfl)

theorem requestUntil_tape {body : State → State × Reply} (hbody : ∀ t, (body t).1.tape = t.tape) (s : State) (l : Link)
    (h : Head) (len kind : Nat) (ends : State → Option ReplyEnd) :
    (requestUntil ends l kind h len body s).tape = s.tape :=
  requestUntil_keeps (P := fun t => t.tape = s.tape) s l h len kind body ends
    (fun t v ht => (by simp : (t.putLink l v).tape = t.tape).trans ht)
    (fun t ht => (by simp : (t.lead l).tape = t.tape).trans ht)
    (fun t tag r ht => (by simp : (t.answer l tag r).tape = t.tape).trans ht) (fun t ht => (hbody t).trans ht) rfl

/-! ### The Link Unit's events -/

/-- The Link Unit's four refusals: no frame of that form has ended, or it is refused. -/
theorem lenTooLong_cases (l : Link) (bytes : List Byte) (s : State) : lenTooLong l bytes s = s ∨
    ∃ tag n, s.frameEnd l bytes = some (.tooLong tag n) ∧ lenTooLong l bytes s = refuseFrame l tag .badLength n s := by
  unfold lenTooLong
  split
  · next tag n e => exact Or.inr ⟨tag, n, e, rfl⟩
  · exact Or.inl rfl

theorem crcMismatch_cases (l : Link) (bytes : List Byte) (s : State) : crcMismatch l bytes s = s ∨
    ∃ tag, s.frameEnd l bytes = some (.badCrc tag) ∧ crcMismatch l bytes s = refuseFrame l tag .badCrc 0 s := by
  unfold crcMismatch
  split
  · next tag e => exact Or.inr ⟨tag, e, rfl⟩
  · exact Or.inl rfl

theorem badKindFrame_cases (l : Link) (bytes : List Byte) (s : State) : badKindFrame l bytes s = s ∨
    ∃ kind tag, badKindFrame l bytes s = refuseFrame l tag .badKind kind s := by
  unfold badKindFrame
  split
  · split
    · exact Or.inr ⟨_, _, rfl⟩
    · exact Or.inl rfl
  · exact Or.inl rfl

theorem notOnLinkFrame_cases (l : Link) (bytes : List Byte) (s : State) : notOnLinkFrame l bytes s = s ∨
    ∃ kind tag, notOnLinkFrame l bytes s = refuseFrame l tag .notOnLink kind s := by
  unfold notOnLinkFrame
  split
  · split
    · exact Or.inr ⟨_, _, rfl⟩
    · exact Or.inl rfl
  · exact Or.inl rfl

theorem takeBytes_cases (l : Link) (bytes : List Byte) (s : State) :
    takeBytes l bytes s = s ∨ ∃ v, takeBytes l bytes s = s.putLink l v := by
  unfold takeBytes
  split
  · exact Or.inr ⟨_, rfl⟩
  · exact Or.inl rfl

theorem dropReply_cases (l : Link) (bytes : List Byte) (s : State) :
    dropReply l bytes s = s ∨ dropReply l bytes s = s.hunt l := by
  unfold dropReply
  split
  · split
    · exact Or.inr rfl
    · exact Or.inl rfl
  · exact Or.inl rfl

/-! ### Every command has a next state -/

/-- What a command leaves: the queue, the frames sent before, and an empty tape. -/
def Serves (s t : State) : Prop := Sends s t ∧ (s.tape = [] → t.tape = [])

theorem Serves.of_same {s t : State} (hpending : t.pending = s.pending) (hsent : t.sent = s.sent)
    (htape : t.tape = s.tape) : Serves s t := ⟨.of_same hpending hsent, htape.trans⟩

theorem Serves.start (s : State) : Serves s (start s) := ⟨.start s, fun _ => rfl⟩

theorem Serves.restartAfterReset (s : State) : Serves s (restartAfterReset s) := by
  refine ⟨.restartAfterReset s, fun ht => ?_⟩
  unfold Machine.restartAfterReset
  split
  · exact ht
  · rfl

theorem Serves.hunt (s : State) (l : Link) : Serves s (s.hunt l) := .of_same (by simp) (by simp) (by simp)

theorem Serves.refuseFrame (l : Link) (tag : Nat) (reason : Reason) (detail : Nat) (s : State) :
    Serves s (refuseFrame l tag reason detail s) :=
  ⟨.refuseFrame l tag reason detail s, (by simp [Machine.refuseFrame] : _ = s.tape).trans⟩

theorem Serves.withReads {f : State → State} (hf : ∀ t, Sends t (f t)) (s : State) (reads : List ReadOutcome) :
    Serves s (s.withReads reads f) := ⟨.withReads hf s reads, id⟩

theorem Serves.of_eq {s t u : State} (e : t = u) (h : Serves s u) : Serves s t := e ▸ h

/-- An event has a next state, which serves. -/
theorem exec_event {c : Instr} (hc : asRequest c = none) (s : State) : ∃ t, exec c s = .next t ∧ Serves s t := by
  cases c <;> simp only [asRequest, reduceCtorEq] at hc <;> refine ⟨_, rfl, ?_⟩
  case powerOn => exact .start s
  case resetInput => exact .start s
  case restartAfterReset => exact .restartAfterReset s
  case saveCompletion passes => exact .of_same (by simp) (by simp) (by simp)
  case loadCompletion => exact .of_same (by simp) (by simp) (by simp)
  case controlRateChange => exact ⟨.controlRateChange s, (by simp : _ = s.tape).trans⟩
  case commitCompletion slot reads =>
    split
    · exact .of_same rfl rfl rfl
    · split
      · exact .withReads (fun t => .of_same (by simp) (by simp)) s reads
      · exact .of_same rfl rfl rfl
  case nestTake => exact .of_same (by simp) (by simp) (by simp)
  case stopChecks => exact .of_same (by simp) (by simp) (by simp)
  case fitTest reads => exact .withReads (fun t => .of_same (by simp) (by simp)) s reads
  case unitPush => exact .of_same (by simp) (by simp) (by simp)
  case stepEnd => exact .of_same (by simp) (by simp) (by simp)
  case passEnd reads => exact .withReads (fun t => .of_same (by simp) (by simp)) s reads
  case passAbort => exact .of_same (by simp) (by simp) (by simp)
  case attentionSend =>
    unfold attentionSend
    split
    · exact ⟨.sendAttention s, id⟩
    · exact .of_same rfl rfl rfl
  case ticketSend c => exact ⟨.ticketSend c s, (by simp : _ = s.tape).trans⟩
  case ticketAnswer c tag a => exact .of_same (by simp) (by simp) (by simp)
  case ticketTimeout c => exact .of_same (by simp) (by simp) (by simp)
  case deadlineExpiry c ticket => exact .of_same (by simp) (by simp) (by simp)
  case ticketQuerySend c => exact ⟨.ticketQuerySend c s, (by simp : _ = s.tape).trans⟩
  case queryAnswer c tag a reads => exact .withReads (fun t => .of_same (by simp) (by simp)) s reads
  case queryTimeout c reads => exact .withReads (fun t => .of_same (by simp) (by simp)) s reads
  case abortHideSend c => exact ⟨.abortSend c s, (by simp : _ = s.tape).trans⟩
  case abortAnswer c tag a => exact .of_same (by simp) (by simp) (by simp)
  case abortTimeout c => exact .of_same (by simp) (by simp) (by simp)
  case unexpectedReply c tag => exact .hunt s _
  case lenTooLong l before last =>
    rcases lenTooLong_cases l (before ++ [last]) s with e | ⟨tag, n, _, e⟩
    · exact .of_eq e (.of_same rfl rfl rfl)
    · exact .of_eq e (.refuseFrame ..)
  case frameCrcMismatch l bytes =>
    rcases crcMismatch_cases l bytes s with e | ⟨tag, _, e⟩
    · exact .of_eq e (.of_same rfl rfl rfl)
    · exact .of_eq e (.refuseFrame ..)
  case interByteGap l => exact .hunt s l
  case badKindFrame l before last =>
    rcases badKindFrame_cases l (before ++ [last]) s with e | ⟨kind, tag, e⟩
    · exact .of_eq e (.of_same rfl rfl rfl)
    · exact .of_eq e (.refuseFrame ..)
  case frameBegin p =>
    rcases takeBytes_cases p.1 p.2 s with e | ⟨v, e⟩
    · exact .of_eq e (.of_same rfl rfl rfl)
    · exact .of_eq e (.of_same (by simp) (by simp) (by simp))
  case notOnLinkFrame l before last =>
    rcases notOnLinkFrame_cases l (before ++ [last]) s with e | ⟨kind, tag, e⟩
    · exact .of_eq e (.of_same rfl rfl rfl)
    · exact .of_eq e (.refuseFrame ..)
  case replyOnControlOrScannerLink p =>
    rcases dropReply_cases (upLink p.1) p.2 s with e | e
    · exact .of_eq e (.of_same rfl rfl rfl)
    · exact .of_eq e (.hunt s _)

/-- A request has a next state, which serves where no read outcome waits. -/
theorem exec_request {c : Instr} {l : Link} {kind : Nat} {h : Head} {len : Nat}
    (hc : asRequest c = some (l, kind, h, len)) (s : State) : ∃ t, exec c s = .next t ∧ Serves s t := by
  obtain ⟨ends, hr⟩ := request_runs hc
  have sends := Sends.requestUntil hr.pending hr.sent
  rcases hr.runs with ⟨hexec, htape⟩ | ⟨reads, hexec⟩
  · exact ⟨_, hexec s, sends s l h len kind ends, (requestUntil_tape htape ..).trans⟩
  · exact ⟨_, hexec s, .withReads (fun t => sends t l h len kind ends) s reads⟩

/-- Settles O3: a request runs by the shared operation, and each event sends at most frames of its own. -/
theorem everyCommandHasANextState : Obligations.EveryCommandHasANextState := by
  unfold Obligations.EveryCommandHasANextState
  intro c s hs
  have hserves : ∃ t, exec c s = .next t ∧ Serves s t := by
    cases hc : asRequest c with
    | none => exact exec_event hc s
    | some r => exact exec_request hc s
  obtain ⟨t, e, ⟨hpending, hsent⟩, htape⟩ := hserves
  exact ⟨t, e, hpending, htape hs, hsent⟩

/-! ### One reply for each request -/

/-- The ATTENTION frame goes before a reply on the link (log entry 28). -/
def Leads (s : State) (l : Link) : Prop := l = .control ∧ s.attn.first = true

theorem lead_of_leads {s : State} {l : Link} (h : Leads s l) : s.lead l = s.sendAttention := by
  obtain ⟨rfl, hf⟩ := h
  simp [State.lead, hf]

theorem lead_of_not_leads {s : State} {l : Link} (h : ¬ Leads s l) : s.lead l = s := by
  cases l with
  | control =>
    have hf : s.attn.first = false := by simpa [Leads] using h
    simp [State.lead, hf]
  | scanner => rfl
  | cutter c => rfl

/-- A link's frames go out from `u` as they would from `s`: the work of a request leaves them. -/
structure SameOut (s u : State) (l : Link) : Prop where
  sent : u.sent = s.sent
  inHand : (u.link l).inHand = (s.link l).inHand
  lead : LeadIs s.attn.first s.attn.nextTag u

theorem SameOut.hunt (s : State) (l : Link) : SameOut s (s.hunt l) l :=
  ⟨by simp, by simp, lead_same (by simp) ⟨rfl, rfl⟩⟩

theorem SameOut.leads_iff {s u : State} {l : Link} (H : SameOut s u l) : Leads u l ↔ Leads s l := by
  rw [Leads, Leads, H.lead.1]

theorem SameOut.lead_sent {s u : State} {l : Link} (H : SameOut s u l) (h : Leads s l) :
    (u.lead l).sent = ⟨.control, s.attn.nextTag, .attention u.summary⟩ :: s.sent := by
  rw [lead_of_leads (H.leads_iff.mpr h), ← H.lead.2, ← H.sent]
  rfl

theorem SameOut.not_lead_sent {s u : State} {l : Link} (H : SameOut s u l) (h : ¬ Leads s l) :
    (u.lead l).sent = s.sent := by
  rw [lead_of_not_leads (fun k => h (H.leads_iff.mp k)), H.sent]

/-- What O4 says of a request's reply. -/
def OneReply (s : State) (l : Link) (kind : Nat) (h : Head) (t : State) (r : Reply) : Prop :=
  (∀ q, (s.link l).inHand = some q → q.begun = true → t.sent = s.sent ∧
    (t.link l).inHand = some { q with behind := q.behind ++ [(h.tag, r)] }) ∧
  ((∀ q, (s.link l).inHand = some q → q.begun = false) → ∃ summary,
    let led : List Sent := ⟨.control, s.attn.nextTag, .attention summary⟩ :: s.sent
    ((t.link l).inHand = (s.link l).inHand ∧ (¬ Leads s l → t.sent = ⟨l, h.tag, .reply r⟩ :: s.sent) ∧
        (Leads s l → t.sent = ⟨l, h.tag, .reply r⟩ :: led)) ∨
      ((s.link l).inHand = none ∧ (∃ e, (t.link l).inHand = some ⟨kind, h.tag, r, e, replyBegun h, []⟩) ∧
        (¬ Leads s l ∨ replyBegun h = false → t.sent = s.sent) ∧ (Leads s l → replyBegun h = true → t.sent = led)))

theorem link_of_links {s t : State} (h : t.links = s.links) (l : Link) : t.link l = s.link l := by
  cases l <;> simp [State.link, h]

theorem link_setInHand_self (s : State) (l : Link) (q : Option InHand) : ((s.setInHand l q).link l).inHand = q := by
  simp [State.setInHand]

/-- A reply that does not wait: behind the one whose frame is being sent, or at once. -/
theorem OneReply.answer {s u : State} {l : Link} (H : SameOut s u l) (kind : Nat) (h : Head) (r : Reply) :
    OneReply s l kind h (u.answer l h.tag r) r := by
  refine ⟨fun q hq hb => ?_, fun hfree => ⟨u.summary, Or.inl ⟨?_, fun hl => ?_, fun hl => ?_⟩⟩⟩
  · rw [answer_behind h.tag r (H.inHand.trans hq) hb]
    exact ⟨by simpa using H.sent, link_setInHand_self ..⟩
  all_goals rw [answer_free h.tag r fun q hq => hfree q (H.inHand ▸ hq)]
  · exact (congrArg LinkState.inHand (link_of_links (lead_links u l) l)).trans H.inHand
  · exact congrArg (List.cons _) (H.not_lead_sent hl)
  · exact congrArg (List.cons _) (H.lead_sent hl)

/-- A reply that stays in hand: its frame begun, or not. -/
theorem OneReply.hold {s u : State} {l : Link} (H : SameOut s u l) (hnone : (s.link l).inHand = none) (kind : Nat)
    (h : Head) (e : ReplyEnd) (r : Reply) : OneReply s l kind h (u.hold l kind h.tag (replyBegun h) e r) r := by
  refine ⟨fun q hq => ?_, fun _ => ⟨u.summary, Or.inr ⟨hnone, ⟨e, ?_⟩, fun hl => ?_, fun hl hb => ?_⟩⟩⟩
  · rw [hnone] at hq; cases hq
  · exact link_setInHand_self ..
  · rw [State.hold, setInHand_sent]
    split
    · next hb => exact H.not_lead_sent (hl.resolve_right fun hf => by rw [hf] at hb; cases hb)
    · exact H.sent
  · rw [State.hold, setInHand_sent, hb, if_pos rfl]
    exact H.lead_sent hl

/-- The shared operation gives one reply. -/
theorem requestUntil_oneReply {c : Instr} {l : Link} {kind : Nat} {h : Head} {len : Nat}
    {ends : State → Option ReplyEnd} (hr : RunsAs c l kind h len ends (bodyOf c)) (s : State) :
    ∃ r, OneReply s l kind h (requestUntil ends l kind h len (bodyOf c) s) r := by
  rcases requestUntil_cases s l h len kind (bodyOf c) ends with ⟨n, _, _, e⟩ | ⟨q, _, e⟩ | ht
  · exact ⟨_, e ▸ OneReply.answer (.hunt s l) kind h _⟩
  · exact ⟨_, e ▸ OneReply.answer (.hunt s l) kind h _⟩
  · have hlinks := hr.links (s.hunt l)
    have H : SameOut s (bodyOf c (s.hunt l)).1 l := {
      sent := (hr.sent _).trans (by simp)
      inHand := (congrArg LinkState.inHand (link_of_links (hr.links _) l)).trans (hunt_inHand s l)
      lead := lead_bodies.body c _ (SameOut.hunt s l).lead }
    rcases requestUntil_taken kind (bodyOf c) ends ht with e | ⟨e, he⟩
    · exact ⟨_, e ▸ OneReply.answer H kind h _⟩
    · exact ⟨_, he ▸ OneReply.hold H ht.2 kind h e _⟩

/-- Settles O4: by the three outcomes of a request, its reply sent, held or put behind. -/
theorem everyRequestGetsOneReply : Obligations.EveryRequestGetsOneReply := by
  unfold Obligations.EveryRequestGetsOneReply
  intro c l kind h len s hc
  obtain ⟨ends, hr⟩ := request_runs hc
  rcases hr.runs with ⟨hexec, _⟩ | ⟨reads, hexec⟩
  · obtain ⟨r, hone⟩ := requestUntil_oneReply hr s
    exact ⟨_, r, hexec s, hone⟩
  · obtain ⟨r, hone⟩ := requestUntil_oneReply hr { s with tape := reads }
    exact ⟨_, r, hexec s, hone⟩

/-! ### A refusal changes no block -/

/-- What O5 says of a refused request. -/
def NoBlock (s : State) (l : Link) (h : Head) (reason : Reason) (detail : Nat) (t : State) : Prop :=
  (∀ before, t.sent = ⟨l, h.tag, .reply (.refuse reason detail)⟩ :: before → t.sent ≠ s.sent →
    ∃ v, t = (s.putLink l v).answer l h.tag (.refuse reason detail)) ∧
  (∀ q, (s.link l).inHand = none → (t.link l).inHand = some q → q.reply = .refuse reason detail →
    ∃ v, t = (if q.begun then s.lead l else s).putLink l v) ∧
  ∀ q, (s.link l).inHand = some q → q.begun = true → ∃ v, t = s.putLink l v

theorem putLink_withTape (s : State) (l : Link) (v : LinkState) (x : List ReadOutcome) :
    State.putLink { s with tape := x } l v = { s.putLink l v with tape := x } := by
  cases l <;> rfl

theorem lead_putLink (s : State) (l : Link) (v : LinkState) : (s.putLink l v).lead l = (s.lead l).putLink l v := by
  by_cases hl : Leads s l
  · have hl' : Leads (s.putLink l v) l := by simpa [Leads] using hl
    rw [lead_of_leads hl, lead_of_leads hl', hl.1]
    rfl
  · have hl' : ¬ Leads (s.putLink l v) l := by simpa [Leads] using hl
    rw [lead_of_not_leads hl, lead_of_not_leads hl']

/-- The frame at the head after an answer is that of its reply, where the answer sends one. -/
theorem answer_head {u : State} {l : Link} {tag : Nat} {r r' : Reply} {before : List Sent}
    (hs : (u.answer l tag r).sent = ⟨l, tag, .reply r'⟩ :: before) (hne : (u.answer l tag r).sent ≠ u.sent) : r = r' := by
  unfold State.answer at hs hne
  cases hb : u.beingSent l with
  | none =>
    simp only [hb, send_sent, List.cons.injEq, Sent.mk.injEq, OutFrame.reply.injEq] at hs
    exact hs.1.2.2
  | some q => simp [hb] at hne

/-- The frame at the head after a request is held is no reply, where the hold sends one. -/
theorem hold_head {u : State} {l : Link} {kind tag : Nat} {b : Bool} {e : ReplyEnd} {r r' : Reply} {before : List Sent}
    (hs : (u.hold l kind tag b e r).sent = ⟨l, tag, .reply r'⟩ :: before) : (u.hold l kind tag b e r).sent = u.sent := by
  by_cases hl : b = true ∧ Leads u l
  · obtain ⟨rfl, hl⟩ := hl
    rw [State.hold, setInHand_sent, if_pos rfl, lead_of_leads hl] at hs
    simp [State.sendAttention, State.send] at hs
  · rw [State.hold, setInHand_sent]
    split
    · next hb => rw [lead_of_not_leads fun k => hl ⟨hb, k⟩]
    · rfl

theorem answer_inHand_none {u : State} {l : Link} (tag : Nat) (r : Reply) (h : (u.link l).inHand = none) :
    ((u.answer l tag r).link l).inHand = none := by
  rw [answer_free tag r fun q hq => by rw [h] at hq; cases hq]
  exact (congrArg LinkState.inHand (link_of_links (lead_links u l) l)).trans h

/-- A request refused at its link: its answer on the state whose receiver is HUNTING again. -/
theorem NoBlock.answer (s : State) (l : Link) (h : Head) (reason : Reason) (detail : Nat) (r : Reply) :
    NoBlock s l h reason detail ((s.hunt l).answer l h.tag r) := by
  refine ⟨fun before hs hne => ?_, fun q hn hq _ => ?_, fun q hq hb => ?_⟩
  · rw [answer_head hs (by simpa using hne)]
    exact ⟨_, rfl⟩
  · rw [answer_inHand_none h.tag r (by simpa using hn)] at hq
    cases hq
  · rw [answer_behind h.tag r (by simpa using hq) hb]
    exact ⟨_, putLink_putLink ..⟩

/-- A request in hand whose refusal changes nothing. -/
theorem NoBlock.hold {s : State} {l : Link} {body : State × Reply} (hn : (s.link l).inHand = none)
    (hquiet : QuietRefusal (s.hunt l) body) (hsent : body.1.sent = s.sent) (kind : Nat) (h : Head) (reason : Reason)
    (detail : Nat) (e : ReplyEnd) :
    NoBlock s l h reason detail (body.1.hold l kind h.tag (replyBegun h) e body.2) := by
  refine ⟨fun before hs hne => ?_, fun q _ hq hr => ?_, fun q hq => ?_⟩
  · exact absurd ((hold_head hs).trans hsent) hne
  · rw [State.hold, link_setInHand_self] at hq
    obtain rfl := Option.some.inj hq
    rw [hquiet _ _ hr, State.hold, State.setInHand]
    split
    · rw [State.hunt, lead_putLink, putLink_putLink]
      exact ⟨_, rfl⟩
    · rw [State.hunt, putLink_putLink]
      exact ⟨_, rfl⟩
  · rw [hn] at hq; cases hq

theorem requestUntil_noBlock {c : Instr} {l : Link} {kind : Nat} {h : Head} {len : Nat} {ends : State → Option ReplyEnd}
    (hr : RunsAs c l kind h len ends (bodyOf c)) (hc : mayActRefused c = false) (s : State) (reason : Reason)
    (detail : Nat) : NoBlock s l h reason detail (requestUntil ends l kind h len (bodyOf c) s) := by
  rcases requestUntil_cases s l h len kind (bodyOf c) ends with ⟨n, _, _, e⟩ | ⟨q, _, e⟩ | ht
  · exact e ▸ NoBlock.answer ..
  · exact e ▸ NoBlock.answer ..
  · have hquiet := hr.quiet hc (s.hunt l)
    have hsent : (bodyOf c (s.hunt l)).1.sent = s.sent := (hr.sent _).trans (by simp)
    rcases requestUntil_taken kind (bodyOf c) ends ht with e | ⟨e, he⟩
    · rw [e]
      refine ⟨fun before hs hne => ?_, fun q hn hq _ => ?_, fun q hq => ?_⟩
      · have hreply := answer_head hs (by rw [hsent]; exact hne)
        rw [hquiet reason detail hreply, hreply]
        exact ⟨_, rfl⟩
      · rw [answer_inHand_none] at hq
        · cases hq
        · exact (congrArg LinkState.inHand (link_of_links (hr.links _) l)).trans ((hunt_inHand s l).trans hn)
      · rw [ht.2] at hq; cases hq
    · exact he ▸ NoBlock.hold ht.2 hquiet hsent ..

/-- The read outcomes that a request brings and takes do not matter. -/
theorem NoBlock.withTape {s : State} {l : Link} {h : Head} {reason : Reason} {detail : Nat} {t : State}
    (x : List ReadOutcome) (H : NoBlock { s with tape := x } l h reason detail t) :
    NoBlock s l h reason detail { t with tape := s.tape } := by
  obtain ⟨hsends, hholds, hbehind⟩ := H
  refine ⟨fun before hs hne => ?_, fun q hn hq hr => ?_, fun q hq hb => ?_⟩
  · obtain ⟨v, e⟩ := hsends before hs hne
    exact ⟨v, by rw [e, putLink_withTape, answer_withTape, ← answer_withTape, ← putLink_withTape]⟩
  · obtain ⟨v, e⟩ := hholds q hn hq hr
    refine ⟨v, ?_⟩
    rw [e]
    split
    · rw [lead_withTape, ← putLink_withTape, ← lead_withTape]
    · rw [← putLink_withTape]
  · obtain ⟨v, e⟩ := hbehind q hq hb
    exact ⟨v, by rw [e, ← putLink_withTape]⟩

/-- Settles O5: the work of a refused request gives back the state it was given. -/
theorem aRefusalChangesNoBlock : Obligations.ARefusalChangesNoBlock := by
  unfold Obligations.ARefusalChangesNoBlock
  intro c l kind h len s t reason detail hc hquiet hexec
  obtain ⟨ends, hr⟩ := request_runs hc
  rcases hr.runs with ⟨hruns, _⟩ | ⟨reads, hruns⟩
  · obtain rfl := Host.Outcome.next.inj ((hruns s).symm.trans hexec)
    exact requestUntil_noBlock hr hquiet s reason detail
  · obtain rfl := Host.Outcome.next.inj ((hruns s).symm.trans hexec)
    exact (requestUntil_noBlock hr hquiet _ reason detail).withTape reads

/-! ### The frames that the Link Unit refuses -/

theorem isBadKind_iff (kind : Nat) : isBadKind kind = true ↔ kind ∉ knownKinds := by
  simp [isBadKind]

theorem isNotOnLink_iff (l : Link) (kind : Nat) :
    isNotOnLink l kind = true ↔ kind ∈ knownKinds ∧ kind ∉ replyKinds ∧ kind ∉ partnerKinds l := by
  simp [isNotOnLink, and_assoc]

theorem lenTooLong_ended {l : Link} {bytes : List Byte} {s : State} {tag n : Nat}
    (h : s.frameEnd l bytes = some (.tooLong tag n)) :
    lenTooLong l bytes s = (s.hunt l).answer l tag (.refuse .badLength n) := by
  unfold lenTooLong
  rw [h]
  rfl

theorem lenTooLong_other {l : Link} {bytes : List Byte} {s : State}
    (h : ∀ tag n, s.frameEnd l bytes ≠ some (.tooLong tag n)) : lenTooLong l bytes s = s := by
  unfold lenTooLong
  split
  · next e => exact absurd e (h _ _)
  · rfl

theorem crcMismatch_ended {l : Link} {bytes : List Byte} {s : State} {tag : Nat}
    (h : s.frameEnd l bytes = some (.badCrc tag)) :
    crcMismatch l bytes s = (s.hunt l).answer l tag (.refuse .badCrc 0) := by
  unfold crcMismatch
  rw [h]
  rfl

theorem crcMismatch_other {l : Link} {bytes : List Byte} {s : State}
    (h : ∀ tag, s.frameEnd l bytes ≠ some (.badCrc tag)) : crcMismatch l bytes s = s := by
  unfold crcMismatch
  split
  · next e => exact absurd e (h _)
  · rfl

theorem badKindFrame_ended {l : Link} {bytes payload : List Byte} {s : State} {kind tag : Nat}
    (h : s.frameEnd l bytes = some (.good kind tag payload)) (hk : kind ∉ knownKinds) :
    badKindFrame l bytes s = (s.hunt l).answer l tag (.refuse .badKind kind) := by
  unfold badKindFrame
  rw [h]
  exact if_pos ((isBadKind_iff kind).mpr hk)

theorem badKindFrame_other {l : Link} {bytes : List Byte} {s : State}
    (h : ∀ kind tag payload, s.frameEnd l bytes = some (.good kind tag payload) → kind ∈ knownKinds) :
    badKindFrame l bytes s = s := by
  unfold badKindFrame
  split
  · next kind tag payload e => exact if_neg fun hb => (isBadKind_iff kind).mp hb (h kind tag payload e)
  · rfl

theorem notOnLinkFrame_ended {l : Link} {bytes payload : List Byte} {s : State} {kind tag : Nat}
    (h : s.frameEnd l bytes = some (.good kind tag payload)) (hk : kind ∈ knownKinds) (hr : kind ∉ replyKinds)
    (hp : kind ∉ partnerKinds l) : notOnLinkFrame l bytes s = (s.hunt l).answer l tag (.refuse .notOnLink kind) := by
  unfold notOnLinkFrame
  rw [h]
  exact if_pos ((isNotOnLink_iff l kind).mpr ⟨hk, hr, hp⟩)

theorem notOnLinkFrame_other {l : Link} {bytes : List Byte} {s : State}
    (h : ∀ kind tag payload, s.frameEnd l bytes = some (.good kind tag payload) →
      kind ∉ knownKinds ∨ kind ∈ replyKinds ∨ kind ∈ partnerKinds l) : notOnLinkFrame l bytes s = s := by
  unfold notOnLinkFrame
  split
  · next kind tag payload e =>
    refine if_neg fun hb => ?_
    obtain ⟨hk, hr, hp⟩ := (isNotOnLink_iff l kind).mp hb
    rcases h kind tag payload e with h | h | h
    · exact h hk
    · exact hr h
    · exact hp h
  · rfl

/-- A request whose shared operation answers at the link, whatever read outcomes it brings. -/
theorem exec_answers {c : Instr} {l : Link} {kind : Nat} {h : Head} {len : Nat}
    (hc : asRequest c = some (l, kind, h, len)) (s : State) (r : Reply)
    (hr : ∀ ends x, requestUntil ends l kind h len (bodyOf c) { s with tape := x } =
      (State.hunt { s with tape := x } l).answer l h.tag r) :
    exec c s = .next ((s.hunt l).answer l h.tag r) := by
  obtain ⟨ends, hruns⟩ := request_runs hc
  rcases hruns.runs with ⟨hexec, _⟩ | ⟨reads, hexec⟩
  · rw [hexec s]
    exact congrArg _ (hr ends s.tape)
  · rw [hexec s, withReads_eq, hr ends reads, hunt_withTape, answer_withTape, ← answer_withTape, ← hunt_withTape]

/-- Settles O6: each event by the end of its frame, and the two checks of a request by the shared operation. -/
theorem framesAreRefusedByTheLinkUnit : Obligations.FramesAreRefusedByTheLinkUnit := by
  unfold Obligations.FramesAreRefusedByTheLinkUnit
  refine ⟨fun l before last s => ⟨?_, ?_, ?_, ?_, ?_, ?_, ?_⟩, ?_, ?_⟩
  · exact fun tag n h => congrArg _ (lenTooLong_ended h)
  · exact fun tag h => congrArg _ (crcMismatch_ended h)
  · exact fun kind tag payload h => ⟨fun hk => congrArg _ (badKindFrame_ended h hk),
      fun hk hr hp => congrArg _ (notOnLinkFrame_ended h hk hr hp)⟩
  · exact fun h => congrArg _ (lenTooLong_other h)
  · exact fun h => congrArg _ (crcMismatch_other h)
  · exact fun h => congrArg _ (badKindFrame_other h)
  · exact fun h => congrArg _ (notOnLinkFrame_other h)
  · exact fun c l kind h len n s hc hn hne =>
      exec_answers hc s _ fun ends x => requestUntil_length kind (bodyOf c) ends hn hne
  · exact fun c l kind h len q s hc hl hq =>
      exec_answers hc s _ fun ends x => requestUntil_busy kind (bodyOf c) ends hl hq

/-! ### Bytes at a receiver -/

theorem arrive_dropped (dropped : List Byte) (h : ∀ b ∈ dropped, b ≠ startByte) :
    arrive .hunting dropped = some (.going .hunting) := by
  induction dropped with
  | nil => rfl
  | cons b t ih =>
    rw [arrive, takeByte, if_neg (h b (by simp))]
    exact ih fun x hx => h x (by simp [hx])

/-- Bytes may come in several pieces. -/
theorem arrive_append (bytes more : List Byte) (r q : Receiver) (h : arrive r bytes = some (.going q)) :
    arrive r (bytes ++ more) = arrive q more := by
  induction bytes generalizing r with
  | nil =>
    obtain rfl : r = q := by simpa [arrive] using h
    rfl
  | cons b t ih =>
    rw [List.cons_append, arrive]
    rw [arrive] at h
    cases ht : takeByte r b with
    | going p =>
      rw [ht] at h
      exact ih p h
    | ended e =>
      rw [ht] at h
      simp only at h
      split at h <;> simp at h

theorem arrive_head (kind tag a : Byte) (more : List Byte) :
    arrive (.inFrame []) (kind :: tag :: a :: more) = arrive (.inFrame [kind, tag, a]) more := by
  simp [arrive, takeByte, gathered]

theorem arrive_tooLong {kind tag a b : Byte} (h : 1024 < lenOf a b) :
    arrive (.inFrame []) [kind, tag, a, b] = some (.ended (.tooLong tag.toNat (lenOf a b))) := by
  rw [arrive_head]
  simp [arrive, takeByte, gathered, h]

theorem gathered_going {kind tag a b : Byte} {rest : List Byte} (hlen : lenOf a b ≤ 1024)
    (hr : rest.length < lenOf a b + 2) :
    gathered (kind :: tag :: a :: b :: rest) = .going (.inFrame (kind :: tag :: a :: b :: rest)) := by
  rw [gathered, if_neg (Nat.not_lt.mpr hlen), if_neg hr.ne]

/-- Bytes short of the last CRC byte are gathered. -/
theorem arrive_gathers {kind tag a b : Byte} (hlen : lenOf a b ≤ 1024) (more rest : List Byte)
    (hr : (rest ++ more).length < lenOf a b + 2) :
    arrive (.inFrame (kind :: tag :: a :: b :: rest)) more =
      some (.going (.inFrame (kind :: tag :: a :: b :: (rest ++ more)))) := by
  induction more generalizing rest with
  | nil => simp [arrive]
  | cons x t ih =>
    have hx : gathered (kind :: tag :: a :: b :: (rest ++ [x])) = .going (.inFrame (kind :: tag :: a :: b :: (rest ++ [x]))) :=
      gathered_going hlen (by simp only [List.length_append, List.length_cons, List.length_nil] at hr ⊢; omega)
    have := ih (rest ++ [x]) (by simpa using hr)
    simpa [arrive, takeByte, hx] using this

theorem arrive_short {kind tag a b : Byte} {rest : List Byte} (hlen : lenOf a b ≤ 1024)
    (hr : rest.length < lenOf a b + 2) :
    arrive (.inFrame []) (kind :: tag :: a :: b :: rest) = some (.going (.inFrame (kind :: tag :: a :: b :: rest))) := by
  have hb : gathered [kind, tag, a, b] = .going (.inFrame [kind, tag, a, b]) := gathered_going hlen (by simp)
  rw [arrive_head]
  simpa [arrive, takeByte, hb] using arrive_gathers (kind := kind) (tag := tag) hlen rest [] hr

theorem checkFrame_eq (kind tag a b : Byte) (rest : List Byte) :
    let n := a.toNat * 256 + b.toNat
    let check := (crc (kind :: tag :: a :: b :: rest.take n)).toNat
    checkFrame kind tag a b rest =
      if rest.drop n = [BitVec.ofNat 8 (check / 256), BitVec.ofNat 8 check] then
        .good kind.toNat tag.toNat (rest.take n)
      else .badCrc tag.toNat := by
  simp only [checkFrame, lenOf, byte2, eq_comm]

/-! ### The receivers of the links -/

theorem frameEnd_of_arrive {s : State} {l : Link} {bytes : List Byte} {e : FrameEnd}
    (h : arrive (s.link l).receiver bytes = some (.ended e)) : s.frameEnd l bytes = some e := by
  simp [State.frameEnd, h]

theorem takeBytes_going {l : Link} {bytes : List Byte} {s : State} {r : Receiver}
    (h : arrive (s.link l).receiver (startByte :: bytes) = some (.going r)) :
    takeBytes l bytes s = s.putLink l { s.link l with receiver := r } := by
  simp [takeBytes, h]

theorem takeBytes_other {l : Link} {bytes : List Byte} {s : State}
    (h : ∀ r, arrive (s.link l).receiver (startByte :: bytes) ≠ some (.going r)) : takeBytes l bytes s = s := by
  unfold takeBytes
  split
  · next e => exact absurd e (h _)
  · rfl

theorem dropReply_reply {l : Link} {bytes payload : List Byte} {s : State} {kind tag : Nat}
    (h : s.frameEnd l bytes = some (.good kind tag payload)) (hk : kind ∈ replyKinds) : dropReply l bytes s = s.hunt l := by
  simp [dropReply, h, hk]

theorem dropReply_other {l : Link} {bytes : List Byte} {s : State}
    (h : ∀ kind tag payload, s.frameEnd l bytes = some (.good kind tag payload) → kind ∉ replyKinds) :
    dropReply l bytes s = s := by
  unfold dropReply
  split
  · next kind tag payload e => exact if_neg fun hb => h kind tag payload e (by simpa using hb)
  · rfl

/-- What the catalogue says of each command. -/
theorem fields_of : ∀ c : Instr, Fields.Statement c
  | .powerOn => Fields.powerOn
  | .resetInput => Fields.resetInput
  | .restartAfterReset => Fields.restartAfterReset
  | .identify _ => Fields.identify _
  | .reset _ => Fields.reset _
  | .set _ _ _ => Fields.set _ _ _
  | .get _ _ => Fields.get _ _
  | .save _ => Fields.save _
  | .saveCompletion _ => Fields.saveCompletion _
  | .load _ => Fields.load _
  | .loadCompletion => Fields.loadCompletion
  | .defaults _ => Fields.defaults _
  | .controlRateChange => Fields.controlRateChange
  | .lineAdd _ _ _ _ _ _ => Fields.lineAdd _ _ _ _ _ _
  | .pairAdd _ _ _ _ _ _ _ _ => Fields.pairAdd _ _ _ _ _ _ _ _
  | .lineResize _ _ _ => Fields.lineResize _ _ _
  | .lineCancel _ _ => Fields.lineCancel _ _
  | .lineRemove _ _ => Fields.lineRemove _ _
  | .lineRead _ _ => Fields.lineRead _ _
  | .pieceDefine _ _ _ _ _ _ => Fields.pieceDefine _ _ _ _ _ _
  | .variantDefine _ _ _ _ _ => Fields.variantDefine _ _ _ _ _
  | .variantRows _ _ _ _ _ _ => Fields.variantRows _ _ _ _ _ _
  | .pieceReady _ _ => Fields.pieceReady _ _
  | .pieceErase _ _ => Fields.pieceErase _ _
  | .pieceRead _ _ _ => Fields.pieceRead _ _ _
  | .bankMode _ _ _ => Fields.bankMode _ _ _
  | .hideOpen _ _ _ _ _ => Fields.hideOpen _ _ _ _ _
  | .rows _ _ _ _ _ => Fields.rows _ _ _ _ _
  | .thickness _ _ _ => Fields.thickness _ _ _
  | .flaw _ _ _ _ _ => Fields.flaw _ _ _ _ _
  | .flawsClear _ _ => Fields.flawsClear _ _
  | .mapCommit _ _ => Fields.mapCommit _ _
  | .commitCompletion _ _ => Fields.commitCompletion _ _
  | .hideRead _ _ => Fields.hideRead _ _
  | .placementsRead _ _ _ => Fields.placementsRead _ _ _
  | .discard _ _ _ => Fields.discard _ _ _
  | .close _ _ => Fields.close _ _
  | .nest _ _ _ => Fields.nest _ _ _
  | .nestTake => Fields.nestTake
  | .stopChecks => Fields.stopChecks
  | .fitTest _ => Fields.fitTest _
  | .unitPush => Fields.unitPush
  | .stepEnd => Fields.stepEnd
  | .passEnd _ => Fields.passEnd _
  | .passAbort => Fields.passAbort
  | .place _ _ _ _ _ _ _ => Fields.place _ _ _ _ _ _ _
  | .placePair _ _ _ _ _ _ => Fields.placePair _ _ _ _ _ _
  | .strike _ _ _ => Fields.strike _ _ _
  | .release _ _ _ _ => Fields.release _ _ _ _
  | .hold _ => Fields.hold _
  | .run _ => Fields.run _
  | .cutterEnable _ _ => Fields.cutterEnable _ _
  | .cutterDisable _ _ => Fields.cutterDisable _ _
  | .cutterReset _ _ _ => Fields.cutterReset _ _ _
  | .cutterRead _ _ => Fields.cutterRead _ _
  | .storeRead _ => Fields.storeRead _
  | .attnSummary _ => Fields.attnSummary _
  | .attnRead _ _ => Fields.attnRead _ _
  | .attnClear _ _ _ => Fields.attnClear _ _ _
  | .attentionSend => Fields.attentionSend
  | .ready _ _ _ => Fields.ready _ _ _
  | .cutReport _ _ _ _ _ _ => Fields.cutReport _ _ _ _ _ _
  | .cutterFault _ _ _ _ => Fields.cutterFault _ _ _ _
  | .ticketSend _ => Fields.ticketSend _
  | .ticketAnswer _ _ _ => Fields.ticketAnswer _ _ _
  | .ticketTimeout _ => Fields.ticketTimeout _
  | .deadlineExpiry _ _ => Fields.deadlineExpiry _ _
  | .ticketQuerySend _ => Fields.ticketQuerySend _
  | .queryAnswer _ _ _ _ => Fields.queryAnswer _ _ _ _
  | .queryTimeout _ _ => Fields.queryTimeout _ _
  | .abortHideSend _ => Fields.abortHideSend _
  | .abortAnswer _ _ _ => Fields.abortAnswer _ _ _
  | .abortTimeout _ => Fields.abortTimeout _
  | .unexpectedReply _ _ => Fields.unexpectedReply _ _
  | .lenTooLong _ _ _ => Fields.lenTooLong _ _ _
  | .frameCrcMismatch _ _ => Fields.frameCrcMismatch _ _
  | .interByteGap _ => Fields.interByteGap _
  | .badKindFrame _ _ _ => Fields.badKindFrame _ _ _
  | .frameBegin _ => Fields.frameBegin _
  | .notOnLinkFrame _ _ _ => Fields.notOnLinkFrame _ _ _
  | .replyOnControlOrScannerLink _ => Fields.replyOnControlOrScannerLink _

theorem partnerKinds_lt {l : Link} {kind : Nat} (h : kind ∈ partnerKinds l) : kind < 256 := by
  have host : ∀ k ∈ hostKinds, k < 256 := by decide
  have scanner : ∀ k ∈ scannerKinds, k < 256 := by decide
  have cutter : ∀ k ∈ cutterKinds, k < 256 := by decide
  cases l with
  | control => exact host kind h
  | scanner => exact scanner kind h
  | cutter _ => exact cutter kind h

theorem wellFormed_tag {h : Head} (hw : h.wellFormed = true) : h.tag < 256 := by
  simp only [Head.wellFormed, Bool.and_eq_true] at hw
  simpa [fits1] using hw.1

/-- The frame of a request is a good frame, whose payload has the length of its fields. -/
theorem requestFrame_good {c : Instr} {l : Link} {kind : Nat} {h : Head} {len : Nat} {bytes : List Byte} {s : State}
    (hw : c.wellFormed = true) (hc : asRequest c = some (l, kind, h, len)) (hf : requestFrame c = some bytes)
    (hs : (s.link l).receiver = .hunting) :
    ∃ payload, payload.length = len ∧ s.frameEnd l bytes = some (.good kind h.tag payload) := by
  obtain ⟨hkind, hhead, hpayload, hlen⟩ := fields_of c hw l kind h len hc
  have ha := arrive_requestFrame hc (partnerKinds_lt hkind) (wellFormed_tag hhead) (hpayload ▸ hlen)
  rw [hf, Option.bind_some] at ha
  exact ⟨_, hpayload, frameEnd_of_arrive (hs ▸ ha)⟩

set_option maxRecDepth 8000 in
theorem crc_check_value : crc [0x31, 0x32, 0x33, 0x34, 0x35, 0x36, 0x37, 0x38, 0x39] = 0x29B1 := by decide

/-- Settles O7: the bytes by recursion on them, and the frames that the part's own rules make. -/
theorem framesAreGatheredAndDropped : Obligations.FramesAreGatheredAndDropped := by
  unfold Obligations.FramesAreGatheredAndDropped
  refine ⟨fun dropped bytes h => ⟨arrive_dropped dropped h, rfl⟩, fun r q bytes more => arrive_append bytes more r q,
    fun kind tag a b rest => ⟨arrive_head kind tag a [], arrive_tooLong, arrive_short, fun hn hr => ?_⟩, crc_check_value,
    fun l bytes s => ⟨fun e => frameEnd_of_arrive, fun r h => congrArg _ (takeBytes_going h),
      fun h => congrArg _ (takeBytes_other h)⟩,
    fun l kind tag payload s hs hk ht hp => frameEnd_of_arrive (hs ▸ arrive_frameBytes hk ht hp),
    fun c l kind h len bytes s => requestFrame_good,
    fun l u c tag bytes s => ⟨rfl, fun kind t payload h hk => congrArg _ (dropReply_reply h hk),
      fun h => congrArg _ (dropReply_other h), rfl⟩⟩
  rw [arrive_rest hn hr _ [] (by simp) rfl, checkFrame_eq]

/-! ### The idle step -/

/-- The frames that go on a link with the reply in hand there: those due behind it last. -/
def framesOf (l : Link) (q : InHand) : List Sent :=
  (q.behind.map fun d => ⟨l, d.1, .reply d.2⟩).reverse ++ [⟨l, q.tag, .reply q.reply⟩]

/-- The reply in hand on a link that goes now. -/
def goes (now : InHand → Bool) (v : LinkState) : Option InHand := v.inHand.filter now

/-- The frames that go on a link now. -/
def out (now : InHand → Bool) (l : Link) (v : LinkState) : List Sent := ((goes now v).map (framesOf l)).getD []

/-- A link after the reply that goes now. -/
def freed (now : InHand → Bool) (v : LinkState) : LinkState :=
  if (goes now v).isSome then { v with inHand := none } else v

theorem goes_none {now : InHand → Bool} {v : LinkState} (h : ∀ q, v.inHand = some q → now q = false) :
    goes now v = none := by
  cases hq : v.inHand with
  | none => simp [goes, hq]
  | some q => simp [goes, hq, h q hq]

theorem goes_some {now : InHand → Bool} {v : LinkState} {q : InHand} (hq : v.inHand = some q) (h : now q = true) :
    goes now v = some q := by
  simp [goes, hq, h]

/-- The frames of a link among those sent. -/
def onLink (s : State) (l : Link) : List Sent := s.sent.filter fun f => decide (f.link = l)

theorem out_link {now : InHand → Bool} {l : Link} {v : LinkState} : ∀ f ∈ out now l v, f.link = l := by
  intro f hf
  cases hg : goes now v with
  | none => simp [out, hg] at hf
  | some q =>
    simp only [out, hg, Option.map_some, Option.getD_some, framesOf, List.mem_append, List.mem_reverse, List.mem_map,
      List.mem_singleton] at hf
    rcases hf with ⟨d, _, rfl⟩ | rfl <;> rfl

/-- What sending a reply leaves: all but the links' requests in hand, the frames and the Attention Unit. -/
def OnlySends (s t : State) : Prop :=
  ∃ links attn sent, t = { s with links := links, attn := attn, sent := sent } ∧ links.rate = s.links.rate

theorem OnlySends.refl (s : State) : OnlySends s s := ⟨s.links, s.attn, s.sent, rfl, rfl⟩

theorem OnlySends.trans {s t u : State} (h : OnlySends s t) (k : OnlySends t u) : OnlySends s u := by
  obtain ⟨_, _, _, rfl, h⟩ := h
  obtain ⟨links, attn, sent, rfl, k⟩ := k
  exact ⟨links, attn, sent, rfl, k.trans h⟩

theorem OnlySends.putLink (s : State) (l : Link) (v : LinkState) : OnlySends s (s.putLink l v) := by
  cases l <;> exact ⟨_, _, _, rfl, rfl⟩

theorem OnlySends.lead (s : State) (l : Link) : OnlySends s (s.lead l) := by
  by_cases hl : Leads s l
  · rw [lead_of_leads hl]
    exact ⟨_, _, _, rfl, rfl⟩
  · rw [lead_of_not_leads hl]
    exact .refl s

/-- A reply in hand that is not to go yet, or none. -/
theorem sendReply_stays {l : Link} {now : InHand → Bool} {s : State} (h : goes now (s.link l) = none) :
    sendReply l now s = s := by
  unfold sendReply
  cases hq : (s.link l).inHand with
  | none => rfl
  | some q =>
    have hn : ¬ now q = true := by simpa [goes, hq] using h
    exact if_neg hn

/-- A reply in hand that goes. -/
theorem sendReply_goes {l : Link} {now : InHand → Bool} {s : State} {q : InHand} (h : goes now (s.link l) = some q) :
    sendReply l now s =
      { (s.setInHand l none).lead l with sent := framesOf l q ++ ((s.setInHand l none).lead l).sent } := by
  obtain ⟨hq, hn⟩ := Option.filter_eq_some_iff.mp h
  unfold sendReply
  rw [hq]
  simp only [hn, if_true]
  rw [answer_free _ _ (by simp [State.setInHand]), sendBehind_eq]
  simp [State.send, framesOf]

theorem sendReply_only (l : Link) (now : InHand → Bool) (s : State) : OnlySends s (sendReply l now s) := by
  cases h : goes now (s.link l) with
  | none => rw [sendReply_stays h]; exact .refl s
  | some q =>
    rw [sendReply_goes h]
    exact ((OnlySends.putLink s l _).trans (.lead _ l)).trans ⟨_, _, _, rfl, rfl⟩

theorem sendReply_link_self (l : Link) (now : InHand → Bool) (s : State) :
    (sendReply l now s).link l = freed now (s.link l) := by
  unfold freed
  cases h : goes now (s.link l) with
  | none => rw [sendReply_stays h]; rfl
  | some q =>
    rw [sendReply_goes h]
    exact (link_of_links (lead_links _ l) l).trans (putLink_same ..)

theorem sendReply_link_other {l k : Link} (now : InHand → Bool) (s : State) (hk : k ≠ l) :
    (sendReply l now s).link k = s.link k := by
  cases h : goes now (s.link l) with
  | none => rw [sendReply_stays h]
  | some q =>
    rw [sendReply_goes h]
    exact (link_of_links (lead_links _ l) k).trans (link_putLink_other s _ hk)

theorem setInHand_leads (s : State) (l k : Link) (q : Option InHand) : Leads (s.setInHand l q) k ↔ Leads s k := by
  simp [Leads]

/-- A reply that goes with no ATTENTION frame before it. -/
theorem sendReply_plain {l : Link} {now : InHand → Bool} {s : State} (h : ¬ Leads s l ∨ goes now (s.link l) = none) :
    (sendReply l now s).attn = s.attn ∧ (sendReply l now s).sent = out now l (s.link l) ++ s.sent := by
  unfold out
  cases hg : goes now (s.link l) with
  | none => rw [sendReply_stays hg]; exact ⟨rfl, rfl⟩
  | some q =>
    have hl : ¬ Leads (s.setInHand l none) l :=
      fun k => (h.resolve_right (by simp [hg])) ((setInHand_leads s l l none).mp k)
    rw [sendReply_goes hg, lead_of_not_leads hl]
    simp

/-- The first frame of the control link after a start: the ATTENTION frame goes before the reply. -/
theorem sendReply_led {now : InHand → Bool} {s : State} {q : InHand} (hf : s.attn.first = true)
    (hg : goes now (s.link .control) = some q) :
    (sendReply .control now s).attn =
        { s.attn with waiting := false, first := false, nextTag := (s.attn.nextTag + 1) % 256 } ∧
      (sendReply .control now s).sent =
        framesOf .control q ++ ⟨.control, s.attn.nextTag, .attention s.summary⟩ :: s.sent := by
  have hl : Leads (s.setInHand .control none) .control := ⟨rfl, by simpa using hf⟩
  rw [sendReply_goes hg, lead_of_leads hl]
  exact ⟨rfl, rfl⟩

/-- The links one after another. -/
def sendReplies (now : Link → InHand → Bool) (ls : List Link) (s : State) : State :=
  ls.foldl (fun t l => sendReply l (now l) t) s

theorem sendReplies_only (now : Link → InHand → Bool) (ls : List Link) (s : State) :
    OnlySends s (sendReplies now ls s) :=
  foldl_inv _ (OnlySends s) (fun t l ht => ht.trans (sendReply_only l (now l) t)) ls s (.refl s)

theorem sendReplies_sends (now : Link → InHand → Bool) (ls : List Link) (s : State) :
    Sends s (sendReplies now ls s) :=
  foldl_inv _ (Sends s) (fun t l ht => ht.trans (.sendReply t l (now l))) ls s (.of_same rfl rfl)

theorem sendReplies_link (now : Link → InHand → Bool) (ls : List Link) (hnodup : ls.Nodup) (s : State) (k : Link) :
    (sendReplies now ls s).link k = if k ∈ ls then freed (now k) (s.link k) else s.link k := by
  induction ls generalizing s with
  | nil => rfl
  | cons l t ih =>
    obtain ⟨hl, ht⟩ := List.nodup_cons.mp hnodup
    have hstep : sendReplies now (l :: t) s = sendReplies now t (sendReply l (now l) s) := rfl
    rw [hstep, ih ht]
    by_cases hk : k = l
    · subst hk
      rw [if_neg hl, if_pos (by simp), sendReply_link_self]
    · rw [sendReply_link_other _ _ hk]
      simp [hk]

theorem onLink_append {s : State} {sent : List Sent} {l : Link} (hl : ∀ f ∈ sent, f.link = l) (k : Link) :
    (sent ++ s.sent).filter (fun f => decide (f.link = k)) = (if k = l then sent else []) ++ onLink s k := by
  rw [List.filter_append]
  split
  · next hk => rw [List.filter_eq_self.mpr fun f hf => by simp [hl f hf, hk]]; rfl
  · next hk => rw [List.filter_eq_nil_iff.mpr fun f hf => by simpa [hl f hf] using Ne.symm hk]; rfl

/-- Links that lead no frame. -/
theorem sendReplies_plain (now : Link → InHand → Bool) (ls : List Link) (hnodup : ls.Nodup) (hc : .control ∉ ls)
    (s : State) (k : Link) : (sendReplies now ls s).attn = s.attn ∧
      onLink (sendReplies now ls s) k = (if k ∈ ls then out (now k) k (s.link k) else []) ++ onLink s k := by
  induction ls generalizing s with
  | nil => exact ⟨rfl, rfl⟩
  | cons l t ih =>
    obtain ⟨hl, ht⟩ := List.nodup_cons.mp hnodup
    have hlc : ¬ Leads s l := fun h => hc (by simp [h.1])
    obtain ⟨hattn, hsent⟩ := sendReply_plain (now := now l) (Or.inl hlc)
    obtain ⟨iattn, ilink⟩ := ih ht (fun h => hc (by simp [h])) (sendReply l (now l) s)
    have hstep : sendReplies now (l :: t) s = sendReplies now t (sendReply l (now l) s) := rfl
    have hon : onLink (sendReply l (now l) s) k = (if k = l then out (now l) l (s.link l) else []) ++ onLink s k := by
      unfold onLink
      rw [hsent]
      exact onLink_append out_link k
    rw [hstep]
    refine ⟨iattn.trans hattn, ?_⟩
    rw [ilink, hon]
    by_cases hk : k = l
    · subst hk
      simp [hl]
    · simp [hk, sendReply_link_other _ _ hk]

theorem mem_links (l : Link) : l ∈ Machine.links := by
  cases l with
  | control => decide
  | scanner => decide
  | cutter c => revert c; decide

/-- The reply in hand goes at the idle step. -/
def goesNow (s : State) (l : Link) (q : InHand) : Bool := !resetInHand s && atIdle s l q

theorem goesNow_iff (s : State) (l : Link) (q : InHand) : goesNow s l q = true ↔
    (∀ p, s.links.control.inHand = some p → p.ends ≠ .restart) ∧
      (l = .control → q.begun = true ∨ q.ends = .rateChange → s.settings.controlRate = s.links.rate) := by
  have hreset : resetInHand s = false ↔ ∀ p, s.links.control.inHand = some p → p.ends ≠ .restart := by
    cases h : s.links.control.inHand <;> simp [resetInHand, h, beforeRestart]
  have hidle : atIdle s l q = true ↔
      (l = .control → q.begun = true ∨ q.ends = .rateChange → s.settings.controlRate = s.links.rate) := by
    cases l with
    | control => simp [atIdle, beforeChange, imp_iff_not_or]
    | scanner => simp [atIdle]
    | cutter c => simp [atIdle]
  rw [goesNow, Bool.and_eq_true, Bool.not_eq_true', hreset, hidle]

theorem idle_eq (s : State) : idle s = sendReplies (goesNow s) Machine.links s := by
  cases h : resetInHand s with
  | false =>
    have hnow : goesNow s = atIdle s := by funext l q; simp [goesNow, h]
    rw [hnow, idle, h]
    rfl
  | true =>
    have hnow (l : Link) (t : State) : sendReply l (goesNow s l) t = t :=
      sendReply_stays (goes_none fun q _ => by simp [goesNow, h])
    have hall (ls : List Link) : sendReplies (goesNow s) ls s = s :=
      foldl_inv (fun t l => sendReply l (goesNow s l) t) (· = s) (fun t l ht => (hnow l t).trans ht) ls s rfl
    rw [hall, idle, if_pos h]

theorem idle_link (s : State) (l : Link) : (idle s).link l = freed (goesNow s l) (s.link l) := by
  rw [idle_eq, sendReplies_link _ _ (by decide), if_pos (mem_links l)]

/-- The links behind the control link. -/
def restLinks : List Link := [.scanner, .cutter 0, .cutter 1, .cutter 2, .cutter 3]

theorem idle_rest (s : State) :
    idle s = sendReplies (goesNow s) restLinks (sendReply .control (goesNow s .control) s) := idle_eq s

theorem idle_attn (s : State) : (idle s).attn = (sendReply .control (goesNow s .control) s).attn := by
  rw [idle_rest]
  exact (sendReplies_plain _ _ (by decide) (by decide) _ .control).1

theorem idle_onLink_control (s : State) :
    onLink (idle s) .control = onLink (sendReply .control (goesNow s .control) s) .control := by
  rw [idle_rest, (sendReplies_plain _ _ (by decide) (by decide) _ .control).2, if_neg (by decide)]
  rfl

/-- The reply in hand on the control link would be its first frame. -/
def IdleLeads (s : State) : Prop := s.attn.first = true ∧ ∃ q, goes (goesNow s .control) (s.link .control) = some q

theorem sendReply_control_plain {s : State} (h : ¬ IdleLeads s) :
    (sendReply .control (goesNow s .control) s).attn = s.attn ∧
      (sendReply .control (goesNow s .control) s).sent =
        out (goesNow s .control) .control (s.link .control) ++ s.sent := by
  refine sendReply_plain ?_
  by_cases hf : s.attn.first = true
  · exact Or.inr (Option.eq_none_iff_forall_ne_some.mpr fun q hq => h ⟨hf, q, hq⟩)
  · exact Or.inl fun k => hf k.2

theorem idle_onLink_other (s : State) {l : Link} (hl : l ≠ .control) :
    onLink (idle s) l = out (goesNow s l) l (s.link l) ++ onLink s l := by
  have hrest : l ∈ restLinks := by simpa [Machine.links, restLinks, hl] using mem_links l
  have hcontrol : onLink (sendReply .control (goesNow s .control) s) l = onLink s l := by
    unfold onLink
    by_cases h : IdleLeads s
    · obtain ⟨hf, q, hq⟩ := h
      have hall : ∀ f ∈ framesOf .control q ++ [⟨.control, s.attn.nextTag, .attention s.summary⟩], f.link = .control := by
        have hout := out_link (now := goesNow s .control) (l := .control) (v := s.link .control)
        simp only [out, hq, Option.map_some, Option.getD_some] at hout
        intro f hf
        rcases List.mem_append.mp hf with hf | hf
        · exact hout f hf
        · rw [List.mem_singleton.mp hf]
      rw [(sendReply_led hf hq).2, List.append_cons, onLink_append hall l, if_neg hl]
      rfl
    · rw [(sendReply_control_plain h).2, onLink_append out_link l, if_neg hl]
      rfl
  rw [idle_rest, (sendReplies_plain _ _ (by decide) (by decide) _ l).2, if_pos hrest, hcontrol,
    sendReply_link_other _ _ hl]

theorem idle_plain {s : State} (h : ¬ IdleLeads s) : (idle s).attn = s.attn ∧
    ∀ l, onLink (idle s) l = out (goesNow s l) l (s.link l) ++ onLink s l := by
  obtain ⟨hattn, hsent⟩ := sendReply_control_plain h
  refine ⟨(idle_attn s).trans hattn, fun l => ?_⟩
  by_cases hl : l = .control
  · subst hl
    rw [idle_onLink_control, onLink, hsent, onLink_append out_link, if_pos rfl]
  · exact idle_onLink_other s hl

theorem idle_led {s : State} {q : InHand} (hf : s.attn.first = true)
    (hq : goes (goesNow s .control) (s.link .control) = some q) :
    (idle s).attn = { s.attn with waiting := false, first := false, nextTag := (s.attn.nextTag + 1) % 256 } ∧
      onLink (idle s) .control =
        framesOf .control q ++ ⟨.control, s.attn.nextTag, .attention s.summary⟩ :: onLink s .control := by
  obtain ⟨hattn, hsent⟩ := sendReply_led hf hq
  refine ⟨(idle_attn s).trans hattn, ?_⟩
  have hout := out_link (now := goesNow s .control) (l := .control) (v := s.link .control)
  simp only [out, hq, Option.map_some, Option.getD_some] at hout
  rw [idle_onLink_control, onLink, hsent, List.filter_append, List.filter_eq_self.mpr fun f hf => by simp [hout f hf]]
  rfl

/-- A link whose reply does not go. -/
theorem idle_kept {s : State} {l : Link} (h : goes (goesNow s l) (s.link l) = none) :
    (idle s).link l = s.link l ∧ onLink (idle s) l = onLink s l := by
  have hout : out (goesNow s l) l (s.link l) = [] := by rw [out, h]; rfl
  refine ⟨by rw [idle_link, freed, h]; rfl, ?_⟩
  by_cases hl : l = .control
  · subst hl
    have hn : ¬ IdleLeads s := fun ⟨_, q, hq⟩ => by rw [h] at hq; cases hq
    rw [(idle_plain hn).2, hout, List.nil_append]
  · rw [idle_onLink_other s hl, hout, List.nil_append]

/-- A link whose reply goes. -/
theorem idle_sent {s : State} {l : Link} {q : InHand} (h : goes (goesNow s l) (s.link l) = some q) :
    ((idle s).link l).inHand = none ∧
      (l ≠ .control ∨ ¬ IdleLeads s → onLink (idle s) l = framesOf l q ++ onLink s l) := by
  have hout : out (goesNow s l) l (s.link l) = framesOf l q := by rw [out, h]; rfl
  refine ⟨by rw [idle_link, freed, h]; rfl, fun hk => ?_⟩
  rcases hk with hl | hn
  · rw [idle_onLink_other s hl, hout]
  · rw [(idle_plain hn).2, hout]

/-- Settles O2: the idle step as the links one after another, the control link first. -/
theorem anEmptyQueueSendsTheReplies : Obligations.AnEmptyQueueSendsTheReplies := by
  unfold Obligations.AnEmptyQueueSendsTheReplies
  intro s hs due leads lead on
  have hdue (l : Link) (q : InHand) : due l q ↔ goesNow s l q = true := (goesNow_iff s l q).symm
  have hleads : leads ↔ IdleLeads s := by
    refine and_congr_right fun _ => exists_congr fun q => ?_
    rw [hdue, goes, Option.filter_eq_some_iff]
    rfl
  have hstep : step s = .next (idle s) := by rw [step, hs]
  have honly : ∃ links attn sent, idle s = { s with links := links, attn := attn, sent := sent } ∧
      links.rate = s.links.rate := by rw [idle_eq]; exact sendReplies_only ..
  obtain ⟨links, attn, sent, honly, hrate⟩ := honly
  refine ⟨idle s, hstep, ?_, by rw [honly], by rw [honly]; exact hrate, fun h => ?_,
    fun h => (idle_plain (fun k => h (hleads.mpr k))).1, fun l => ⟨?_, fun hn => ?_, fun q hq => ⟨fun h => ?_, fun h => ?_⟩⟩⟩
  · rw [idle_eq]
    exact (sendReplies_sends ..).2
  · obtain ⟨hf, q, hq⟩ := hleads.mp h
    exact (idle_led hf hq).1
  · rw [idle_link, freed]
    split <;> rfl
  · have hkept := idle_kept (s := s) (l := l) (goes_none fun q hq => by rw [hn] at hq; cases hq)
    exact ⟨by rw [hkept.1, hn], hkept.2⟩
  · have hnot : goesNow s l q = false := by simpa [hdue] using h
    have hkept := idle_kept (s := s) (l := l) (goes_none fun p hp => by rw [hq] at hp; cases hp; exact hnot)
    exact ⟨by rw [hkept.1, hq], hkept.2⟩
  · obtain ⟨hnone, hplain⟩ := idle_sent (goes_some hq ((hdue l q).mp h))
    refine ⟨hnone, fun hl hlead => ?_, fun hk => hplain (hk.imp_right fun k => fun hi => k (hleads.mpr hi))⟩
    subst hl
    exact (idle_led (hleads.mp hlead).1 (goes_some hq ((hdue .control q).mp h))).2

end Sys2Proof.Proofs.Links
end

section
/-! The statements about the start, the settings and the profile store (chapter 12). -/

namespace Sys2Proof.Proofs.Profile

open Sys2Proof.Machine Sys2Proof.Laws

/-! ### The values of the settings -/

theorem map_inRange {lo hi v : Nat} (f : Nat → Settings) :
    (inRange lo hi v).map f = if lo ≤ v ∧ v ≤ hi then some (f v) else none := by
  unfold inRange
  split <;> rfl

theorem map_inRange_zero {hi v : Nat} (f : Nat → Settings) :
    (inRange 0 hi v).map f = if v ≤ hi then some (f v) else none := by
  simp [map_inRange]

theorem map_rateOf {v : Nat} (f : Nat → Settings) : (rateOf v).map f =
    if v = 57600 ∨ v = 115200 ∨ v = 230400 ∨ v = 460800 ∨ v = 921600 then some (f v) else none := by
  by_cases h : v = 57600 ∨ v = 115200 ∨ v = 230400 ∨ v = 460800 ∨ v = 921600 <;> simp [rateOf, h]

theorem map_onOff {v : Nat} (f : Bool → Settings) :
    (onOff v).map f = if v ≤ 1 then some (f (v == 1)) else none := by
  match v with
  | 0 => rfl
  | 1 => rfl
  | n + 2 => simp [onOff]

theorem map_attnModeOf {v : Nat} (f : AttnMode → Settings) :
    (attnModeOf v).map f = if v = 0 then some (f .edge) else if v = 1 then some (f .each) else none := by
  match v with
  | 0 => rfl
  | 1 => rfl
  | n + 2 => simp [attnModeOf]

theorem map_pickOf {v : Nat} (f : Pick → Settings) :
    (pickOf v).map f = if v = 0 then some (f .lowest) else if v = 1 then some (f .rotate) else none := by
  match v with
  | 0 => rfl
  | 1 => rfl
  | n + 2 => simp [pickOf]

theorem map_overdueOf {v : Nat} (f : Overdue → Settings) :
    (overdueOf v).map f = if v = 0 then some (f .wait) else if v = 1 then some (f .fail) else none := by
  match v with
  | 0 => rfl
  | 1 => rfl
  | n + 2 => simp [overdueOf]

theorem with_unknown (g : Settings) (v : Nat) {code : Nat} (h : code = 0 ∨ 23 < code) : g.with v code = none := by
  unfold Settings.with
  split
  case h_24 => rfl
  all_goals omega

/-- Settles O8: each code by the range of its setting. -/
theorem settingRangesAndDefaultsAreAsTheTableGives : Obligations.SettingRangesAndDefaultsAreAsTheTableGives := by
  unfold Obligations.SettingRangesAndDefaultsAreAsTheTableGives
  refine ⟨by decide, fun g v => ⟨map_inRange_zero _, map_inRange_zero _, map_inRange_zero _, map_inRange_zero _,
    map_inRange_zero _, map_inRange_zero _, map_inRange_zero _, map_inRange_zero _, map_inRange_zero _,
    map_inRange_zero _, map_inRange _, map_onOff _, map_attnModeOf _, map_inRange _, map_pickOf _, map_inRange _,
    map_inRange _, map_inRange _, map_inRange _, map_inRange _, map_inRange _, map_overdueOf _, map_rateOf _,
    fun code => with_unknown g v⟩⟩

theorem of_inRange {lo hi v n : Nat} (h : inRange lo hi v = some n) : n = v := by
  unfold inRange at h
  split at h
  · exact (Option.some.inj h).symm
  · cases h

theorem of_rateOf {v n : Nat} (h : rateOf v = some n) : n = v := by
  unfold rateOf at h
  split at h
  · exact (Option.some.inj h).symm
  · cases h

/-- A setting given a value has it. -/
theorem value_of_with {g g' : Settings} {v code : Nat} (h : g.with v code = some g') : g'.value code = v := by
  unfold Settings.with at h
  split at h
  case h_24 => cases h
  all_goals obtain ⟨n, hn, rfl⟩ := Option.map_eq_some_iff.mp h
  case h_12 => unfold onOff at hn; split at hn <;> cases hn <;> rfl
  case h_13 => unfold attnModeOf at hn; split at hn <;> cases hn <;> rfl
  case h_15 => unfold pickOf at hn; split at hn <;> cases hn <;> rfl
  case h_22 => unfold overdueOf at hn; split at hn <;> cases hn <;> rfl
  case h_23 => exact of_rateOf hn
  all_goals exact of_inRange hn

/-! ### Reset and start -/

/-- Settles O9: every component of the state after reset. -/
theorem resetLeavesThePartEmpty : Obligations.ResetLeavesThePartEmpty := by
  unfold Obligations.ResetLeavesThePartEmpty
  refine ⟨rfl, rfl, fun slot => ?_, by decide, rfl, rfl, rfl, rfl, by decide, rfl, rfl, fun c => ?_, by decide, by decide,
    rfl, rfl, fun l => ?_, rfl⟩
  · unfold State.bankOf
    cases h : State.reset.library.banks[slot / 32]? with
    | none => rfl
    | some m =>
      obtain ⟨hlt, rfl⟩ := Vector.getElem?_eq_some_iff.mp h
      exact Vector.getElem_replicate hlt
  · revert c; decide
  · cases l with
    | control => rfl
    | scanner => rfl
    | cutter c => revert c; decide

theorem start_eq (s : State) : start s =
    s.started (startImage s.profile) (startSettings (startImage s.profile)) (startEvent (startImage s.profile)) := rfl

theorem startImage_saving {p : Profile} {w : Settings} (h : p.busy = .saving w) : startImage p = .bad := by
  simp [startImage, h]

theorem startImage_other {p : Profile} (h : ∀ w, p.busy ≠ .saving w) : startImage p = p.image := by
  unfold startImage
  split
  · next w e => exact absurd e (h w)
  · rfl

theorem startImage_bad {p : Profile} (h : p.image = .bad) : startImage p = .bad := by
  unfold startImage
  split
  · rfl
  · exact h

theorem restartAfterReset_reset {s : State} {q : InHand} (hq : s.links.control.inHand = some q)
    (he : q.ends = .restart) :
    restartAfterReset s = start ((s.setInHand .control none).answer .control q.tag q.reply) := by
  have hf : s.links.control.inHand.filter beforeRestart = some q :=
    Option.filter_eq_some_iff.mpr ⟨hq, decide_eq_true he⟩
  rw [restartAfterReset, hf]

theorem restartAfterReset_other {s : State} (h : ∀ q, s.links.control.inHand = some q → q.ends ≠ .restart) :
    restartAfterReset s = s := by
  have hn : s.links.control.inHand.filter beforeRestart = none :=
    Option.filter_eq_none_iff.mpr fun q hq => by simpa [beforeRestart] using h q hq
  rw [restartAfterReset, hn]

/-- A start begins from the part as it stands, or as RESET's reply leaves it. -/
def Starts (c : Instr) (s u : State) : Prop :=
  (c = .powerOn ∨ c = .resetInput) ∧ u = s ∨
    c = .restartAfterReset ∧ ∃ q, s.links.control.inHand = some q ∧ q.ends = .restart ∧
      u = (s.setInHand .control none).answer .control q.tag q.reply

theorem Starts.exec {c : Instr} {s u : State} (h : Starts c s u) : exec c s = .next (start u) := by
  rcases h with ⟨rfl | rfl, rfl⟩ | ⟨rfl, q, hq, he, rfl⟩
  · rfl
  · rfl
  · exact congrArg _ (restartAfterReset_reset hq he)

theorem Starts.profile {c : Instr} {s u : State} (h : Starts c s u) : u.profile = s.profile := by
  rcases h with ⟨_, rfl⟩ | ⟨_, q, _, _, rfl⟩
  · rfl
  · simp

/-- Settles O10: the image that a start reads decides what it puts in force. -/
theorem aStartPutsTheProfileInForce : Obligations.AStartPutsTheProfileInForce := by
  unfold Obligations.AStartPutsTheProfileInForce
  refine ⟨fun c s u (h : Starts c s u) => ⟨fun g hg hw => ?_, fun hb => ?_, fun w hw => ?_⟩,
    fun s h => congrArg _ (restartAfterReset_other h), fun h s ht => congrArg _ (requestUntil_some _ _ ht rfl)⟩
  all_goals rw [h.exec, start_eq, h.profile]
  · rw [startImage_other hw, hg]; rfl
  · rw [startImage_bad hb]; rfl
  · rw [startImage_saving hw]; rfl

/-! ### Settings put in force -/

theorem settingCode_iff (code : Nat) : settingCode code = true ↔ 1 ≤ code ∧ code ≤ 23 := by
  simp [settingCode]

theorem settingCode_unknown {code : Nat} (h : code = 0 ∨ 23 < code) : settingCode code = false := by
  rw [Bool.eq_false_iff, Ne, settingCode_iff]
  omega

theorem setBody_unknown {code : Nat} (v : Nat) (s : State) (h : code = 0 ∨ 23 < code) :
    setBody code v s = (s, .refuse .range 0) := by
  rw [setBody, settingCode_unknown h]
  rfl

theorem setBody_outside {code v : Nat} {s : State} (h1 : 1 ≤ code) (h2 : code ≤ 23) (hw : s.settings.with v code = none) :
    setBody code v s = (s, .refuse .range 1) := by
  rw [setBody, if_pos ((settingCode_iff code).mpr ⟨h1, h2⟩), hw]
  rfl

theorem settingCode_of_with {g g' : Settings} {v code : Nat} (hw : g.with v code = some g') : settingCode code = true := by
  by_contra h
  rw [settingCode_iff] at h
  rw [with_unknown g v (by omega)] at hw
  cases hw

theorem setBody_taken {code v : Nat} {s : State} {g : Settings} (hw : s.settings.with v code = some g)
    (ho : g.ordered = true) : setBody code v s = (putInForce g s, .accept (.setting code v)) := by
  rw [setBody, if_pos (settingCode_of_with hw), hw]
  simp only [ho, if_true, value_of_with hw]

theorem setBody_disordered {code v : Nat} {s : State} {g : Settings} (hw : s.settings.with v code = some g)
    (ho : ¬ g.ordered = true) : setBody code v s = (s, .refuse .range 2) := by
  rw [setBody, if_pos (settingCode_of_with hw), hw]
  exact if_neg ho

theorem rateEnd_putInForce (g : Settings) (s : State) :
    rateEnd (putInForce g s) = if g.controlRate = s.links.rate then none else some .rateChange := by
  simp [rateEnd, State.settings, putInForce_profile]

/-- A request that may change the control link's rate, whose work is known. -/
theorem rate_request_changes {kind len : Nat} {h : Head} {s : State} {body : State → State × Reply} {g : Settings}
    {r : Reply} (ht : s.takes .control h len) (hb : body (s.hunt .control) = (putInForce g (s.hunt .control), r)) :
    requestUntil rateEnd .control kind h len body s =
      if g.controlRate = s.links.rate then (putInForce g (s.hunt .control)).replied .control kind h r
      else (putInForce g (s.hunt .control)).repliedUntil .control kind h .rateChange r := by
  have he : rateEnd (body (s.hunt .control)).1 = if g.controlRate = s.links.rate then none else some .rateChange := by
    rw [hb, rateEnd_putInForce, hunt_rate]
  split
  · next hr => rw [requestUntil_none kind body ht (by rw [he, if_pos hr]), hb]
  · next hr => rw [requestUntil_some kind body ht (by rw [he, if_neg hr]), hb]

theorem rate_request_refused {kind len : Nat} {h : Head} {s : State} {body : State → State × Reply} {r : Reply}
    (ht : s.takes .control h len) (hrate : s.settings.controlRate = s.links.rate)
    (hb : body (s.hunt .control) = (s.hunt .control, r)) :
    requestUntil rateEnd .control kind h len body s = (s.hunt .control).replied .control kind h r := by
  have he : rateEnd (body (s.hunt .control)).1 = none := by
    rw [hb, rateEnd, hunt_settings, hunt_rate, if_pos hrate]
  rw [requestUntil_none kind body ht he, hb]

/-- The settings of a state replaced, and nothing else. -/
def held (g : Settings) (s : State) : State := { s with profile := { s.profile with settings := g } }

theorem marksChanged_iff (a b : Settings) :
    marksChanged a b = true ↔ ¬ (b.frameLow = a.frameLow ∧ b.frameResume = a.frameResume) := by
  simp only [marksChanged, Bool.or_eq_true, decide_eq_true_eq]
  omega

theorem arbiterChanged_iff (a b : Settings) :
    arbiterChanged a b = true ↔ ¬ (b.rushRatio = a.rushRatio ∧ b.pick = a.pick) := by
  simp only [arbiterChanged, Bool.or_eq_true, decide_eq_true_eq]
  rw [not_and_or, ne_comm, ne_comm (a := a.pick)]

/-- The four outcomes of settings put in force, by what changed. -/
theorem putInForce_eq (g : Settings) (s : State) : putInForce g s =
    let u := if ¬ (g.frameLow = s.settings.frameLow ∧ g.frameResume = s.settings.frameResume) then (held g s).markEval
      else held g s
    if ¬ (g.rushRatio = s.settings.rushRatio ∧ g.pick = s.settings.pick) then u.evaluate else u := by
  simp only [← marksChanged_iff, ← arbiterChanged_iff]
  rfl

/-- The evaluation of the throttle after a change of the marks. -/
theorem markEval_held (g : Settings) (s : State) :
    (held g s).markEval =
      if s.free < g.frameLow then
        if s.grid.throttle = .normal then
          State.raise (.store .throttleOn) { held g s with grid := { s.grid with throttle := .throttled } }
        else held g s
      else if g.frameResume ≤ s.free ∧ s.grid.throttle = .throttled then
        State.raise (.store .throttleOff) { held g s with grid := { s.grid with throttle := .normal } }
      else held g s := by
  have hfree : (held g s).free = s.free := rfl
  have hsettings : (held g s).settings = g := rfl
  have hthrottle : (held g s).grid.throttle = s.grid.throttle := rfl
  unfold State.markEval State.toThrottled State.toNormal
  rw [hfree, hsettings, hthrottle]
  cases s.grid.throttle <;> simp <;> rfl

theorem getBody_known {code : Nat} {s : State} (h1 : 1 ≤ code) (h2 : code ≤ 23) :
    getBody code s = (s, .accept (.setting code (s.settings.value code))) :=
  if_pos ((settingCode_iff code).mpr ⟨h1, h2⟩)

theorem getBody_unknown {code : Nat} (s : State) (h : code = 0 ∨ 23 < code) : getBody code s = (s, .refuse .range 0) := by
  rw [getBody, settingCode_unknown h]
  rfl

/-- Settles O11: SET and GET by their checks, and the two evaluations that settings put in force may make. -/
theorem settingsArePutInForceAndRead : Obligations.SettingsArePutInForceAndRead := by
  unfold Obligations.SettingsArePutInForceAndRead
  refine ⟨fun h code v s ht => ⟨fun g hw ho => ?_, fun g hw ho hrate => ?_, fun hc hrate => ?_, fun h1 h2 hw hrate => ?_⟩,
    fun g s => ⟨putInForce_profile g s, fun hm ha => ?_, fun hm ha => ?_, fun hm ha => ?_, fun hm ha => ?_⟩,
    fun h code s ht => ⟨fun h1 h2 => ?_, fun hc => ?_⟩⟩
  · exact congrArg _ (rate_request_changes ht (setBody_taken (by simpa using hw) ((ord_iff g).mp ho)))
  · exact congrArg _ (rate_request_refused ht hrate
      (setBody_disordered (by simpa using hw) fun k => ho ((ord_iff g).mpr k)))
  · exact congrArg _ (rate_request_refused ht hrate (setBody_unknown v _ hc))
  · exact congrArg _ (rate_request_refused ht hrate (setBody_outside h1 h2 (by simpa using hw)))
  · rw [putInForce_eq]
    simp only [hm, ha, and_self, not_true_eq_false, if_false]
    rfl
  · rw [putInForce_eq]
    simp only [hm, ha, and_self, not_true_eq_false, not_false_eq_true, if_false, if_true]
    exact markEval_held g s
  · rw [putInForce_eq]
    simp only [hm, ha, and_self, not_true_eq_false, not_false_eq_true, if_false, if_true]
    rfl
  · rw [putInForce_eq]
    simp only [hm, ha, not_false_eq_true, if_true]
    exact congrArg State.evaluate (markEval_held g s)
  · exact congrArg _ (request_next 0x04 _ _ _ ht (getBody_known h1 h2 ))
  · exact congrArg _ (request_next 0x04 _ _ _ ht (getBody_unknown _ hc))

/-! ### The profile store's operations -/

theorem putInForce_settings (g : Settings) (s : State) : (putInForce g s).settings = g := by
  rw [State.settings, putInForce_profile]

theorem putInForce_rate (g : Settings) (s : State) : (putInForce g s).links.rate = s.links.rate := by
  rw [putInForce_links]

theorem saveBody_idle {s : State} (h : s.profile.busy = .idle) :
    saveBody s = (setBusy (.saving s.settings) s, .accept .nothing) := by
  rw [saveBody, h]
  rfl

theorem loadBody_idle {s : State} (h : s.profile.busy = .idle) : loadBody s = (setBusy .loading s, .accept .nothing) := by
  rw [loadBody, h]
  rfl

theorem saveBody_saving {s : State} {g : Settings} (h : s.profile.busy = .saving g) :
    saveBody s = (s, .refuse .busy 1) := by
  rw [saveBody, h]
  rfl

theorem loadBody_saving {s : State} {g : Settings} (h : s.profile.busy = .saving g) :
    loadBody s = (s, .refuse .busy 1) := by
  rw [loadBody, h]
  rfl

theorem saveBody_loading {s : State} (h : s.profile.busy = .loading) : saveBody s = (s, .refuse .busy 2) := by
  rw [saveBody, h]
  rfl

theorem loadBody_loading {s : State} (h : s.profile.busy = .loading) : loadBody s = (s, .refuse .busy 2) := by
  rw [loadBody, h]
  rfl

theorem saveCompletion_saving {s : State} {g : Settings} (passes : Bool) (h : s.profile.busy = .saving g) :
    saveCompletion passes s =
      if passes then State.raise (.profile .saved) { s with profile := { s.profile with image := .good g, busy := .idle } }
      else State.raise (.profile .saveFailed) { s with profile := { s.profile with image := .bad, busy := .idle } } := by
  rw [saveCompletion, h]

/-- The busy state and the raise of an event do not touch one another. -/
theorem setBusy_raise (b : Busy) (s : State) (e : Event) : setBusy b (s.raise e) = (setBusy b s).raise e := by
  have hmode : (setBusy b s).settings.attnMode = s.settings.attnMode := rfl
  have hpending : (setBusy b s).anyPending = s.anyPending := rfl
  unfold State.raise State.frameDue
  rw [hmode, hpending]
  cases s.settings.attnMode <;> cases s.anyPending <;> rfl

theorem loadCompletion_bad {s : State} (h : s.profile.busy = .loading) (hb : s.profile.image = .bad) :
    loadCompletion s = (setBusy .idle s).raise (.profile .loadFailed) := by
  rw [loadCompletion, h, hb, ← setBusy_raise]

theorem loadCompletion_good {s : State} {g : Settings} (h : s.profile.busy = .loading) (hg : s.profile.image = .good g) :
    loadCompletion s = setBusy .idle ((loadRate (putInForce g s)).raise (.profile .loaded)) := by
  rw [loadCompletion, h, hg]

/-- A reply in hand on the control link that a completed LOAD's rate waits for. -/
def Sending (s : State) : Prop := ∃ q, s.links.control.inHand = some q ∧ (q.begun = true ∨ q.ends ≠ .idle)

theorem sending_iff (s : State) :
    (s.links.control.inHand.any beforeChange || resetInHand s) = true ↔ Sending s := by
  unfold Sending resetInHand
  cases h : s.links.control.inHand with
  | none => simp
  | some q => cases he : q.ends <;> simp [beforeChange, beforeRestart, he]

theorem switchRate_same {s : State} (h : s.settings.controlRate = s.links.rate) : switchRate s = s := if_pos h

theorem switchRate_moved {s : State} (h : s.settings.controlRate ≠ s.links.rate) : switchRate s =
    { s with links :=
      { s.links with rate := s.settings.controlRate, control := { s.links.control with receiver := .hunting } } } :=
  if_neg h

theorem loadRate_waits {s : State} (h : s.settings.controlRate = s.links.rate ∨ Sending s) : loadRate s = s := by
  unfold loadRate
  split
  · rfl
  · next hn => exact switchRate_same (h.resolve_right fun k => hn ((sending_iff s).mpr k))

theorem loadRate_moved {s : State} (h : s.settings.controlRate ≠ s.links.rate) (hs : ¬ Sending s) : loadRate s =
    { s with links :=
      { s.links with rate := s.settings.controlRate, control := { s.links.control with receiver := .hunting } } } := by
  unfold loadRate
  rw [if_neg fun k => hs ((sending_iff s).mp k), switchRate_moved h]

theorem sending_putInForce (g : Settings) (s : State) : Sending (putInForce g s) ↔ Sending s := by
  unfold Sending
  rw [putInForce_links]

theorem controlRateChange_stays {s : State} (h : s.settings.controlRate = s.links.rate ∨ resetInHand s = true) :
    controlRateChange s = s := if_pos h

theorem controlRateChange_changes {s : State} (h : s.settings.controlRate ≠ s.links.rate)
    (hr : resetInHand s = false) : controlRateChange s = switchRate (sendReply .control beforeChange s) :=
  if_neg (by simp [h, hr])

theorem resetInHand_iff (s : State) :
    resetInHand s = true ↔ ∃ q, s.links.control.inHand = some q ∧ q.ends = .restart := by
  unfold resetInHand
  cases s.links.control.inHand <;> simp [beforeRestart]

theorem beforeChange_iff (q : InHand) : beforeChange q = true ↔ q.begun = true ∨ q.ends = .rateChange := by
  simp [beforeChange]

theorem sendReply_before {s : State} {q : InHand} (hq : s.links.control.inHand = some q) (hb : beforeChange q = true) :
    sendReply .control beforeChange s =
      { (s.setInHand .control none).answer .control q.tag q.reply with
        sent := (q.behind.map fun d => ⟨.control, d.1, .reply d.2⟩).reverse ++
          ((s.setInHand .control none).answer .control q.tag q.reply).sent } := by
  have hq' : (s.link .control).inHand = some q := hq
  rw [sendReply, hq']
  simp only [hb, if_true, sendBehind_eq]

theorem sendReply_none {s : State} (h : ∀ q, s.links.control.inHand = some q → ¬ beforeChange q = true) :
    sendReply .control beforeChange s = s := by
  unfold sendReply
  split
  · rfl
  · next q hq => exact if_neg (h q hq)

/-- Settles O12: the store's operations by its busy state, and the change of the control link's rate. -/
theorem profileOperationsBeginAndComplete : Obligations.ProfileOperationsBeginAndComplete := by
  unfold Obligations.ProfileOperationsBeginAndComplete
  refine ⟨fun h s ht => ⟨fun hb => ⟨?_, ?_⟩, fun g hb => ⟨?_, ?_⟩, fun hb => ⟨?_, ?_⟩, ?_⟩,
    fun g s => ⟨fun hb => ⟨?_, ?_⟩, fun hb hi => ?_, fun hb hg => ⟨fun hr => ?_, fun hr hs => ?_⟩⟩,
    fun kind h r s hs => ?_, fun s => ⟨fun hr hn => ⟨fun q hq hb => ?_, fun hb => ?_⟩, fun hk => ?_⟩⟩
  · exact congrArg _ (request_next 0x05 _ _ _ ht (saveBody_idle (by simpa using hb)))
  · exact congrArg _ (request_next 0x06 _ _ _ ht (loadBody_idle (by simpa using hb)))
  · exact congrArg _ (request_next 0x05 _ _ _ ht (saveBody_saving (by simpa using hb)))
  · exact congrArg _ (request_next 0x06 _ _ _ ht (loadBody_saving (by simpa using hb)))
  · exact congrArg _ (request_next 0x05 _ _ _ ht (saveBody_loading (by simpa using hb)))
  · exact congrArg _ (request_next 0x06 _ _ _ ht (loadBody_loading (by simpa using hb)))
  · have hrequest := rate_request_changes (kind := 0x07) (body := defaultsBody) (g := Settings.fixed) ht rfl
    exact congrArg Host.Outcome.next (hrequest.trans (if_congr eq_comm rfl rfl))
  · exact congrArg _ (saveCompletion_saving true hb)
  · exact congrArg _ (saveCompletion_saving false hb)
  · exact congrArg _ (loadCompletion_bad hb hi)
  · refine congrArg _ ((loadCompletion_good hb hg).trans ?_)
    rw [loadRate_waits]
    rwa [putInForce_settings, putInForce_rate, sending_putInForce]
  · refine congrArg _ ((loadCompletion_good hb hg).trans ?_)
    rw [loadRate_moved (by rwa [putInForce_settings, putInForce_rate]) (by rwa [sending_putInForce]),
      putInForce_settings, putInForce_links]
  · rw [State.replied, if_pos hs]
    rfl
  · have hreset : resetInHand s = false := by
      rw [Bool.eq_false_iff, Ne, resetInHand_iff]
      exact fun ⟨q, hq, he⟩ => hn q hq he
    refine congrArg _ ((controlRateChange_changes hr hreset).trans ?_)
    obtain ⟨_, _, _, e, hrate⟩ := Links.sendReply_only .control beforeChange s
    have hrate' : (sendReply .control beforeChange s).links.rate = s.links.rate := by rw [e]; exact hrate
    have hset : (sendReply .control beforeChange s).settings = s.settings := by rw [e]; rfl
    rw [switchRate_moved (by rwa [hset, hrate']), hset, sendReply_before hq ((beforeChange_iff q).mpr hb)]
  · have hreset : resetInHand s = false := by
      rw [Bool.eq_false_iff, Ne, resetInHand_iff]
      exact fun ⟨q, hq, he⟩ => hn q hq he
    refine congrArg _ ((controlRateChange_changes hr hreset).trans ?_)
    rw [sendReply_none fun q hq k => hb q hq ((beforeChange_iff q).mp k), switchRate_moved hr]
  · exact congrArg _ (controlRateChange_stays (hk.imp_right (resetInHand_iff s).mpr))

end Sys2Proof.Proofs.Profile
end

section
/-! The requests that resize, cancel and remove lines (R14 to R16). -/

namespace Sys2Proof.Proofs.Orders

open Sys2Proof.Machine Sys2Proof.Laws Sys2Proof.Proofs.Book

/-! ### The mirror line -/

theorem onPair_single {l : Line} (hp : l.pair = none) (id : Nat) (f : Nat → State → State) (s : State) :
    s.onPair id l f = f id s := by
  rw [State.onPair, hp]

theorem onPair_paired {l : Line} {p : Pairing} (hp : l.pair = some p) (id : Nat) (f : Nat → State → State) (s : State) :
    s.onPair id l f = f p.mirror (f id s) := by
  rw [State.onPair, hp]

theorem mirrorOf_single (s : State) {l : Line} (hp : l.pair = none) : s.mirrorOf l = none := by
  rw [State.mirrorOf, hp]
  rfl

theorem mirrorOf_paired {s : State} {l m : Line} {p : Pairing} (hp : l.pair = some p) (hm : s.line p.mirror = some m) :
    s.mirrorOf l = some (p.mirror, some m) := by
  rw [State.mirrorOf, hp, Option.map_some, hm]

theorem onMirror_some (k : Nat) (m : Line) (ok : Line → Bool) : onMirror (some (k, some m)) ok = ok m := rfl

/-! ### LINE_RESIZE (R14) -/

theorem lineResizeBody_single {s : State} {id n : Nat} {l : Line} (hl : s.line id = some l) (ha : l.state = .active)
    (hnotice : l.notice = false) (hn : orderedOk n = true) (hh : l.held ≤ n) (hp : l.pair = none) :
    lineResizeBody id n s = (s.noticed id l (l.resized n), .accept (.line id (l.resized n))) := by
  unfold lineResizeBody
  simp only [hl, mirrorOf_single s hp]
  rw [checked_pass (decide_eq_true ha), checked_pass (by rfl), checked_pass hn, checked_pass (decide_eq_true hh),
    checked_pass (by rfl), checked_nil, onPair_single hp, resizeLine_noticed s id n l hl ha hnotice hh,
    lineResult_single (noticed_self ..) ((resized_pair l n).trans hp)]

theorem lineResizeBody_paired {s : State} {id n : Nat} {l m : Line} {p : Pairing} (hl : s.line id = some l)
    (ha : l.state = .active) (hnotice : l.notice = false) (hn : orderedOk n = true) (hh : l.held ≤ n)
    (hp : l.pair = some p) (hne : p.mirror ≠ id) (hm : s.line p.mirror = some m) (hma : m.state = .active)
    (hmnotice : m.notice = false) (hmh : m.held ≤ n) :
    lineResizeBody id n s =
      ((s.noticed id l (l.resized n)).noticed p.mirror m (m.resized n),
        .accept (.lines id (l.resized n) p.mirror (m.resized n))) := by
  have hm1 : (s.noticed id l (l.resized n)).line p.mirror = some m := (noticed_other s _ _ hne).trans hm
  have hl1 : ((s.noticed id l (l.resized n)).noticed p.mirror m (m.resized n)).line id = some (l.resized n) :=
    (noticed_other _ _ _ hne.symm).trans (noticed_self ..)
  unfold lineResizeBody
  simp only [hl, mirrorOf_paired hp hm, onMirror_some]
  rw [checked_pass (decide_eq_true ha), checked_pass (decide_eq_true hma), checked_pass hn,
    checked_pass (decide_eq_true hh), checked_pass (decide_eq_true hmh), checked_nil, onPair_paired hp,
    resizeLine_noticed s id n l hl ha hnotice hh, resizeLine_noticed _ p.mirror n m hm1 hma hmnotice hmh,
    lineResult_paired hl1 ((resized_pair l n).trans hp) (noticed_self ..)]

/-! ### LINE_CANCEL (R15) -/

theorem cancelled_inactive {l : Line} (h : l.state ≠ .active) : l.cancelled = l := if_pos h

theorem lineCancelBody_single {s : State} {id : Nat} {l : Line} (hl : s.line id = some l) (ha : l.state = .active)
    (hn : l.notice = false) (hp : l.pair = none) :
    lineCancelBody id s = (s.noticed id l l.cancelled, .accept (.line id l.cancelled)) := by
  unfold lineCancelBody
  simp only [hl]
  rw [checked_pass (by simp [ha]), checked_nil, onPair_single hp, cancelLine_eq s id l hl fun _ => hn, if_pos ha,
    lineResult_single (noticed_self ..) ((cancelled_pair l).trans hp)]

/-- A line written as it stands keeps whether a notice is set. -/
theorem any_put_same {t : Tab Line} {k : Nat} {a : Line} (f : Nat × Line → Bool) (h : Tab.get t k = some a) :
    (Tab.put t k a).any f = t.any f := by
  induction t with
  | nil => cases h
  | cons e t ih =>
    obtain ⟨j, b⟩ := e
    have hmem := mem_of_get h
    unfold Tab.get at h
    unfold Tab.put
    by_cases hj : j = k
    · obtain rfl : b = a := by simpa [hj] using h
      simp [hj]
    · rw [if_neg hj] at h
      split
      · rw [List.any_cons, Bool.or_eq_right_iff_imp]
        exact fun hf => List.any_eq_true.mpr ⟨_, hmem, hf⟩
      · rw [List.any_cons, List.any_cons, ih h]

/-- The frames due do not depend on a write of the line that stands. -/
theorem putLine_anyPending {s : State} {id : Nat} {l : Line} (hl : s.line id = some l) :
    (s.putLine id l).anyPending = s.anyPending := by
  have hbook : (s.putLine id l).bookPending = s.bookPending := any_put_same _ hl
  simp [State.anyPending, hbook]

theorem noticed_attn (s : State) (id : Nat) (l m : Line) : (s.noticed id l m).attn =
    if l.notice = false ∧ m.notice = true then
      { s.attn with waiting := s.attn.waiting || decide (s.settings.attnMode = .each) || !s.anyPending }
    else s.attn := by
  unfold State.noticed
  split
  · exact frameDue_attn s
  · rfl

theorem noticed_attn_same (s : State) (id : Nat) (l : Line) : (s.noticed id l l).attn = s.attn := by
  rw [noticed_attn, if_neg (by simp)]

/-- A line that is not ACTIVE, in the cancel of its mirror. -/
theorem noticed_attn_putLine {s : State} {id k : Nat} {l : Line} (hl : s.line id = some l) (m m' : Line) :
    ((s.noticed id l l).noticed k m m').attn = (s.noticed k m m').attn := by
  have hput : s.noticed id l l = s.putLine id l := if_neg (by simp)
  rw [hput, noticed_attn, noticed_attn, putLine_anyPending hl]
  rfl

/-- The cancel of a line and its mirror: what it leaves. -/
def CancelledPair (s : State) (id : Nat) (l : Line) (k : Nat) (m : Line) (t : State) : Prop :=
  t.line id = some l.cancelled ∧ t.line k = some m.cancelled ∧ (∀ j, j ≠ id → j ≠ k → t.line j = s.line j) ∧
    t.attn = ((s.noticed id l l.cancelled).noticed k m m.cancelled).attn ∧
    t = { s with book := t.book, attn := t.attn }

theorem cancelLine_pair {s : State} {id k : Nat} {l m : Line} (hne : k ≠ id) (hl : s.line id = some l)
    (hm : s.line k = some m) (ha : l.state = .active ∨ m.state = .active) (hln : l.state = .active → l.notice = false)
    (hmn : m.state = .active → m.notice = false) : CancelledPair s id l k m (cancelLine k (cancelLine id s)) := by
  rw [cancelLine_eq s id l hl hln]
  by_cases hla : l.state = .active
  · have hm1 : (s.noticed id l l.cancelled).line k = some m := (noticed_other s _ _ hne).trans hm
    rw [if_pos hla, cancelLine_eq _ k m hm1 hmn]
    obtain ⟨b, a, e⟩ := noticed_eq s id l l.cancelled
    by_cases hma : m.state = .active
    · rw [if_pos hma]
      obtain ⟨b', a', e'⟩ := noticed_eq (s.noticed id l l.cancelled) k m m.cancelled
      refine ⟨(noticed_other _ _ _ hne.symm).trans (noticed_self ..), noticed_self .., fun j hj hj' =>
        (noticed_other _ _ _ hj').trans (noticed_other _ _ _ hj), rfl, ?_⟩
      rw [e', e]
    · rw [if_neg hma, CancelledPair, cancelled_inactive hma]
      refine ⟨noticed_self .., hm1, fun j hj _ => noticed_other _ _ _ hj, (noticed_attn_same ..).symm, ?_⟩
      rw [e]
  · have hma := ha.resolve_left hla
    rw [if_neg hla, cancelLine_eq s k m hm hmn, if_pos hma, CancelledPair, cancelled_inactive hla]
    obtain ⟨b, a, e⟩ := noticed_eq s k m m.cancelled
    refine ⟨(noticed_other _ _ _ hne.symm).trans hl, noticed_self .., fun j _ hj => noticed_other _ _ _ hj,
      (noticed_attn_putLine hl _ _).symm, ?_⟩
    rw [e]

theorem lineCancelBody_paired {s : State} {id : Nat} {l m : Line} {p : Pairing} (hl : s.line id = some l)
    (hp : l.pair = some p) (hne : p.mirror ≠ id) (hm : s.line p.mirror = some m)
    (ha : l.state = .active ∨ m.state = .active) (hln : l.state = .active → l.notice = false)
    (hmn : m.state = .active → m.notice = false) :
    ∃ t, lineCancelBody id s = (t, .accept (.lines id l.cancelled p.mirror m.cancelled)) ∧
      CancelledPair s id l p.mirror m t := by
  have hpair := cancelLine_pair hne hl hm ha hln hmn
  refine ⟨_, ?_, hpair⟩
  obtain ⟨hl', hm', _⟩ := hpair
  unfold lineCancelBody
  simp only [hl, mirrorOf_paired hp hm]
  rw [checked_pass (by simpa [mirrorActive] using ha), checked_nil, onPair_paired hp,
    lineResult_paired hl' ((cancelled_pair l).trans hp) hm']

/-! ### LINE_REMOVE (R16) -/

theorem lineRemoveBody_single {s : State} {id : Nat} {l : Line} (hl : s.line id = some l) (hf : l.finished = true)
    (hp : l.pair = none) : lineRemoveBody id s = (s.dropLine id, .accept (.removed [id])) := by
  unfold lineRemoveBody
  simp only [hl, mirrorOf_single s hp]
  rw [checked_pass hf, checked_pass (by rfl), checked_nil, onPair_single hp]
  rfl

theorem lineRemoveBody_paired {s : State} {id : Nat} {l m : Line} {p : Pairing} (hl : s.line id = some l)
    (hf : l.finished = true) (hp : l.pair = some p) (hm : s.line p.mirror = some m) (hmf : m.finished = true) :
    lineRemoveBody id s = ((s.dropLine id).dropLine p.mirror, .accept (.removed [id, p.mirror])) := by
  unfold lineRemoveBody
  simp only [hl, mirrorOf_paired hp hm]
  rw [checked_pass hf, checked_pass (by simpa [onMirror] using hmf), checked_nil, onPair_paired hp]
  rfl

/-- Settles O14: each request on the named line and then on its mirror. -/
theorem linesAreResizedCancelledAndRemoved : Obligations.LinesAreResizedCancelledAndRemoved := by
  unfold Obligations.LinesAreResizedCancelledAndRemoved
  refine ⟨fun h id n l s ht hl ha hnotice h1 h2 hh => ?_, fun h id l s ht hl => ⟨fun hp ha hn => ?_, ?_⟩,
    fun h id l s ht hl hf => ⟨fun hp => ?_, fun p m hp hm hmf => ?_⟩⟩
  · have hl' : (s.hunt .control).line id = some l := by simpa using hl
    have hn : orderedOk n = true := (orderedOk_iff n).mpr ⟨h1, h2⟩
    refine ⟨fun hp => ?_, fun p m hp hne hm hma hmnotice hmh => ?_⟩
    · exact congrArg _ (request_next 0x12 _ _ _ ht (lineResizeBody_single hl' ha hnotice hn hh hp))
    · exact congrArg _ (request_next 0x12 _ _ _ ht
        (lineResizeBody_paired hl' ha hnotice hn hh hp hne (by simpa using hm) hma hmnotice hmh))
  · exact congrArg _ (request_next 0x13 _ _ _ ht (lineCancelBody_single (by simpa using hl) ha hn hp))
  · intro p m hp hne hm ha hln hmn
    obtain ⟨t, hb, hid, hk, hother, hattn, heq⟩ :=
      lineCancelBody_paired (s := s.hunt .control) (by simpa using hl) hp hne (by simpa using hm) ha hln hmn
    refine ⟨t, congrArg _ (request_next 0x13 _ _ _ ht hb), hid, hk, fun j hj hj' => ?_, hattn, heq⟩
    simpa using hother j hj hj'
  · exact congrArg _ (request_next 0x14 _ _ _ ht (lineRemoveBody_single (by simpa using hl) hf hp))
  · exact congrArg _ (request_next 0x14 _ _ _ ht
      (lineRemoveBody_paired (by simpa using hl) hf hp (by simpa using hm) hmf))

end Sys2Proof.Proofs.Orders
end

section
/-! The statements about the pattern library (R29 to R34). -/

namespace Sys2Proof.Proofs.Pieces

open Sys2Proof.Machine Sys2Proof.Laws Sys2Proof.Proofs.Book

/-! ### Checks that all pass -/

theorem firstFail_of_all {checks : List Check} (h : ∀ c ∈ checks, c.1 = true) : firstFail checks = none := by
  induction checks with
  | nil => rfl
  | cons c t ih =>
    obtain ⟨ok, reason, detail⟩ := c
    obtain rfl : ok = true := h _ List.mem_cons_self
    exact ih fun c hc => h c (by simp [hc])

theorem checked_of_none {checks : List Check} (h : firstFail checks = none) (s : State) (go : State × Reply) :
    checked s checks go = go := by
  rw [checked, h]

/-- The common checks of R29 where they pass. -/
theorem pieceChecks_pass {s : State} {slot : Nat} {states : List Nat} (hslot : slot < 128)
    (hb : s.bankOf slot = .unlocked) (hs : states.contains (pieceCode (s.piece slot)) = true) :
    firstFail (pieceChecks s slot states) = none :=
  firstFail_of_all (by simp only [pieceChecks, List.forall_mem_cons, decide_eq_true_eq]; exact ⟨hslot, hb, hs, by simp⟩)

/-- The common checks of R29 in a LOCKED bank. -/
theorem checked_locked {s : State} {slot : Nat} (states : List Nat) (hslot : slot < 128) (hb : s.bankOf slot = .locked)
    (more : List Check) (go : State × Reply) :
    checked s (pieceChecks s slot states ++ more) go = (s, .refuse .isProtected (slot / 32)) := by
  rw [pieceChecks, List.cons_append, checked_pass (decide_eq_true hslot), List.cons_append,
    checked_fail (by rw [hb]; rfl)]

theorem pieceCode_loading {p : Piece} (h : p.state = .loading) : pieceCode (some p) = 1 := by
  simp [pieceCode, h]

theorem pieceCode_ready {p : Piece} (h : p.state = .ready) : pieceCode (some p) = 2 := by
  simp [pieceCode, h]

theorem pieceCode_pos (p : Piece) : pieceCode (some p) = 1 ∨ pieceCode (some p) = 2 := by
  cases h : p.state with
  | loading => exact Or.inl (pieceCode_loading h)
  | ready => exact Or.inr (pieceCode_ready h)

theorem pieceResult_eq {s : State} {slot n : Nat} (h : pieceCode (s.piece slot) = n) :
    pieceResult s slot = .piece slot n s.arenaFree := by
  rw [pieceResult, h]

/-! ### PIECE_DEFINE (R30) -/

theorem pieceDefineBody_accepts {s : State} {slot margin : Nat} {band : Option (Nat × Nat)} (code : Nat) (offsets : Byte)
    (hslot : slot < 128) (hb : s.bankOf slot = .unlocked) (hp : s.piece slot = none) (hm : margin ≤ 3)
    (hband : ∀ b, band = some b → 30 ≤ b.1 ∧ b.1 ≤ b.2 ∧ b.2 ≤ 600) :
    let t := s.putPiece slot ⟨.loading, code, margin, offsets, band, []⟩
    pieceDefineBody slot code margin offsets band s = (t, .accept (.piece slot 1 t.arenaFree)) := by
  have hchecks : firstFail [(decide (margin ≤ 3), Reason.range, 1), (band.all fun b => bandOk b.1, .range, 2),
      (band.all fun b => bandOk b.2, .range, 3), (band.all fun b => decide (b.1 ≤ b.2), .range, 4)] = none := by
    refine firstFail_of_all ?_
    cases band with
    | none => simp [hm]
    | some b =>
      obtain ⟨h1, h2, h3⟩ := hband b rfl
      simp only [Option.all_some, bandOk, List.forall_mem_cons, Bool.and_eq_true, decide_eq_true_eq]
      exact ⟨hm, ⟨h1, by omega⟩, ⟨by omega, h3⟩, h2, by simp⟩
  intro t
  have hcode : pieceCode (t.piece slot) = 1 :=
    (congrArg pieceCode (piece_putPiece_self s slot _)).trans (pieceCode_loading rfl)
  unfold pieceDefineBody
  rw [checked_of_none]
  · exact congrArg (fun r => (t, Reply.accept r)) (pieceResult_eq hcode)
  · rw [firstFail_append _ _ (pieceChecks_pass hslot hb (by rw [hp]; rfl)), hchecks]

/-! ### VARIANT_DEFINE (R31) -/

theorem variantDefineBody_accepts {s : State} {slot o w g : Nat} {p : Piece} (hslot : slot < 128)
    (hb : s.bankOf slot = .unlocked) (hp : s.piece slot = some p) (hl : p.state = .loading) (ho : o < 8)
    (hw : 1 ≤ w ∧ w ≤ 192) (hg : 1 ≤ g ∧ g ≤ 192)
    (hroom : w * g ≤ s.arenaFree + ((Tab.get p.variants o).map fun v => v.width * v.height).getD 0) :
    let t := s.putPiece slot { p with variants := Tab.put p.variants o ⟨w, g, []⟩ }
    variantDefineBody slot o w g s = (t, .accept (.variant slot 1 ⟨o, w, g, 0, 0, 0, 0⟩ t.arenaFree)) := by
  intro t
  have hcode : pieceCode (t.piece slot) = 1 :=
    (congrArg pieceCode (piece_putPiece_self s slot _)).trans (pieceCode_loading hl)
  have hroom' : w * g ≤ s.arenaFree + ((s.piece slot).map fun p => oldArea p o).getD 0 := by
    rw [hp]
    exact hroom
  unfold variantDefineBody
  rw [checked_of_none]
  · simp only [hp, variantResult]
    rw [hcode]
    rfl
  · rw [firstFail_append _ _ (pieceChecks_pass hslot hb (by rw [hp, pieceCode_loading hl]; rfl))]
    refine firstFail_of_all ?_
    simp only [boxOk, List.forall_mem_cons, Bool.and_eq_true, decide_eq_true_eq]
    exact ⟨ho, hw, hg, hroom', by simp⟩

/-! ### VARIANT_ROWS (R32) -/

/-- A row's writes as a fold over its cells. -/
def writeRow (base : Nat) (cells : List (Nat × Nat)) (m : Mem) : Mem :=
  cells.foldl (fun m c => Mem.write noZone m (base + c.1) (BitVec.ofNat 8 c.2)) m

theorem writeRow_other (base : Nat) (cells : List (Nat × Nat)) (m : Mem) {a : Nat}
    (h : ∀ i z, (i, z) ∈ cells → a ≠ base + i) : Mem.read noZone (writeRow base cells m) a = Mem.read noZone m a := by
  induction cells generalizing m with
  | nil => rfl
  | cons c t ih =>
    exact (ih _ fun i z hz => h i z (by simp [hz])).trans (read_write_other _ _ _ (h c.1 c.2 (by simp)))

theorem writeRow_cell (base : Nat) (cells : List (Nat × Nat)) (hnodup : (cells.map (·.1)).Nodup) (m : Mem) {i z : Nat}
    (h : (i, z) ∈ cells) : Mem.read noZone (writeRow base cells m) (base + i) = BitVec.ofNat 8 z := by
  induction cells generalizing m with
  | nil => cases h
  | cons c t ih =>
    obtain ⟨hc, ht⟩ := List.nodup_cons.mp hnodup
    rcases List.mem_cons.mp h with rfl | h
    · have hother : ∀ j y, (j, y) ∈ t → base + i ≠ base + j := fun j y hj e =>
        hc (List.mem_map.mpr ⟨(j, y), hj, (Nat.add_left_cancel e).symm⟩)
      exact (writeRow_other base t _ hother).trans (read_write_self ..)
    · exact ih ht _ h

theorem variantRowsBody_accepts {s : State} {slot o row start : Nat} {runs : List Run} {p : Piece} {v : Variant}
    (hslot : slot < 128) (hb : s.bankOf slot = .unlocked) (hp : s.piece slot = some p) (hl : p.state = .loading)
    (hv : Tab.get p.variants o = some v) (hrow : row < v.height) (hstart : start < v.width)
    (hruns : ∀ r ∈ runs, r.code < 4 ∧ 1 ≤ r.length ∧ r.length ≤ 192)
    (hsum : start + (runs.map Run.length).sum ≤ v.width) :
    let w := writeZones v row (runCells start runs)
    let t := s.putPiece slot { p with variants := Tab.put p.variants o w }
    variantRowsBody slot o row start runs s = (t, .accept (.variant slot 1 (Variant.view o w) t.arenaFree)) := by
  intro w t
  have hcode : pieceCode (t.piece slot) = 1 :=
    (congrArg pieceCode (piece_putPiece_self s slot _)).trans (pieceCode_loading hl)
  unfold variantRowsBody
  simp only [variantOf_of hp hv, Option.map_some, Option.getD_some]
  rw [checked_of_none]
  · rw [variantResult, hcode]
  · have hthree : firstFail (pieceChecks s slot [1] ++ [((some v).isSome, .range, 1),
        ((some v).any fun v => decide (row < v.height), .range, 2), (decide (start < v.width), .range, 3)]) = none := by
      rw [firstFail_append _ _ (pieceChecks_pass hslot hb (by rw [hp, pieceCode_loading hl]; rfl))]
      refine firstFail_of_all ?_
      simp only [List.forall_mem_cons, Option.isSome_some, Option.any_some, decide_eq_true_eq]
      exact ⟨trivial, hrow, hstart, by simp⟩
    rw [firstFail_append _ _ hthree]
    exact runChecks_pass _ _ _ _ _ _ (fun r hr => by simpa using hruns r hr) hsum

/-! ### PIECE_READY and PIECE_ERASE (R33, R34) -/

theorem bodiless_none {p : Piece} (h : ∀ e ∈ p.variants, 1 ≤ e.2.bodyCount) : p.bodiless = none := by
  rw [Piece.bodiless, Option.map_eq_none_iff, List.find?_eq_none]
  intro e he hz
  have := h e he
  simp only [decide_eq_true_eq] at hz
  omega

theorem pieceReadyBody_accepts {s : State} {slot : Nat} {p : Piece} (hslot : slot < 128) (hb : s.bankOf slot = .unlocked)
    (hp : s.piece slot = some p) (hl : p.state = .loading) (hne : p.variants ≠ [])
    (hbody : ∀ e ∈ p.variants, 1 ≤ e.2.bodyCount) (ho : p.offsets ≠ 0) :
    let t := s.putPiece slot { p with state := .ready }
    pieceReadyBody slot s = (t, .accept (.piece slot 2 t.arenaFree)) := by
  intro t
  have hcode : pieceCode (t.piece slot) = 2 :=
    (congrArg pieceCode (piece_putPiece_self s slot _)).trans (pieceCode_ready rfl)
  unfold pieceReadyBody
  rw [checked_of_none (pieceChecks_pass hslot hb (by rw [hp, pieceCode_loading hl]; rfl))]
  simp only [hp]
  rw [checked_pass (by simpa using hne), checked_pass (by rw [bodiless_none hbody]; rfl),
    checked_pass (decide_eq_true ho), checked_nil, pieceResult_eq hcode]

theorem namingLine_none {s : State} {slot : Nat} (h : ∀ e ∈ s.book, e.2.slot ≠ slot) : namingLine s slot = none := by
  rw [namingLine, Option.map_eq_none_iff, List.find?_eq_none]
  exact fun e he => by simpa using h e he

theorem pieceEraseBody_accepts {s : State} {slot : Nat} {p : Piece} (hslot : slot < 128) (hb : s.bankOf slot = .unlocked)
    (hp : s.piece slot = some p) (hfree : ∀ e ∈ s.book, e.2.slot ≠ slot) :
    let t := s.dropPiece slot
    pieceEraseBody slot s = (t, .accept (.piece slot 0 t.arenaFree)) := by
  intro t
  have hcode : pieceCode (t.piece slot) = 0 := by
    have hn : t.piece slot = none := get_del_self s.library.pieces slot
    rw [hn]
    rfl
  unfold pieceEraseBody
  rw [checked_of_none]
  · exact congrArg (fun r => (t, Reply.accept r)) (pieceResult_eq hcode)
  · have hin : [1, 2].contains (pieceCode (s.piece slot)) = true := by
      rw [hp]
      rcases pieceCode_pos p with h | h <;> rw [h] <;> rfl
    rw [firstFail_append _ _ (pieceChecks_pass hslot hb hin)]
    exact firstFail_of_all (by simp [namingLine_none hfree])

theorem toNat_ofNat_zone {z : Nat} (h : z < 4) : (BitVec.ofNat 8 z).toNat = z := by
  rw [BitVec.toNat_ofNat]
  omega

/-- Settles O16: each library request by its checks, and the cells that VARIANT_ROWS writes. -/
theorem piecesAreLoadedAndErased : Obligations.PiecesAreLoadedAndErased := by
  unfold Obligations.PiecesAreLoadedAndErased
  refine ⟨fun h slot s hslot hb => ⟨fun code margin offsets band ht hp hm hband => ?_,
      fun o w g p ht hp hl ho hw1 hw2 hg1 hg2 hroom => ?_⟩,
    fun h slot o row start runs p v s ht hslot hb hp hl hv hrow hstart hruns hsum => ?_,
    fun h slot p s ht hslot hb hp => ⟨fun hl hne hbody ho => ?_, fun hfree => ?_⟩⟩
  · exact congrArg _ (request_next 0x20 _ _ _ ht
      (pieceDefineBody_accepts code offsets hslot (by simpa using hb) (by simpa using hp) hm hband))
  · exact congrArg _ (request_next 0x21 _ _ _ ht (variantDefineBody_accepts hslot (by simpa using hb)
      (by simpa using hp) hl ho ⟨hw1, hw2⟩ ⟨hg1, hg2⟩ hroom))
  · refine ⟨writeZones v row (runCells start runs), rfl, rfl,
      congrArg _ (request_next 0x22 _ _ _ ht (variantRowsBody_accepts hslot (by simpa using hb) (by simpa using hp) hl hv
        hrow hstart hruns hsum)), fun i z hz => ?_, fun a ha => writeRow_other _ _ _ ha⟩
    obtain ⟨_, _, r, hr, rfl⟩ := runCells_mem _ _ _ _ hz
    exact (congrArg BitVec.toNat (writeRow_cell _ _ (runCells_nodup ..) _ hz)).trans (toNat_ofNat_zone (hruns r hr).1)
  · exact congrArg _ (request_next 0x23 _ _ _ ht
      (pieceReadyBody_accepts hslot (by simpa using hb) (by simpa using hp) hl hne hbody ho))
  · exact congrArg _ (request_next 0x24 _ _ _ ht
      (pieceEraseBody_accepts hslot (by simpa using hb) (by simpa using hp) (by simpa using hfree)))

/-- Settles O18: the second of the common checks fails. -/
theorem aLockedBankIsProtected : Obligations.ALockedBankIsProtected := by
  unfold Obligations.ALockedBankIsProtected
  intro h slot a b c offsets band runs s hslot hb refused
  have hb' : (s.hunt .control).bankOf slot = .locked := by simpa using hb
  refine ⟨fun ht => ?_, fun ht => ?_, fun ht => ?_, fun ht => ⟨?_, ?_⟩⟩
  · exact congrArg _ (request_next 0x20 _ _ _ ht (checked_locked _ hslot hb' _ _))
  · exact congrArg _ (request_next 0x21 _ _ _ ht (checked_locked _ hslot hb' _ _))
  · refine congrArg _ (request_next 0x22 _ _ _ ht ?_)
    unfold variantRowsBody
    dsimp only
    rw [List.append_assoc]
    exact checked_locked _ hslot hb' _ _
  · refine congrArg _ (request_next 0x23 _ _ _ ht ?_)
    unfold pieceReadyBody
    rw [← List.append_nil (pieceChecks _ _ _)]
    exact checked_locked _ hslot hb' _ _
  · exact congrArg _ (request_next 0x24 _ _ _ ht (checked_locked _ hslot hb' _ _))

end Sys2Proof.Proofs.Pieces
end

section
/-! The statements about the Attention Unit and the reads (R11, R35, R40, R177 to R184). -/

namespace Sys2Proof.Proofs.Notices

open Sys2Proof.Machine Sys2Proof.Laws Sys2Proof.Proofs.Book Sys2Proof.Proofs.Pieces

/-! ### Raises -/

/-- An event that is pending already, in the order of the keys. -/
theorem insertEvent_mem {e : Event} {list : List Event} (hs : list.Pairwise fun a b => a.key < b.key) (h : e ∈ list) :
    insertEvent e list = list := by
  induction list with
  | nil => cases h
  | cons d t ih =>
    obtain ⟨hd, ht⟩ := List.pairwise_cons.mp hs
    rw [insertEvent]
    rcases List.mem_cons.mp h with rfl | he
    · exact if_pos rfl
    · have hkey := hd e he
      rw [if_neg (fun k => by rw [k] at hkey; omega), if_neg (by omega), ih ht he]

theorem raise_attn (s : State) (e : Event) : (s.raise e).attn =
    { s.attn with
      events := insertEvent e s.attn.events
      waiting := s.attn.waiting || decide (s.settings.attnMode = .each) || !s.anyPending } := by
  unfold State.raise
  simp only [frameDue_attn]

theorem raiseNotice_eq (s : State) (id : Nat) (l : Line) : s.raiseNotice id l =
    { s.putLine id { l with notice := true } with attn := { s.attn with
      waiting := s.attn.waiting || decide (s.settings.attnMode = .each) || !s.anyPending } } := by
  rw [State.raiseNotice, frameDue_eq, frameDue_attn]
  rfl

/-! ### Frames -/

/-- The state after the ATTENTION frame. -/
theorem sendAttention_eq (s : State) : s.sendAttention =
    { s with
      attn := { s.attn with waiting := false, first := false, nextTag := (s.attn.nextTag + 1) % 256 }
      sent := ⟨.control, s.attn.nextTag, .attention s.summary⟩ :: s.sent } := rfl

theorem linkFree_iff (s : State) (l : Link) :
    s.linkFree l = true ↔ ∀ q, (s.link l).inHand = some q → q.begun = false := by
  unfold State.linkFree State.beingSent
  rw [Option.isNone_iff_eq_none, Option.filter_eq_none_iff]
  simp

theorem attentionSend_sends {s : State} (hw : s.attn.waiting = true)
    (hf : ∀ q, (s.link .control).inHand = some q → q.begun = false) : attentionSend s = s.sendAttention :=
  if_pos (by rw [hw, (linkFree_iff s .control).mpr hf]; rfl)

theorem attentionSend_stays {s : State}
    (h : s.attn.waiting = false ∨ ∃ q, s.links.control.inHand = some q ∧ q.begun = true) : attentionSend s = s := by
  refine if_neg fun hc => ?_
  rw [Bool.and_eq_true, linkFree_iff] at hc
  obtain ⟨hw, hf⟩ := hc
  rcases h with h | ⟨q, hq, hb⟩
  · rw [h] at hw; cases hw
  · rw [hf q hq] at hb; cases hb

theorem answer_led {s : State} (tag : Nat) (r : Reply) (hfirst : s.attn.first = true)
    (hf : ∀ q, (s.link .control).inHand = some q → q.begun = false) :
    s.answer .control tag r = s.sendAttention.send .control tag (.reply r) := by
  rw [answer_free tag r hf, Links.lead_of_leads ⟨rfl, hfirst⟩]

theorem answer_plain {s : State} {l : Link} (tag : Nat) (r : Reply) (hn : l ≠ .control ∨ s.attn.first = false)
    (hf : ∀ q, (s.link l).inHand = some q → q.begun = false) : s.answer l tag r = s.send l tag (.reply r) := by
  have hl : ¬ Links.Leads s l := fun ⟨h1, h2⟩ => hn.elim (· h1) fun k => by rw [k] at h2; cases h2
  rw [answer_free tag r hf, Links.lead_of_not_leads hl]

/-- Settles O19: the two writes of a raise, and the frames by what is being sent on the control link. -/
theorem raisesMakeFramesDueAndFramesAreSent : Obligations.RaisesMakeFramesDueAndFramesAreSent := by
  unfold Obligations.RaisesMakeFramesDueAndFramesAreSent
  refine ⟨fun e id l s => ⟨?_, fun d => mem_insertEvent e d _, insertEvent_mem, raiseNotice_eq s id l⟩,
    fun s => ⟨fun hw hf => congrArg _ (attentionSend_sends hw hf), fun h => congrArg _ (attentionSend_stays h),
      fun l tag r => ⟨fun hl hfirst hf => ?_, fun hn hf => answer_plain tag r hn hf, fun q hq hb => answer_behind tag r hq hb⟩⟩⟩
  · rw [raise_eq, raise_attn]
  · subst hl
    exact answer_led tag r hfirst hf

/-! ### ATTN_CLEAR (R181) -/

theorem clearLimit_book : clearLimit 16 = 32 := rfl

theorem clearLimit_other {source : Nat} (h : source ≠ 16) : clearLimit source = 8 := if_neg h

theorem codeChecks_pass {source : Nat} {list : List Nat} (h : ∀ k ∈ list, k < eventCount source) :
    firstFail (codeChecks source list) = none := by
  refine firstFail_of_all fun c hc => ?_
  unfold codeChecks at hc
  split at hc
  · cases hc
  · obtain ⟨e, he, rfl⟩ := List.mem_map.mp hc
    exact decide_eq_true (h _ (List.fst_mem_of_mem_zipIdx he))

theorem attnClear_checks {source : Nat} {list : List Nat} (hs : source ≤ 18) (h1 : 1 ≤ list.length)
    (h2 : list.length ≤ clearLimit source) (hc : firstFail (codeChecks source list) = none) :
    firstFail ([(decide (source ≤ 18), .range, 0),
      (decide (1 ≤ list.length) && decide (list.length ≤ clearLimit source), .range, 1)] ++ codeChecks source list) =
        none := by
  rw [firstFail_append _ _ (firstFail_of_all (by simp [hs, h1, h2])), hc]

theorem clearCodes_eq (s : State) (source : Nat) (list : List Nat) : s.clearCodes source list =
    { s with attn := { s.attn with
      events := s.attn.events.filter fun e => decide (¬ (e.source = source ∧ e.code ∈ list)) } } := by
  have hf : (fun e : Event => !(decide (e.source = source) && list.contains e.code)) =
      fun e => decide (¬ (e.source = source ∧ e.code ∈ list)) := by
    funext e
    simp
  rw [State.clearCodes, hf]

theorem attnClearBody_events {s : State} {source : Nat} {list : List Nat} (hs : source ≤ 18) (hne : source ≠ 16)
    (h1 : 1 ≤ list.length) (h2 : list.length ≤ 8) (hc : ∀ k ∈ list, k < eventCount source) :
    let t := s.clearCodes source list
    attnClearBody source list s = (t, .accept (.cleared source (t.pendingCodes source) t.summary)) := by
  have hlist : clearListed source list s = s.clearCodes source list := if_neg hne
  have hresult (t : State) : clearedResult t source = .cleared source (t.pendingCodes source) t.summary := if_neg hne
  unfold attnClearBody
  rw [checked_of_none (attnClear_checks hs h1 (by rwa [clearLimit_other hne]) (codeChecks_pass hc)), hlist]
  exact congrArg (fun r => (s.clearCodes source list, Reply.accept r)) (hresult _)

theorem attnClearBody_notices {s : State} {list : List Nat} (h1 : 1 ≤ list.length) (h2 : list.length ≤ 32) :
    let t := s.clearNotices list
    attnClearBody 16 list s = (t, .accept (.clearedBook 16 t.noticeIds.length t.summary)) := by
  unfold attnClearBody
  rw [checked_of_none (attnClear_checks (by omega) h1 (clearLimit_book ▸ h2) rfl)]
  rfl

/-- A line with its notice cleared, where it is listed. -/
def clearedIn (list : List Nat) (id : Nat) (l : Line) : Line := if id ∈ list then { l with notice := false } else l

theorem clearNotice_line (s : State) (k id : Nat) :
    (s.clearNotice k).line id = (s.line id).map (clearedIn [k] id) := by
  unfold State.clearNotice
  by_cases hid : id = k
  · subst hid
    cases h : s.line id with
    | none => simp [h]
    | some l => simp [clearedIn]
  · have hsame : clearedIn [k] id = fun l => l := funext fun l => if_neg (by simpa using hid)
    rw [hsame, Option.map_id']
    split
    · rfl
    · exact line_putLine_other s _ hid

theorem clearedIn_cons (k : Nat) (t : List Nat) (id : Nat) :
    clearedIn t id ∘ clearedIn [k] id = clearedIn (k :: t) id := by
  funext l
  by_cases hk : id = k <;> by_cases ht : id ∈ t <;> simp [clearedIn, hk, ht]

theorem clearNotices_line (list : List Nat) (s : State) (id : Nat) :
    (s.clearNotices list).line id = (s.line id).map (clearedIn list id) := by
  induction list generalizing s with
  | nil =>
    have hsame : clearedIn [] id = fun l => l := funext fun l => if_neg (by simp)
    rw [hsame, Option.map_id']
    rfl
  | cons k t ih =>
    calc (s.clearNotices (k :: t)).line id
        = ((s.clearNotice k).line id).map (clearedIn t id) := ih (s.clearNotice k)
      _ = (s.line id).map (clearedIn (k :: t) id) := by
        rw [clearNotice_line, Option.map_map, clearedIn_cons]

/-- Settles O20: the events of one source, or the notices of the listed lines one after another. -/
theorem listedEventsAreCleared : Obligations.ListedEventsAreCleared := by
  unfold Obligations.ListedEventsAreCleared
  refine fun h source list s ht hs h1 => ⟨fun hne h2 hc => ?_, fun he h2 => ?_⟩
  · refine congrArg _ (request_next 0x5B _ _ _ ht ?_)
    have hbody := attnClearBody_events (s := s.hunt .control) hs hne h1 h2 hc
    rw [clearCodes_eq] at hbody
    exact hbody
  · subst he
    exact ⟨_, congrArg _ (request_next 0x5B _ _ _ ht (attnClearBody_notices h1 h2)), clearNotices_eq _ _,
      fun id => (clearNotices_line list _ id).trans (by rw [hunt_line]; rfl)⟩

/-! ### Reads -/

theorem lineReadBody_found {s : State} {id : Nat} {l : Line} (hl : s.line id = some l) :
    lineReadBody id s = (s, .accept (.line id l)) := by
  rw [lineReadBody, hl]

theorem pieceReadBody_record {s : State} {slot : Nat} (h : slot < 128) :
    pieceReadBody slot none s = (s, .accept (.pieceRecord slot (slot / 32) (s.bankOf slot) (pieceCode (s.piece slot))
      (namingCount s slot) s.arenaFree ((s.piece slot).map Piece.view) none)) :=
  checked_of_none (firstFail_of_all (by simp [Config.pieceSlots, h])) _ _

theorem pieceReadBody_row {s : State} {slot o row : Nat} {p : Piece} {v : Variant} (h : slot < 128)
    (hp : s.piece slot = some p) (hv : Tab.get p.variants o = some v) (hrow : row < v.height) :
    pieceReadBody slot (some (o, row)) s = (s, .accept (.pieceRecord slot (slot / 32) (s.bankOf slot)
      (pieceCode (some p)) (namingCount s slot) s.arenaFree (some p.view) (some (shortestRuns (rowZones v row))))) := by
  unfold pieceReadBody
  simp only [Option.bind_some, variantOf_of hp hv, Option.map_some, hp]
  exact checked_of_none (firstFail_of_all (by simp [Config.pieceSlots, h, hrow])) _ _

theorem hideReadBody_record {s : State} {slot : Nat} (h : slot < 12) : hideReadBody slot s =
    (s, .accept (.hide slot (stateCode s slot) ((s.hide slot).map (liveView s slot)))) :=
  checked_of_none (firstFail_of_all (by simp [Config.hideSlots, h])) _ _

theorem liveStates_all (t : HideState) : liveStates.contains t = true := by cases t <;> rfl

theorem placementsReadBody_page {s : State} {slot first : Nat} {g : Hide} (h : slot < 12) (hg : s.hide slot = some g)
    (hf : first ≤ g.placements.length) : placementsReadBody slot first s =
      (s, .accept (.placements slot g.placements.length (pageFrom g.placements first))) := by
  rw [placementsReadBody, onHide_in h hg (liveStates_all g.state), checked_pass (decide_eq_true hf), checked_nil]

theorem cutterReadBody_record (s : State) (c : Fin 4) :
    cutterReadBody c.1 s = (s, .accept (.channelRecord (channelView s c))) := dif_pos c.2

theorem attnReadBody_codes {s : State} {source : Nat} (h : source ≤ 18) (hne : source ≠ 16) :
    attnReadBody source s = (s, .accept (.pendingCodes source (s.pendingCodes source))) := by
  have hr : readSource s source = .pendingCodes source (s.pendingCodes source) := if_neg hne
  rw [attnReadBody, checked_pass (decide_eq_true h), checked_nil, hr]

theorem attnReadBody_notices (s : State) :
    attnReadBody 16 s = (s, .accept (.notices 16 s.noticeIds.length (s.noticeIds.take 32))) := rfl

/-- Settles O21: each read by its checks. -/
theorem readsChangeNothing : Obligations.ReadsChangeNothing := by
  unfold Obligations.ReadsChangeNothing
  refine ⟨fun h n s => ⟨fun ht => ⟨?_, ?_, ?_⟩, fun ht => ⟨fun hn hne => ?_, ?_⟩⟩,
    fun h n s => ⟨fun l ht hl => ?_, fun ht hn => ?_, fun p v o row ht hn hp hv hrow => ?_, fun ht hn => ?_,
      fun g first ht hn hg hf => ?_, fun c ht => ?_⟩⟩
  · exact congrArg _ (request_next 0x01 identifyBody _ _ ht rfl)
  · exact congrArg _ (request_next 0x54 storeReadBody _ _ ht rfl)
  · exact congrArg _ (request_next 0x58 attnSummaryBody _ _ ht rfl)
  · exact congrArg _ (request_next 0x59 _ _ _ ht (attnReadBody_codes hn hne))
  · exact congrArg _ (request_next 0x59 _ _ _ ht (attnReadBody_notices _))
  · exact congrArg _ (request_next 0x15 _ _ _ ht (lineReadBody_found (by simpa using hl)))
  · exact congrArg _ (request_next 0x25 _ _ _ ht (pieceReadBody_record hn))
  · exact congrArg _ (request_next 0x25 _ _ _ ht (pieceReadBody_row hn (by simpa using hp) hv hrow))
  · exact congrArg _ (request_next 0x36 _ _ _ ht (hideReadBody_record hn))
  · exact congrArg _ (request_next 0x37 _ _ _ ht (placementsReadBody_page hn (by simpa using hg) hf))
  · exact congrArg _ (request_next 0x53 _ _ _ ht (cutterReadBody_record _ c))

end Sys2Proof.Proofs.Notices
end

section
/-! The statements about opening a hide and loading its map (R42, R64 to R67). -/

namespace Sys2Proof.Proofs.Maps

open Sys2Proof.Machine Sys2Proof.Laws Sys2Proof.Proofs.Book Sys2Proof.Proofs.Pieces

/-! ### HIDE_OPEN (R42) -/

theorem holderOf_none {s : State} {tag : Nat} (h : ∀ e ∈ s.hides.slots, e.2.tag ≠ tag) : holderOf s tag = none := by
  rw [holderOf, Option.map_eq_none_iff, List.find?_eq_none]
  exact fun e he => by simpa using h e he

theorem freeHideSlot_lowest {s : State} {slot : Nat} (hslot : slot < 12) (hn : s.hide slot = none)
    (hlow : ∀ k < slot, s.hide k ≠ none) : freeHideSlot s = some slot := by
  rw [freeHideSlot, List.find?_range_eq_some]
  refine ⟨by rw [hn]; rfl, List.mem_range.mpr hslot, fun k hk => ?_⟩
  simpa [Option.isSome_iff_ne_none] using hlow k hk

theorem hideOpenBody_throttled {s : State} {w g b : Nat} (tag : Nat) (hw : 16 ≤ w ∧ w ≤ 1536) (hg : 16 ≤ g ∧ g ≤ 1152)
    (hb : b < 8) (ht : s.grid.throttle = .throttled) :
    hideOpenBody tag w g b s = (s, .refuse .throttled s.free) := by
  unfold hideOpenBody
  rw [checked_pass (by simpa using hw), checked_pass (by simpa using hg), checked_pass (decide_eq_true hb),
    checked_fail (by rw [ht]; rfl)]

theorem hideOpenBody_opens {s : State} {tag w g b slot : Nat} (hw : 16 ≤ w ∧ w ≤ 1536) (hg : 16 ≤ g ∧ g ≤ 1152)
    (hb : b < 8) (ht : s.grid.throttle = .normal) (hh : ∀ e ∈ s.hides.slots, e.2.tag ≠ tag) (hslot : slot < 12)
    (hn : s.hide slot = none) (hlow : ∀ k < slot, s.hide k ≠ none) :
    hideOpenBody tag w g b s = ((s.clearHide slot).putHide slot (newHide tag w g b), .accept (.opened slot tag)) := by
  unfold hideOpenBody
  rw [freeHideSlot_lowest hslot hn hlow, checked_pass (by simpa using hw), checked_pass (by simpa using hg),
    checked_pass (decide_eq_true hb), checked_pass (decide_eq_true ht), checked_pass (by rw [holderOf_none hh]; rfl),
    checked_pass (by rfl), checked_nil]

/-- Settles O22: the checks of HIDE_OPEN, with the lowest FREE slot. -/
theorem hidesAreOpened : Obligations.HidesAreOpened := by
  unfold Obligations.HidesAreOpened
  refine fun h tag w g b s ht hw1 hw2 hg1 hg2 hb => ⟨fun hthrottle => ?_, fun slot hthrottle hh hslot hn hlow => ?_⟩
  · exact congrArg _ (request_next 0x30 _ _ _ ht
      (hideOpenBody_throttled tag ⟨hw1, hw2⟩ ⟨hg1, hg2⟩ hb hthrottle))
  · exact congrArg _ (request_next 0x30 _ _ _ ht (hideOpenBody_opens ⟨hw1, hw2⟩ ⟨hg1, hg2⟩ hb hthrottle
      hh hslot (by simpa using hn) (by simpa using hlow)))

/-! ### ROWS: the request (R64, R65) -/

theorem contentCode_iff (c : Nat) : contentCode c = true ↔ c < 4 ∨ c = 7 := by
  simp [contentCode]

theorem layRows_eq (slot y : Nat) (tiles : List Nat) (cells : List (Nat × Nat)) (s : State) :
    s.layRows slot y tiles cells =
      if tiles = [] then cells.foldl (State.writeCell slot y) (tiles.foldl (State.takeFrame slot) s)
      else (cells.foldl (State.writeCell slot y) (tiles.foldl (State.takeFrame slot) s)).allocationEval := by
  simp only [State.layRows, List.isEmpty_iff]

theorem rowsBody_accepts {s : State} {slot y x : Nat} {runs : List Run} {g : Hide} (hslot : slot < 12)
    (hg : s.hide slot = some g) (hm : g.state = .mapping) (hy : y < g.height) (hx : x < g.width)
    (hn : 1 ≤ runs.length ∧ runs.length ≤ 255)
    (hruns : ∀ r ∈ runs, (r.code < 4 ∨ r.code = 7) ∧ 1 ≤ r.length ∧ r.length ≤ 255)
    (hsum : x + (runs.map Run.length).sum ≤ g.width)
    (hroom : (State.newTiles g y (runCells x runs)).length ≤ s.free) :
    let tiles := State.newTiles g y (runCells x runs)
    let t := s.layRows slot y tiles (runCells x runs)
    rowsBody slot y x runs s = (t, .accept (.rows slot y tiles.length t.free t.grid.throttle)) := by
  have hfirst : firstFail [(decide (y < g.height), Reason.range, 1), (decide (x < g.width), .range, 2),
      (decide (1 ≤ runs.length) && decide (runs.length ≤ 255), .range, 3)] = none :=
    firstFail_of_all (by simpa using ⟨hy, hx, hn⟩)
  have hlist : firstFail (runChecks contentCode 255 g.width 0 x runs) = none :=
    runChecks_pass _ _ _ _ _ _ (fun r hr => by
      obtain ⟨hc, hl⟩ := hruns r hr
      exact ⟨(contentCode_iff _).mpr hc, hl⟩) hsum
  unfold rowsBody
  rw [onHide_in hslot hg (by rw [hm]; rfl)]
  dsimp only
  rw [checked_of_none]
  rw [List.append_assoc, firstFail_append _ _ hfirst, firstFail_append _ _ hlist]
  exact firstFail_of_all (by simpa using hroom)

/-! ### ROWS: the tiles that need a frame -/

theorem mem_newTiles {g : Hide} {y tile : Nat} {cells : List (Nat × Nat)} : tile ∈ State.newTiles g y cells ↔
    ∃ i z, (i, z) ∈ cells ∧ z < 4 ∧ g.tileOf i y = tile ∧ Tab.get g.frames tile = none := by
  simp only [State.newTiles, List.mem_eraseDups, List.mem_map, List.mem_filter, Bool.and_eq_true, decide_eq_true_eq,
    Option.isNone_iff_eq_none, Prod.exists]
  constructor
  · rintro ⟨i, z, ⟨hmem, hz, hn⟩, rfl⟩
    exact ⟨i, z, hmem, hz, rfl, hn⟩
  · rintro ⟨i, z, hmem, hz, rfl, hn⟩
    exact ⟨i, z, ⟨hmem, hz, hn⟩, rfl⟩

/-- The tiles rise, as the runs go from left to right. -/
theorem newTiles_rise (g : Hide) (x y : Nat) (runs : List Run) :
    (State.newTiles g y (runCells x runs)).Pairwise (· < ·) := by
  refine eraseDups_sorted _ _ le_rfl (List.pairwise_map.mpr ?_)
  refine ((runCells_rising runs x).filter _).imp fun {a b} hab => ?_
  exact Nat.add_le_add_left (Nat.div_le_div_right hab.le) _

/-! ### ROWS: the frames -/

theorem lowestFree_eq {s : State} {f : Nat} (hlt : f < 8192) (ho : f ∉ s.ownedFrames) (hr : f ∉ s.grid.retired)
    (hlow : ∀ k < f, k ∈ s.ownedFrames ∨ k ∈ s.grid.retired) : s.lowestFree = some f :=
  lowestUnused_eq _ _ _ _ (Nat.zero_le f) (by simpa [Config.tileFrames] using hlt)
    (fun h => (List.mem_append.mp h).elim ho hr) fun k _ hk => List.mem_append.mpr (hlow k hk)

/-- A frame of the store is OUTSIDE and without cover. -/
def FrameClear (s : State) (f : Nat) : Prop :=
  ∀ a, f * 1024 ≤ a → a < f * 1024 + 1024 →
    Mem.read outsideCode s.grid.contents a = outsideCode ∧ Mem.read noCover s.grid.covers a = 0

theorem takeFrame_clears {s : State} {slot tile f : Nat} {g : Hide} (hg : s.hide slot = some g)
    (hf : s.lowestFree = some f) : FrameClear (State.takeFrame slot s tile) f := by
  intro a h1 h2
  rw [takeFrame_eq hg hf]
  exact ⟨read_clear_in _ _ h1 h2, read_clear_in _ _ h1 h2⟩

theorem takeFrame_other {s : State} {slot tile f a : Nat} {g : Hide} (hg : s.hide slot = some g)
    (hf : s.lowestFree = some f) (ha : a < f * 1024 ∨ f * 1024 + 1024 ≤ a) :
    let t := State.takeFrame slot s tile
    Mem.read outsideCode t.grid.contents a = Mem.read outsideCode s.grid.contents a ∧
      Mem.read noCover t.grid.covers a = Mem.read noCover s.grid.covers a := by
  intro t
  have ht : t = _ := takeFrame_eq hg hf
  rw [ht]
  exact ⟨read_clear_out _ _ ha, read_clear_out _ _ ha⟩

/-- A clear frame stays clear as further frames are taken. -/
theorem takeFrame_keeps_clear {s : State} {f : Nat} (slot tile : Nat) (h : FrameClear s f) :
    FrameClear (State.takeFrame slot s tile) f := by
  intro a h1 h2
  obtain ⟨hc, hv⟩ := h a h1 h2
  unfold State.takeFrame
  split
  · exact ⟨hc, hv⟩
  · dsimp only
    rw [modHide_grid]
    exact ⟨read_clear_keeps _ _ _ _ _ hc, read_clear_keeps _ _ _ _ _ hv⟩

theorem takeFrames_keep_clear {s : State} {f : Nat} (slot : Nat) (tiles : List Nat) (h : FrameClear s f) :
    FrameClear (tiles.foldl (State.takeFrame slot) s) f :=
  foldl_inv _ (FrameClear · f) (fun _ tile ht => takeFrame_keeps_clear slot tile ht) tiles s h

/-- The frames owned after one has been taken. -/
theorem takeFrame_owned {s : State} {slot tile f k : Nat} {g : Hide} (hs : Tab.sorted s.hides.slots = true)
    (hg : s.hide slot = some g) (hf : s.lowestFree = some f) (hn : Tab.get g.frames tile = none)
    (hk : k ∉ (State.takeFrame slot s tile).ownedFrames) : k ∉ s.ownedFrames := by
  rw [takeFrame_eq hg hf] at hk
  have hcount := owned_putHide { g with frames := Tab.put g.frames tile f } k hs hg
  have hframe := (count_frame g.frames tile f k).2 hn
  have hzero : (s.putHide slot { g with frames := Tab.put g.frames tile f }).ownedFrames.count k = 0 :=
    List.count_eq_zero.mpr hk
  dsimp only at hcount
  exact List.count_eq_zero.mp (by omega)

/-- What taking the frames of some tiles leaves: the tile table of the hide, and the store. -/
structure Framed (slot : Nat) (tiles : List Nat) (g : Hide) (s t : State) (frames : Tab Nat) : Prop where
  state : t = { s.putHide slot { g with frames := frames } with grid := t.grid }
  free : t.free + tiles.length = s.free
  canonical : t.canonical = true
  other : ∀ tile, tile ∉ tiles → Tab.get frames tile = Tab.get g.frames tile
  taken : ∀ tile ∈ tiles, ∃ f, Tab.get frames tile = some f ∧ f < 8192 ∧ f ∉ s.ownedFrames ∧ f ∉ s.grid.retired ∧
    FrameClear t f

theorem canonical_sorted {s : State} (h : s.canonical = true) : Tab.sorted s.hides.slots = true := by
  simp only [State.canonical, Bool.and_eq_true, canonical_iff] at h
  obtain ⟨⟨_, _, _, _, hs, _⟩, _⟩ := h
  exact hs

theorem takeFrames_framed {slot : Nat} (tiles : List Nat) (g : Hide) (s : State) (hg : s.hide slot = some g)
    (hc : s.canonical = true) (hnodup : tiles.Nodup) (hnone : ∀ tile ∈ tiles, Tab.get g.frames tile = none)
    (hroom : tiles.length ≤ s.free) :
    ∃ frames, Framed slot tiles g s (tiles.foldl (State.takeFrame slot) s) frames := by
  induction tiles generalizing g s with
  | nil =>
    have hput : s.putHide slot g = s := by
      simp only [State.putHide, put_same (canonical_sorted hc) hg]
    exact ⟨g.frames, by rw [hput]; rfl, rfl, hc, fun _ _ => rfl, by simp⟩
  | cons tile rest ih =>
    obtain ⟨hnot, hrest⟩ := List.nodup_cons.mp hnodup
    have hs := canonical_sorted hc
    have hn : Tab.get g.frames tile = none := hnone tile (by simp)
    simp only [List.length_cons] at hroom
    obtain ⟨f, hf⟩ := lowestFree_exists (s := s) (by omega)
    have heq := takeFrame_eq (tile := tile) hg hf
    have hg1 : (State.takeFrame slot s tile).hide slot = some { g with frames := Tab.put g.frames tile f } := by
      rw [heq]; exact hide_putHide_self ..
    have hfree := free_takeFrame hs hg hn (by omega)
    obtain ⟨frames, F⟩ := ih _ (State.takeFrame slot s tile) hg1 (canonical_takeFrame slot tile hc) hrest
      (fun k hk => (get_put_other _ _ fun e : k = tile => hnot (e ▸ hk)).trans (hnone k (by simp [hk]))) (by omega)
    obtain ⟨hlt, howned, hretired, _⟩ := lowestFree_spec hf
    refine ⟨frames, ?_, ?_, F.canonical, fun k hk => ?_, fun k hk => ?_⟩
    · rw [List.foldl_cons, F.state, heq]
      simp only [State.putHide, put_put]
    · have := F.free
      simp only [List.foldl_cons, List.length_cons]
      omega
    · simp only [List.mem_cons, not_or] at hk
      exact (F.other k hk.2).trans (get_put_other _ _ hk.1)
    · by_cases hkr : k ∈ rest
      · obtain ⟨f', hget, hlt', ho', hr', hclear'⟩ := F.taken k hkr
        refine ⟨f', hget, hlt', takeFrame_owned hs hg hf hn ho', ?_, hclear'⟩
        rw [heq] at hr'
        exact hr'
      · obtain rfl : k = tile := by simpa [hkr] using hk
        exact ⟨f, (F.other k hkr).trans (get_put_self ..), hlt, howned, hretired,
          takeFrames_keep_clear slot rest (takeFrame_clears hg hf)⟩

/-! ### ROWS: the cells -/

/-- What a content code is stored as. -/
def contentByte (z : Nat) : Byte := if z < 4 then BitVec.ofNat 8 z else outsideCode

theorem contentByte_toNat {z : Nat} (h : z < 4 ∨ z = 7) : (contentByte z).toNat = z := by
  rcases h with h | rfl
  · rw [contentByte, if_pos h, BitVec.toNat_ofNat]
    omega
  · rfl

theorem writeCell_cell {s : State} {slot y a : Nat} {g : Hide} (c : Nat × Nat) (hg : s.hide slot = some g)
    (ha : g.cellAt c.1 y = some a) : State.writeCell slot y s c =
      { s with grid := { s.grid with contents := Mem.write outsideCode s.grid.contents a (contentByte c.2) } } := by
  simp only [State.writeCell, hg, ha, contentByte]

theorem writeCell_none {s : State} {slot y : Nat} {g : Hide} {c : Nat × Nat} (hg : s.hide slot = some g)
    (ha : g.cellAt c.1 y = none) : State.writeCell slot y s c = s := by
  simp only [State.writeCell, hg, ha]

/-- What writing a row's cells leaves. -/
structure Written (g : Hide) (y : Nat) (cells : List (Nat × Nat)) (s t : State) : Prop where
  state : t = { s with grid := { s.grid with contents := t.grid.contents } }
  inside : ∀ i z a, (i, z) ∈ cells → g.cellAt i y = some a →
    Mem.read outsideCode t.grid.contents a = contentByte z
  outside : ∀ a, (∀ i z, (i, z) ∈ cells → g.cellAt i y ≠ some a) →
    Mem.read outsideCode t.grid.contents a = Mem.read outsideCode s.grid.contents a

theorem writeCells_written {slot y : Nat} {g : Hide} (hn : (g.frames.map (·.2)).Nodup) (cells : List (Nat × Nat))
    (hc : (cells.map (·.1)).Nodup) (s : State) (hg : s.hide slot = some g) :
    Written g y cells s (cells.foldl (State.writeCell slot y) s) := by
  induction cells generalizing s with
  | nil => exact ⟨rfl, by simp, fun _ _ => rfl⟩
  | cons c rest ih =>
    obtain ⟨hnot, hrest⟩ := List.nodup_cons.mp hc
    cases ha : g.cellAt c.1 y with
    | none =>
      rw [List.foldl_cons, writeCell_none hg ha]
      have W := ih hrest s hg
      refine ⟨W.state, fun i z a hmem hcell => ?_, fun a hout => W.outside a fun i z hm => hout i z (by simp [hm])⟩
      rcases List.mem_cons.mp hmem with rfl | hmem
      · rw [ha] at hcell; cases hcell
      · exact W.inside i z a hmem hcell
    | some b =>
      rw [List.foldl_cons, writeCell_cell c hg ha]
      have W := ih hrest { s with grid := { s.grid with
        contents := Mem.write outsideCode s.grid.contents b (contentByte c.2) } } hg
      refine ⟨by rw [W.state], fun i z a hmem hcell => ?_, fun a hout => ?_⟩
      · rcases List.mem_cons.mp hmem with rfl | hmem
        · obtain rfl : b = a := Option.some.inj (ha.symm.trans hcell)
          refine (W.outside b fun j y' hj hjc => ?_).trans (read_write_self ..)
          exact hnot (List.mem_map.mpr ⟨(j, y'), hj, (cellAt_inj hn hjc ha).1⟩)
        · exact W.inside i z a hmem hcell
      · refine (W.outside a fun i z hm => hout i z (by simp [hm])).trans (read_write_other _ _ _ ?_)
        exact fun e => hout c.1 c.2 (by simp) (e ▸ ha)

/-! ### ROWS: the throttle -/

theorem allocationEval_low {s : State} (h : s.free < s.settings.frameLow) (hn : s.grid.throttle = .normal) :
    s.allocationEval =
      State.raise (.store .throttleOn) { s with grid := { s.grid with throttle := .throttled } } := by
  rw [State.allocationEval, if_pos h, State.toThrottled, hn]

theorem allocationEval_same {s : State} (h : s.settings.frameLow ≤ s.free ∨ s.grid.throttle = .throttled) :
    s.allocationEval = s := by
  unfold State.allocationEval
  split
  · next hlow => rw [State.toThrottled, h.resolve_left (by omega)]
  · rfl

/-- Settles O23: the frames by induction over the tiles, and the contents by induction over the cells. -/
theorem rowsTakeFramesAndWriteCells : Obligations.RowsTakeFramesAndWriteCells := by
  unfold Obligations.RowsTakeFramesAndWriteCells
  refine ⟨?_, fun x y runs g => ⟨fun tile => mem_newTiles, newTiles_rise g x y runs⟩,
    fun slot tile f g s hg hlt ho hr hlow => ?_, fun slot tiles g s hg hc hnodup hnone hroom => ?_,
    fun slot y x runs g s hg hn hruns => ?_, fun s => ⟨allocationEval_low, allocationEval_same⟩⟩
  · intro h slot y x runs g s ht hslot hg hm hy hx hn1 hn2 hruns hsum cells tiles hroom u t
    have hlay : (s.hunt .scanner).layRows slot y tiles cells = t := layRows_eq ..
    rw [← hlay]
    exact congrArg _ (request_next 0x31 _ _ _ ht
      (rowsBody_accepts hslot (by simpa using hg) hm hy hx ⟨hn1, hn2⟩ hruns hsum hroom))
  · have hf := lowestFree_eq hlt ho hr hlow
    refine ⟨?_, takeFrame_clears hg hf, fun a => takeFrame_other hg hf⟩
    dsimp only
    rw [takeFrame_eq hg hf]
  · obtain ⟨frames, F⟩ := takeFrames_framed tiles g s hg hc hnodup hnone hroom
    exact ⟨frames, F.state, F.free, F.canonical, F.other, F.taken⟩
  · have W := writeCells_written (y := y) hn (runCells x runs) (runCells_nodup runs x) s hg
    refine ⟨W.state, fun i z a hmem hcell => ?_, W.outside⟩
    obtain ⟨_, _, r, hr, rfl⟩ := runCells_mem _ _ _ _ hmem
    rw [W.inside i r.code a hmem hcell, contentByte_toNat (hruns r hr)]

end Sys2Proof.Proofs.Maps
end

section
/-! The statements about thickness readings, flaws and the commit of a map (R67, R76 to R92). -/

namespace Sys2Proof.Proofs.Flaws

open Sys2Proof.Machine Sys2Proof.Laws Sys2Proof.Proofs.Book Sys2Proof.Proofs.Pieces

/-! ### THICKNESS (R67) -/

/-- The thickness entries after one reading. -/
def readingOn (cols : Nat) (t : Tab Thickness) (r : Reading) : Tab Thickness :=
  Tab.put t (r.row * cols + r.col) (thicknessAfter (Tab.get t (r.row * cols + r.col)) r.value)

/-- Readings write the thickness entries alone. -/
theorem takeReadings_thick (entries : List Reading) (g : Hide) :
    entries.foldl takeReading g = { g with thick := entries.foldl (readingOn g.cols) g.thick } := by
  induction entries generalizing g with
  | nil => rfl
  | cons r t ih => exact ih (takeReading g r)

theorem readingOk_iff (v : Nat) : readingOk v = true ↔ 30 ≤ v ∧ v ≤ 600 := by
  simp [readingOk]

theorem readingOk_count (entries : List Reading) :
    entries.countP (fun r => !readingOk r.value) = entries.countP fun r => decide (r.value < 30 ∨ 600 < r.value) := by
  refine List.countP_congr fun r _ => ?_
  rw [Bool.not_eq_true', Bool.eq_false_iff, Ne, readingOk_iff, decide_eq_true_eq]
  omega

theorem readingChecks_pass {g : Hide} {entries : List Reading}
    (h : ∀ r ∈ entries, r.col < g.cols ∧ r.row < g.tileRows) : firstFail (readingChecks g entries) = none := by
  refine firstFail_of_all fun c hc => ?_
  rcases List.mem_append.mp hc with hc | hc
  · obtain ⟨e, he, rfl⟩ := List.mem_map.mp hc
    exact decide_eq_true (h _ (List.fst_mem_of_mem_zipIdx he)).1
  · obtain ⟨e, he, rfl⟩ := List.mem_map.mp hc
    exact decide_eq_true (h _ (List.fst_mem_of_mem_zipIdx he)).2

theorem thicknessBody_accepts {s : State} {slot : Nat} {entries : List Reading} {g : Hide} (hslot : slot < 12)
    (hg : s.hide slot = some g) (hm : g.state = .mapping ∨ g.state = .mapped)
    (hn : 1 ≤ entries.length ∧ entries.length ≤ 64) (h : ∀ r ∈ entries, r.col < g.cols ∧ r.row < g.tileRows) :
    let k : Hide := { g with thick := entries.foldl (readingOn g.cols) g.thick }
    thicknessBody slot entries s = (s.putHide slot k, .accept (.thickness slot entries.length
      (entries.countP fun r => decide (r.value < 30 ∨ 600 < r.value)) k.thickValid)) := by
  have htaken : [HideState.mapping, .mapped].contains g.state = true := by
    rcases hm with hm | hm <;> rw [hm] <;> rfl
  unfold thicknessBody
  rw [onHide_in hslot hg htaken, checked_pass (by simpa using hn),
    checked_of_none (readingChecks_pass h), takeReadings_thick, readingOk_count]

theorem thicknessAfter_invalid (old : Option Thickness) {v : Nat} (h : v < 30 ∨ 600 < v) :
    thicknessAfter old v = .invalid :=
  if_neg fun hk => by rw [readingOk_iff] at hk; omega

theorem thicknessAfter_valid {v : Nat} (h1 : 30 ≤ v) (h2 : v ≤ 600) (a b c d : Nat) :
    thicknessAfter none v = .valid v v v v ∧ thicknessAfter (some .invalid) v = .valid v v v v ∧
      thicknessAfter (some (.valid a b c d)) v = .valid b c d v := by
  have hk : readingOk v = true := (readingOk_iff v).mpr ⟨h1, h2⟩
  exact ⟨if_pos hk, if_pos hk, if_pos hk⟩

/-- Settles O24: the readings one after another, each on its tile's entry. -/
theorem thicknessReadingsAreTaken : Obligations.ThicknessReadingsAreTaken := by
  unfold Obligations.ThicknessReadingsAreTaken
  refine ⟨fun h slot entries g s ht hslot hg hm h1 h2 hr => ?_,
    fun v a b c d => ⟨fun h1 h2 => thicknessAfter_valid h1 h2 a b c d, fun old => thicknessAfter_invalid old⟩⟩
  exact congrArg _ (request_next 0x32 _ _ _ ht (thicknessBody_accepts hslot (by simpa using hg) hm ⟨h1, h2⟩ hr))

/-! ### FLAW, FLAWS_CLEAR and MAP_COMMIT (R80 to R87) -/

/-- The fields of a flaw record on a hide. -/
structure FlawFits (g : Hide) (f : Flaw) : Prop where
  kind : f.kind < 6
  columns : f.x0 ≤ f.x1
  width : f.x1 < g.width
  rows : f.y0 ≤ f.y1
  height : f.y1 < g.height

theorem flawChecks_pass {g : Hide} {f : Flaw} (F : FlawFits g f) : firstFail (flawChecks g f) = none :=
  firstFail_of_all (by simpa [flawChecks] using ⟨F.kind, F.columns, F.width, F.rows, F.height⟩)

/-- The checks of FLAW, with those of the two lists. -/
theorem flaw_checks_pass {g : Hide} {f : Flaw} (F : FlawFits g f) (hstaged : g.state = .mapping → g.staged.length < 256)
    (hdeferred : g.state = .nesting → g.deferred.length < 32) :
    firstFail (flawChecks g f ++
      [(decide (g.state ≠ .mapping) || decide (g.staged.length < Config.stagedFlaws), .noRoom, Config.stagedFlaws),
       (decide (g.state ≠ .nesting) || decide (g.deferred.length < Config.deferredFlaws), .noRoom,
         Config.deferredFlaws)]) = none := by
  rw [firstFail_append _ _ (flawChecks_pass F)]
  refine firstFail_of_all ?_
  simp only [Config.stagedFlaws, Config.deferredFlaws, List.forall_mem_cons, Bool.or_eq_true, decide_eq_true_eq]
  exact ⟨imp_iff_not_or.mp hstaged, imp_iff_not_or.mp hdeferred, by simp⟩

theorem flawBody_staged {s : State} {slot : Nat} {f : Flaw} {g : Hide} (hslot : slot < 12) (hg : s.hide slot = some g)
    (F : FlawFits g f) (hm : g.state = .mapping) (hroom : g.staged.length < 256) :
    flawBody slot f s = stageFlaw slot g f s := by
  unfold flawBody
  rw [onHide_in hslot hg (by rw [hm]; rfl), checked_of_none (flaw_checks_pass F (fun _ => hroom) (by simp [hm])), hm]

theorem flawBody_deferred {s : State} {slot : Nat} {f : Flaw} {g : Hide} (hslot : slot < 12) (hg : s.hide slot = some g)
    (F : FlawFits g f) (hm : g.state = .nesting) (hroom : g.deferred.length < 32) :
    flawBody slot f s = deferFlaw slot g f s := by
  unfold flawBody
  rw [onHide_in hslot hg (by rw [hm]; rfl), checked_of_none (flaw_checks_pass F (by simp [hm]) (fun _ => hroom)), hm]

theorem flawBody_late {s : State} {slot : Nat} {f : Flaw} {g : Hide} (hslot : slot < 12) (hg : s.hide slot = some g)
    (F : FlawFits g f) (hm : g.state ∈ [HideState.mapped, .nestWait, .nested, .dispatchWait, .cutting, .done]) :
    flawBody slot f s = lateFlaw slot g f s := by
  have hnot : g.state ≠ .mapping ∧ g.state ≠ .nesting := by
    constructor <;> intro k <;> rw [k] at hm <;> simp at hm
  have hchecks := flaw_checks_pass F (fun k => absurd k hnot.1) (fun k => absurd k hnot.2)
  simp only [List.mem_cons, List.not_mem_nil, or_false] at hm
  unfold flawBody
  rw [onHide_in hslot hg (by rcases hm with h | h | h | h | h | h <;> rw [h] <;> rfl), checked_of_none hchecks]
  rcases hm with h | h | h | h | h | h <;> rw [h]

theorem flawsClearBody_clears {s : State} {slot : Nat} {g : Hide} (hslot : slot < 12) (hg : s.hide slot = some g)
    (hm : g.state = .mapping) :
    flawsClearBody slot s = (s.putHide slot { g with staged := [] }, .accept (.flawsCleared slot g.staged.length)) := by
  rw [flawsClearBody, onHide_in hslot hg (by rw [hm]; rfl)]

theorem mapCommitBody_commits {s : State} {slot : Nat} {g : Hide} (hslot : slot < 12) (hg : s.hide slot = some g)
    (hm : g.state = .mapping) : mapCommitBody slot s =
      (s.putHide slot { g with state := .committing }, .accept (.committing slot 2 g.staged.length)) := by
  rw [mapCommitBody, onHide_in hslot hg (by rw [hm]; rfl)]
  rfl

/-- A FLAW whose work reads no cell: the outcomes that it brings are dropped. -/
theorem exec_flaw_of_body {u : UpLink} {h : Head} {slot : Nat} {f : Flaw} {reads : List ReadOutcome} {s t : State}
    {r : Reply} (ht : s.takes (upLink u) h 13)
    (hb : flawBody slot f { s.hunt (upLink u) with tape := reads } = (t, r)) :
    exec (.flaw u h slot f reads) s = .next { t.replied (upLink u) 0x33 h r with tape := s.tape } :=
  congrArg _ (reads_request_next 0x33 (flawBody slot f) reads t r ht hb)

theorem replied_retape {s t : State} {l : Link} (k : Nat) (h : Head) (r : Reply) (reads : List ReadOutcome)
    (ht : t.tape = s.tape) : { State.replied { t with tape := reads } l k h r with tape := s.tape } =
      t.replied l k h r := by
  rw [replied_withTape, ← ht]
  exact (replied_withTape t l k h r t.tape).symm

/-- Settles O25: the two lists by the hide's state. -/
theorem flawsAreListed : Obligations.FlawsAreListed := by
  unfold Obligations.FlawsAreListed
  refine fun u h slot f reads g s hslot hg => ⟨fun ht hk hx hw hy hh => ⟨fun hm hroom => ?_, fun hm hroom => ?_⟩,
    fun ht hm => ⟨?_, ?_⟩⟩
  · have hg' : State.hide { s.hunt (upLink u) with tape := reads } slot = some g := (hunt_hide s _ slot).trans hg
    rw [exec_flaw_of_body ht (flawBody_staged hslot hg' ⟨hk, hx, hw, hy, hh⟩ hm hroom)]
    exact congrArg _ (replied_retape (t := (s.hunt (upLink u)).putHide slot _) 0x33 h _ reads (by simp))
  · have hg' : State.hide { s.hunt (upLink u) with tape := reads } slot = some g := (hunt_hide s _ slot).trans hg
    rw [exec_flaw_of_body ht (flawBody_deferred hslot hg' ⟨hk, hx, hw, hy, hh⟩ hm hroom)]
    exact congrArg _ (replied_retape (t := (s.hunt (upLink u)).putHide slot _) 0x33 h _ reads (by simp))
  · exact congrArg _ (request_next 0x34 _ _ _ ht (flawsClearBody_clears hslot (by simpa using hg) hm))
  · exact congrArg _ (request_next 0x35 _ _ _ ht (mapCommitBody_commits hslot (by simpa using hg) hm))

/-- Settles O26: the late branch of FLAW, with the settings in force. -/
theorem lateFlawsAreAppliedAndSwept : Obligations.LateFlawsAreAppliedAndSwept := by
  unfold Obligations.LateFlawsAreAppliedAndSwept
  intro u h slot f reads g s ht hslot hg hm hk hx hw hy hh
  have hg' : State.hide { s.hunt (upLink u) with tape := reads } slot = some g := (hunt_hide s _ slot).trans hg
  have hsettings : State.settings { s.hunt (upLink u) with tape := reads } = s.settings := hunt_settings s (upLink u)
  have hbody := flawBody_late hslot hg' ⟨hk, hx, hw, hy, hh⟩ hm
  unfold lateFlaw at hbody
  rw [hsettings] at hbody
  exact exec_flaw_of_body ht hbody

/-! ### The cells of a flaw (R69, R77) -/

theorem applyCell_graded_a {slot cols : Nat} {a : Applied} (c : Nat × Nat) (h : a.changed = []) :
    (applyCell slot cols .a a c).changed = [] ∧
      (applyCell slot cols .a a c).s.grid.contents = a.s.grid.contents := by
  have hread := readCell_contents a.s slot c.1 c.2
  unfold applyCell
  dsimp only
  split
  · exact ⟨h, hread⟩
  · exact ⟨h, hread⟩
  · exact ⟨h, hread⟩
  · next e _ =>
    have hnot : ¬ e.val < Grade.val .a := Nat.not_lt_zero _
    rw [if_neg hnot]
    exact ⟨h, hread⟩

/-- Settles O27: the four grades by the thresholds, and the cells that a flaw of grade A leaves. -/
theorem flawGradesFollowTheThresholds : Obligations.FlawGradesFollowTheThresholds := by
  unfold Obligations.FlawGradesFollowTheThresholds
  refine ⟨fun g f h12 h23 => ⟨fun hk => if_pos hk, fun hk => ?_⟩, fun slot f s ha => ?_⟩
  · unfold flawGrade
    rw [if_neg hk]
    split
    · simp; omega
    · split
      · simp; omega
      · split
        · simp; omega
        · simp; omega
  · unfold applyFlaw
    split
    · exact ⟨rfl, rfl⟩
    · rw [ha]
      exact foldl_inv _ (fun a : Applied => a.changed = [] ∧ a.s.grid.contents = s.grid.contents)
        (fun a c h => ⟨(applyCell_graded_a c h.1).1, (applyCell_graded_a c h.1).2.trans h.2⟩) _ _ ⟨rfl, rfl⟩

/-- What a flaw of a grade makes of a content. -/
def worse (n e : Nat) : Nat := if e < 4 then max e n else e

/-- A cell that a clean read takes: in the extent, framed and not poisoned. -/
def Live (g : Hide) (x y addr : Nat) : Prop := g.cellAt x y = some addr ∧ g.tileOf x y ∉ g.poisoned

/-- A content written and nothing else. -/
def withContent (s : State) (addr : Nat) (b : Byte) : State :=
  { s with grid := { s.grid with contents := Mem.write outsideCode s.grid.contents addr b } }

/-- One cell with a clean read: its content is as bad already, or it is written. -/
theorem applyCell_clean {slot : Nat} {g : Hide} (cols : Nat) (n : Grade) {a : Applied} (c : Nat × Nat)
    (ht : a.s.tape = []) (hg : a.s.hide slot = some g) :
    (applyCell slot cols n a c).fresh = a.fresh ∧
      (((applyCell slot cols n a c).s = a.s ∧ ∀ addr, Live g c.1 c.2 addr →
          worse n.val (Mem.read outsideCode a.s.grid.contents addr).toNat =
            (Mem.read outsideCode a.s.grid.contents addr).toNat) ∨
        ∃ addr, Live g c.1 c.2 addr ∧ (applyCell slot cols n a c).s = withContent a.s addr n.byte ∧
          worse n.val (Mem.read outsideCode a.s.grid.contents addr).toNat = n.val) := by
  unfold applyCell
  dsimp only
  rw [readCell_clean a.s slot c.1 c.2 g ht hg]
  cases hf : Tab.get g.frames (g.tileOf c.1 c.2) with
  | none =>
    refine ⟨rfl, Or.inl ⟨rfl, fun addr hl => ?_⟩⟩
    obtain ⟨_, _, f, hf', _⟩ := cellAt_some hl.1
    rw [hf] at hf'; cases hf'
  | some f =>
    dsimp only
    by_cases hp : g.poisoned.contains (g.tileOf c.1 c.2) = true
    · rw [if_pos hp]
      exact ⟨rfl, Or.inl ⟨rfl, fun addr hl => absurd (by simpa using hp) hl.2⟩⟩
    · rw [if_neg hp]
      have haddr : ∀ addr, Live g c.1 c.2 addr → addr = cellAddr f c.1 c.2 := by
        intro addr hl
        obtain ⟨_, _, f', hf', rfl⟩ := cellAt_some hl.1
        rw [Option.some.inj (hf.symm.trans hf')]
      rcases contentRead_cases a.s (cellAddr f c.1 c.2) with ⟨e, he, hval, hlt⟩ | ⟨he, hout⟩
      · rw [he]
        dsimp only
        by_cases hworse : e.val < n.val
        · rw [if_pos hworse]
          refine ⟨rfl, ?_⟩
          unfold writeGrade
          rw [hg, Option.bind_some]
          cases hcell : g.cellAt c.1 c.2 with
          | none => exact Or.inl ⟨rfl, fun addr hl => by rw [hl.1] at hcell; cases hcell⟩
          | some addr =>
            have hl : Live g c.1 c.2 addr := ⟨hcell, by simpa using hp⟩
            refine Or.inr ⟨addr, hl, rfl, ?_⟩
            rw [haddr addr hl, hval, worse, if_pos hlt]
            omega
        · rw [if_neg hworse]
          refine ⟨rfl, Or.inl ⟨rfl, fun addr hl => ?_⟩⟩
          rw [haddr addr hl, hval, worse, if_pos hlt]
          omega
      · rw [he]
        refine ⟨rfl, Or.inl ⟨rfl, fun addr hl => ?_⟩⟩
        rw [haddr addr hl, worse, if_neg hout]

/-- What a flaw applied with clean reads leaves of some cells. -/
structure Worsened (g : Hide) (n : Nat) (cells : List (Nat × Nat)) (s t : State) : Prop where
  state : t = { s with grid := { s.grid with contents := t.grid.contents } }
  inside : ∀ x y addr, (x, y) ∈ cells → Live g x y addr →
    (Mem.read outsideCode t.grid.contents addr).toNat = worse n (Mem.read outsideCode s.grid.contents addr).toNat
  outside : ∀ addr, (∀ x y, (x, y) ∈ cells → ¬ Live g x y addr) →
    Mem.read outsideCode t.grid.contents addr = Mem.read outsideCode s.grid.contents addr

theorem grade_byte (n : Grade) : n.byte.toNat = n.val := by cases n <;> rfl

theorem applyCells_clean {slot : Nat} {g : Hide} (hnodup : (g.frames.map (·.2)).Nodup) (cols : Nat) (n : Grade)
    (cells : List (Nat × Nat)) (hc : cells.Nodup) (a : Applied) (ht : a.s.tape = []) (hg : a.s.hide slot = some g) :
    (cells.foldl (applyCell slot cols n) a).fresh = a.fresh ∧
      Worsened g n.val cells a.s (cells.foldl (applyCell slot cols n) a).s := by
  induction cells generalizing a with
  | nil => exact ⟨rfl, rfl, by simp, fun _ _ => rfl⟩
  | cons c rest ih =>
    obtain ⟨hnot, hrest⟩ := List.nodup_cons.mp hc
    obtain ⟨hfresh, hcell⟩ := applyCell_clean cols n c ht hg
    rw [List.foldl_cons]
    rcases hcell with ⟨hs, hsame⟩ | ⟨addr, hl, hs, hw⟩
    · obtain ⟨hf, W⟩ := ih hrest (applyCell slot cols n a c) (by rw [hs, ht]) (by rw [hs, hg])
      rw [hs] at W
      refine ⟨hf.trans hfresh, W.state, fun x y addr hmem hl => ?_, fun addr hout =>
        W.outside addr fun x y hm => hout x y (by simp [hm])⟩
      rcases List.mem_cons.mp hmem with rfl | hmem
      · rw [hsame addr hl]
        refine congrArg BitVec.toNat (W.outside addr fun x' y' hm hl' => hnot ?_)
        obtain ⟨hx, hy⟩ := cellAt_inj hnodup hl.1 hl'.1
        simpa [hx, hy] using hm
      · exact W.inside x y addr hmem hl
    · obtain ⟨hf, W⟩ := ih hrest (applyCell slot cols n a c) (by rw [hs]; exact ht) (by rw [hs]; exact hg)
      rw [hs] at W
      have hother : ∀ x y, (x, y) ∈ rest → ¬ Live g x y addr := fun x y hm hl' => hnot (by
        obtain ⟨hx, hy⟩ := cellAt_inj hnodup hl.1 hl'.1
        rwa [← hx, ← hy] at hm)
      refine ⟨hf.trans hfresh, by rw [W.state]; rfl, fun x y b hmem hlb => ?_, fun b hout => ?_⟩
      · rcases List.mem_cons.mp hmem with rfl | hmem
        · obtain rfl : addr = b := Option.some.inj (hl.1.symm.trans hlb.1)
          rw [hw, W.outside addr hother]
          exact (congrArg BitVec.toNat (read_write_self ..)).trans (grade_byte n)
        · have hne : b ≠ addr := fun e => hother x y hmem (e ▸ hlb)
          rw [W.inside x y b hmem hlb]
          exact congrArg (fun z : Byte => worse n.val z.toNat) (read_write_other _ _ _ hne)
      · refine (W.outside b fun x y hm => hout x y (by simp [hm])).trans (read_write_other _ _ _ ?_)
        exact fun e => hout c.1 c.2 (by simp) (e ▸ hl)

/-- Settles O28: the cells of the rectangle one after another, no two of them at one address. -/
theorem flawsOnlyWorsenTheirRectangle : Obligations.FlawsOnlyWorsenTheirRectangle := by
  unfold Obligations.FlawsOnlyWorsenTheirRectangle
  intro slot f g s ht hg hnodup rect n a
  have ha : a = rect.cells.foldl (applyCell slot g.cols (flawGrade s.settings f)) ⟨s, [], []⟩ := by
    have : a = applyFlaw slot f s := rfl
    rw [this, applyFlaw, hg]
  obtain ⟨hfresh, W⟩ := applyCells_clean hnodup g.cols (flawGrade s.settings f) rect.cells (rect_cells_nodup rect)
    ⟨s, [], []⟩ ht hg
  rw [← ha] at hfresh W
  refine ⟨W.state, hfresh, fun x y addr hr hc hp => W.inside x y addr ((rect_cells_mem rect x y).mpr hr) ⟨hc, hp⟩,
    fun addr hout => W.outside addr fun x y hm hl => ?_⟩
  exact hl.2 (hout x y ((rect_cells_mem rect x y).mp hm) hl.1)

/-! ### The commit of a map (R88 to R92) -/

/-- A framed cell that a clean read finds inside: its tile is poisoned, or its content is a grade. -/
def Inside (s : State) (g : Hide) (x y : Nat) : Prop :=
  ∃ f, Tab.get g.frames (g.tileOf x y) = some f ∧
    (g.tileOf x y ∈ g.poisoned ∨ (Mem.read outsideCode s.grid.contents (cellAddr f x y)).toNat < 4)

/-- A read that finds a cell inside. -/
def readsInside : CellRead → Bool
  | .noFrame => false
  | .outside => false
  | .grade _ => true
  | .poisoned _ => true

theorem findInside_cons (slot : Nat) (c : Nat × Nat) (t : List (Nat × Nat)) (s : State) : findInside slot (c :: t) s =
    if readsInside (s.readCell slot c.1 c.2).2 then ((s.readCell slot c.1 c.2).1, true)
    else findInside slot t (s.readCell slot c.1 c.2).1 := by
  rw [findInside]
  cases (s.readCell slot c.1 c.2).2 <;> rfl

theorem readsInside_iff {s : State} {slot : Nat} {g : Hide} (ht : s.tape = []) (hg : s.hide slot = some g) (x y : Nat) :
    readsInside (s.readCell slot x y).2 = true ↔ Inside s g x y := by
  rw [readCell_clean s slot x y g ht hg]
  unfold Inside
  cases hf : Tab.get g.frames (g.tileOf x y) with
  | none => simp [readsInside]
  | some f =>
    dsimp only
    by_cases hp : g.tileOf x y ∈ g.poisoned
    · simp [readsInside, hp]
    · rcases contentRead_cases s (cellAddr f x y) with ⟨e, he, hval, hlt⟩ | ⟨he, hout⟩
      · simp [readsInside, hp, he, hval, hlt]
      · simp only [List.contains_eq_mem, hp, decide_false, Bool.false_eq_true, if_false, he, readsInside, false_iff,
          Option.some.injEq, exists_eq_left', false_or]
        exact hout

theorem findInside_clean {s : State} {slot : Nat} {g : Hide} (ht : s.tape = []) (hg : s.hide slot = some g)
    (cells : List (Nat × Nat)) : (findInside slot cells s).1 = s ∧
      ((findInside slot cells s).2 = true ↔ ∃ c ∈ cells, Inside s g c.1 c.2) := by
  induction cells with
  | nil => simp [findInside]
  | cons c t ih =>
    have hs : (s.readCell slot c.1 c.2).1 = s := by rw [readCell_clean s slot c.1 c.2 g ht hg]
    rw [findInside_cons, hs]
    by_cases hc : readsInside (s.readCell slot c.1 c.2).2 = true
    · rw [if_pos hc]
      exact ⟨rfl, fun _ => ⟨c, by simp, (readsInside_iff ht hg _ _).mp hc⟩, fun _ => rfl⟩
    · have hn : ¬ Inside s g c.1 c.2 := fun k => hc ((readsInside_iff ht hg _ _).mpr k)
      rw [if_neg hc]
      exact ⟨ih.1, by rw [ih.2]; simp [hn]⟩

/-- The marked rectangle of a flaw holds an inside cell. -/
def OnHide (s : State) (g : Hide) (f : Flaw) : Prop :=
  ∃ x y, f.x0 ≤ x ∧ x ≤ f.x1 ∧ f.y0 ≤ y ∧ y ≤ f.y1 ∧ Inside s g x y

theorem marked_inside (s : State) (g : Hide) (f : Flaw) :
    (∃ c ∈ (markedRect f).cells, Inside s g c.1 c.2) ↔ OnHide s g f := by
  have hmem (x y : Nat) : (x, y) ∈ (markedRect f).cells ↔ f.x0 ≤ x ∧ x ≤ f.x1 ∧ f.y0 ≤ y ∧ y ≤ f.y1 := by
    rw [rect_cells_mem]
    simp only [Rect.has, Bool.and_eq_true, decide_eq_true_eq, and_assoc]
    rfl
  constructor
  · rintro ⟨⟨x, y⟩, hc, hi⟩
    obtain ⟨h1, h2, h3, h4⟩ := (hmem x y).mp hc
    exact ⟨x, y, h1, h2, h3, h4, hi⟩
  · rintro ⟨x, y, h1, h2, h3, h4, hi⟩
    exact ⟨(x, y), (hmem x y).mpr ⟨h1, h2, h3, h4⟩, hi⟩

/-- The first staged flaw that is off the hide, from the index `k` up. -/
theorem findOffHide_cons {s : State} {slot : Nat} {g : Hide} (ht : s.tape = []) (hg : s.hide slot = some g) (k : Nat)
    (f : Flaw) (t : List Flaw) : (findOffHide slot k (f :: t) s).1 = (findOffHide slot (k + 1) t s).1 ∧
      (OnHide s g f → (findOffHide slot k (f :: t) s).2 = (findOffHide slot (k + 1) t s).2) ∧
      (¬ OnHide s g f → (findOffHide slot k (f :: t) s).2 = some k) := by
  obtain ⟨hs, hi⟩ := findInside_clean ht hg (markedRect f).cells
  rw [marked_inside] at hi
  rw [findOffHide]
  dsimp only
  rw [hs]
  exact ⟨rfl, fun h => if_pos (hi.mpr h), fun h => if_neg fun k => h (hi.mp k)⟩

theorem findOffHide_state {s : State} {slot : Nat} {g : Hide} (ht : s.tape = []) (hg : s.hide slot = some g)
    (flaws : List Flaw) (k : Nat) : (findOffHide slot k flaws s).1 = s := by
  induction flaws generalizing k with
  | nil => rfl
  | cons f t ih => exact (findOffHide_cons ht hg k f t).1.trans (ih (k + 1))

theorem findOffHide_none {s : State} {slot : Nat} {g : Hide} (ht : s.tape = []) (hg : s.hide slot = some g)
    (flaws : List Flaw) (k : Nat) : (findOffHide slot k flaws s).2 = none ↔ ∀ f ∈ flaws, OnHide s g f := by
  induction flaws generalizing k with
  | nil => simp [findOffHide]
  | cons f t ih =>
    obtain ⟨_, hon, hoff⟩ := findOffHide_cons ht hg k f t
    by_cases h : OnHide s g f
    · rw [hon h, ih]; simp [h]
    · rw [hoff h]; simp [h]

theorem findOffHide_first {s : State} {slot : Nat} {g : Hide} (ht : s.tape = []) (hg : s.hide slot = some g)
    {f : Flaw} (after : List Flaw) (hf : ¬ OnHide s g f) (before : List Flaw) (hb : ∀ e ∈ before, OnHide s g e)
    (k : Nat) : (findOffHide slot k (before ++ f :: after) s).2 = some (k + before.length) := by
  induction before generalizing k with
  | nil => exact (findOffHide_cons ht hg k f after).2.2 hf
  | cons e t ih =>
    rw [List.cons_append, (findOffHide_cons ht hg k e _).2.1 (hb e (by simp)), ih fun x hx => hb x (by simp [hx])]
    rw [List.length_cons]
    congr 1
    omega

theorem mem_tileCells (g : Hide) (tile x y : Nat) : (x, y) ∈ tileCells g tile ↔
    x < g.width ∧ y < g.height ∧ g.tileOf x y = tile := by
  have hext (x y : Nat) : g.inExtent x y = true ↔ x < g.width ∧ y < g.height := by
    simp only [Hide.inExtent, Bool.and_eq_true, decide_eq_true_eq]
  simp only [tileCells, List.mem_flatMap, List.mem_range, List.mem_filterMap, Option.ite_none_right_eq_some,
    Option.some.injEq, Prod.mk.injEq, hext, Hide.tileOf]
  constructor
  · rintro ⟨b, hb, a, ha, ⟨hx, hy⟩, rfl, rfl⟩
    have hdx : (tile % g.cols * 32 + a) / 32 = tile % g.cols := by omega
    have hdy : (tile / g.cols * 32 + b) / 32 = tile / g.cols := by omega
    exact ⟨hx, hy, by rw [hdx, hdy, Nat.div_add_mod']⟩
  · rintro ⟨hx, hy, rfl⟩
    have hcol : x / 32 < g.cols := by simp only [Hide.cols]; omega
    have hmod : (y / 32 * g.cols + x / 32) % g.cols = x / 32 := by
      rw [Nat.mul_add_mod_self_right, Nat.mod_eq_of_lt hcol]
    have hdiv : (y / 32 * g.cols + x / 32) / g.cols = y / 32 := by
      rw [Nat.mul_comm, Nat.mul_add_div (by omega), Nat.div_eq_of_lt hcol, Nat.add_zero]
    rw [hmod, hdiv]
    exact ⟨y % 32, by omega, x % 32, by omega, ⟨by omega, by omega⟩, by omega, by omega⟩

theorem get_ne_none_iff {α : Type} (t : Tab α) (k : Nat) : Tab.get t k ≠ none ↔ ∃ e ∈ t, e.1 = k := by
  induction t with
  | nil => simp
  | cons e t ih =>
    obtain ⟨j, b⟩ := e
    rw [Tab.get]
    by_cases hj : j = k
    · simp [hj]
    · rw [if_neg hj, ih]
      simp [hj]

/-- The framed cells are those of the extent whose tile has a frame. -/
theorem mem_framedCells (g : Hide) (x y : Nat) : (x, y) ∈ framedCells g ↔
    x < g.width ∧ y < g.height ∧ Tab.get g.frames (g.tileOf x y) ≠ none := by
  rw [get_ne_none_iff]
  simp only [framedCells, List.mem_flatMap, mem_tileCells]
  constructor
  · rintro ⟨e, he, hx, hy, ht⟩
    exact ⟨hx, hy, e, he, ht.symm⟩
  · rintro ⟨hx, hy, e, he, ht⟩
    exact ⟨e, he, hx, hy, ht.symm⟩

/-- A tile with a VALID thickness entry. -/
def ValidTile (g : Hide) (tile : Nat) : Prop := ∃ i j k l, Tab.get g.thick tile = some (.valid i j k l)

theorem average_isSome (g : Hide) (tile : Nat) :
    ((Tab.get g.thick tile).bind Thickness.average).isSome = true ↔ ValidTile g tile := by
  unfold ValidTile
  rcases Tab.get g.thick tile with _ | _ | ⟨a, b, c, d⟩
  · simp
  · simp [Thickness.average]
  · simp [Thickness.average]

theorem missingThickness_none {g : Hide} {settings : Settings}
    (h : settings.thickRequired = false ∨ ∀ e ∈ g.frames, ValidTile g e.1) : missingThickness settings g = none := by
  unfold missingThickness
  rcases h with h | h
  · rw [h]; rfl
  · split
    · rw [Option.map_eq_none_iff, List.find?_eq_none]
      intro e he
      simpa using Option.isSome_iff_ne_none.mp ((average_isSome g e.1).mpr (h e he))
    · rfl

theorem missingThickness_first {g : Hide} {settings : Settings} {before after : Tab Nat} {tile f : Nat}
    (hr : settings.thickRequired = true) (hfr : g.frames = before ++ (tile, f) :: after)
    (hb : ∀ e ∈ before, ValidTile g e.1) (ht : ¬ ValidTile g tile) :
    missingThickness settings g = some (tile % g.cols, tile / g.cols) := by
  have hfind : g.frames.find? (fun e => ((Tab.get g.thick e.1).bind Thickness.average).isNone) = some (tile, f) := by
    rw [List.find?_eq_some_iff_append]
    refine ⟨?_, before, after, hfr, fun e he => ?_⟩
    · rw [Option.isNone_iff_eq_none]
      by_contra hk
      exact ht ((average_isSome g tile).mp (Option.isSome_iff_ne_none.mpr hk))
    · rw [Option.not_isNone]
      exact (average_isSome g e.1).mpr (hb e he)
  rw [missingThickness, if_pos hr, hfind]
  rfl

theorem exec_commitCompletion {s : State} {slot : Nat} {g : Hide} (reads : List ReadOutcome) (hg : s.hide slot = some g)
    (hc : g.state = .committing) :
    exec (.commitCompletion slot reads) s =
      .next { completeCommit slot g { s with tape := reads } with tape := s.tape } := by
  have he : exec (.commitCompletion slot reads) s = execCommitCompletion slot reads s := rfl
  rw [he, execCommitCompletion, hg]
  simp only [hc, if_true, withReads_eq]

/-- Settles O29: the three checks of a commit, and what each finds with clean reads. -/
theorem commitsComplete : Obligations.CommitsComplete := by
  unfold Obligations.CommitsComplete
  refine ⟨fun slot reads g s hg hc => ⟨fun he ho hm => ?_, fun hk => ?_⟩,
    fun slot k cells flaws g s ht hg => ⟨(findInside_clean ht hg cells).1, (findInside_clean ht hg cells).2,
      findOffHide_state ht hg flaws k, findOffHide_none ht hg flaws k, fun before f after e hb hf => ?_⟩,
    fun g settings => ⟨mem_framedCells g, missingThickness_none, fun before tile f after => missingThickness_first⟩⟩
  · rw [exec_commitCompletion reads hg hc]
    unfold completeCommit
    dsimp only
    rw [if_pos]
    have hm' : missingThickness (State.settings { s with tape := reads }) g = none := hm
    rw [he, ho, hm']
    rfl
  · rw [exec_commitCompletion reads hg hc]
    unfold completeCommit
    dsimp only
    rw [if_neg]
    · rfl
    · rw [Bool.and_eq_true, Bool.and_eq_true, Option.isNone_iff_eq_none, Option.isNone_iff_eq_none]
      rintro ⟨⟨he, ho⟩, hm⟩
      rcases hk with h | h | h
      · rw [he] at h; cases h
      · exact h ho
      · exact h hm
  · rw [e]
    exact findOffHide_first ht hg after hf before hb k

end Sys2Proof.Proofs.Flaws
end

section
/-! The statements about closing, discarding and releasing a hide (R46 to R55). -/

namespace Sys2Proof.Proofs.Discards

open Sys2Proof.Machine Sys2Proof.Laws Sys2Proof.Proofs.Book Sys2Proof.Proofs.Pieces

/-! ### Returns on one line -/

theorem settleLine_line_congr (s t : State) (id : Nat) (l : Line) :
    (s.settleLine id l).line id = (t.settleLine id l).line id := by
  unfold State.settleLine
  (repeat' split) <;> simp

/-- A return writes the line by that line alone. -/
theorem claimReturn_line_congr {s t : State} {id : Nat} (h : s.line id = t.line id) :
    (s.claimReturn id).line id = (t.claimReturn id).line id := by
  unfold State.claimReturn
  rw [h]
  cases hl : t.line id with
  | none => exact h
  | some l =>
    dsimp only
    split
    · exact h
    · split
      · exact settleLine_line_congr ..
      · exact settleLine_line_congr ..
      · exact h
      · exact h

theorem claimReturn_line_other (s : State) {id k : Nat} (h : k ≠ id) : (s.claimReturn id).line k = s.line k := by
  unfold State.claimReturn
  (repeat' split) <;> first | rfl | exact line_settleLine_other _ _ h

/-- The line `id` is as after `n` returns on it. -/
def Returned (s : State) (id n : Nat) (t : State) : Prop := t.line id = (Nat.repeat (State.claimReturn id) n s).line id

theorem Returned.zero {s t : State} {id : Nat} (h : t.line id = s.line id) : Returned s id 0 t := h

theorem Returned.same {s t u : State} {id n : Nat} (H : Returned s id n t) (h : u.line id = t.line id) :
    Returned s id n u := h.trans H

/-- One more return, where it is on this line. -/
theorem Returned.claim {s t u : State} {id n : Nat} (H : Returned s id n t) (hbook : u.book = t.book) (k : Nat) :
    Returned s id (n + if k = id then 1 else 0) (u.claimReturn k) := by
  have hu : u.line id = t.line id := by unfold State.line; rw [hbook]
  by_cases hk : k = id
  · subst hk
    rw [if_pos rfl]
    exact claimReturn_line_congr (hu.trans H)
  · rw [if_neg hk]
    exact ((claimReturn_line_other u (Ne.symm hk)).trans hu).trans H

/-! ### The withdrawals and the stack (R54) -/

/-- A placement's or an entry's cover taken off, and its unit returned. -/
def gone (slot : Nat) (t : State) (p : Nat × Nat × Nat × Nat × Nat) : State :=
  (t.unmarkCover slot p.2.1 p.2.2.1 p.2.2.2.1 p.2.2.2.2).claimReturn p.1

theorem withdraw_taken {s : State} {slot i : Nat} {p : Placement} (hp : s.placement slot i = some p)
    (hs : p.state = .placed ∨ p.state = .ticketed) : State.withdraw slot s i =
      gone slot (s.modPlacement slot i fun q => { q with state := .withdrawn }) (p.line, p.slot, p.variant, p.x, p.y) := by
  unfold State.withdraw
  rw [hp]
  exact if_pos hs

theorem withdraw_left {s : State} {slot i : Nat} {p : Placement} (hp : s.placement slot i = some p)
    (hs : ¬ (p.state = .placed ∨ p.state = .ticketed)) : State.withdraw slot s i = s := by
  unfold State.withdraw
  rw [hp]
  exact if_neg hs

/-- A placement that a discard withdraws draws on a line. -/
def drawsOn (id : Nat) (p : Placement) : Bool := decide (p.line = id ∧ (p.state = .placed ∨ p.state = .ticketed))

theorem Returned.withdraw {s t : State} {id n slot i : Nat} {p : Placement} (H : Returned s id n t)
    (hp : t.placement slot i = some p) :
    Returned s id (n + if drawsOn id p then 1 else 0) (State.withdraw slot t i) := by
  by_cases hs : p.state = .placed ∨ p.state = .ticketed
  · have hdraws : (if drawsOn id p = true then 1 else 0) = if p.line = id then 1 else 0 := by simp [drawsOn, hs]
    rw [withdraw_taken hp hs, hdraws]
    exact H.claim (by simp) p.line
  · have hdraws : (if drawsOn id p = true then 1 else 0) = 0 := by simp [drawsOn, hs]
    rw [withdraw_left hp hs, hdraws]
    exact H

theorem placement_of_hide {s : State} {slot : Nat} {g : Hide} (hg : s.hide slot = some g) (i : Nat) :
    s.placement slot i = g.placements[i]? := by
  rw [State.placement, hg]

/-- The withdrawals in ascending index: those of the indices below `k` have been made. -/
theorem withdraws_returned {s : State} {slot : Nat} {g : Hide} (hg : s.hide slot = some g) (id k : Nat)
    (hk : k ≤ g.placements.length) :
    let t := (List.range k).foldl (State.withdraw slot) s
    (∀ j, k ≤ j → t.placement slot j = s.placement slot j) ∧
      Returned s id ((g.placements.take k).countP (drawsOn id)) t := by
  induction k with
  | zero => exact ⟨fun _ _ => rfl, .zero rfl⟩
  | succ k ih =>
    obtain ⟨hsame, H⟩ := ih (by omega)
    have hlt : k < g.placements.length := hk
    have hp := (hsame k le_rfl).trans (placement_of_hide hg k)
    rw [List.getElem?_eq_getElem hlt] at hp
    rw [List.range_succ, List.foldl_append, List.foldl_cons, List.foldl_nil]
    refine ⟨fun j hj => ?_, ?_⟩
    · rw [withdraw_placement, hsame j (by omega)]
      have hne : j ≠ k := by omega
      cases s.placement slot j <;> simp [hne]
    · rw [← List.take_append_getElem hlt, List.countP_append, List.countP_cons, List.countP_nil, Nat.zero_add]
      exact H.withdraw hp

/-- The entries popped, newest first. -/
theorem pops_returned {s t : State} {id n slot : Nat} (stack : List Entry) (H : Returned s id n t) :
    Returned s id (n + stack.countP fun e => decide (e.line = id)) (stack.foldl (State.popEntry slot) t) := by
  induction stack generalizing t n with
  | nil => exact H
  | cons e rest ih =>
    have hone : Returned s id (n + if e.line = id then 1 else 0) (State.popEntry slot t e) := H.claim (by simp) e.line
    have hcount : (n + if e.line = id then 1 else 0) + rest.countP (fun e => decide (e.line = id)) =
        n + (e :: rest).countP fun e => decide (e.line = id) := by
      rw [List.countP_cons]
      simp only [decide_eq_true_eq]
      omega
    exact hcount ▸ ih hone

/-- The pass with its stack emptied, where it is on the hide of the slot. -/
def emptied (slot : Nat) (p : Pass) : Pass := if p.slot = slot then { p with stack := [] } else p

theorem pass_emptied {slot : Nat} {t : State} (h : t.stackOf slot = []) :
    t.engine.pass.map (emptied slot) = t.engine.pass := by
  cases hp : t.engine.pass with
  | none => rfl
  | some p =>
    simp only [State.stackOf, hp] at h
    rw [Option.map_some, emptied]
    split
    · next hs =>
      rw [if_pos hs] at h
      cases p
      cases h
      rfl
    · rfl

/-- The pass that has entries to pop is on the hide of the slot. -/
theorem pass_of_stack {slot : Nat} {t : State} (h : t.stackOf slot ≠ []) : ∃ p, t.engine.pass = some p ∧ p.slot = slot := by
  unfold State.stackOf at h
  cases hp : t.engine.pass with
  | none => simp [hp] at h
  | some p =>
    simp only [hp] at h
    exact ⟨p, rfl, by by_contra hs; exact h (if_neg hs)⟩

theorem popAll_eq (slot : Nat) (t : State) : t.popAll slot =
    { (t.stackOf slot).foldl (State.popEntry slot) t with
      engine := { t.engine with pass := t.engine.pass.map (emptied slot) } } := by
  unfold State.popAll
  by_cases hs : t.stackOf slot = []
  · rw [pass_emptied hs, hs]
    rfl
  · obtain ⟨p, hp, hslot⟩ := pass_of_stack hs
    obtain ⟨_, hengine⟩ := pops_same slot (t.stackOf slot) t
    have he : emptied slot p = { p with stack := [] } := if_pos hslot
    rw [if_neg (by simpa using hs), State.setStack, hengine, hp, Option.map_some, Option.map_some, he]

/-! ### The completion of a discard (R54) -/

/-- What a discard takes off a hide: its placements withdrawn, and the entries of its pass popped. -/
def stripped (slot : Nat) (g : Hide) (s : State) : State :=
  (s.stackOf slot).foldl (State.popEntry slot) ((List.range g.placements.length).foldl (State.withdraw slot) s)

/-- The state just before the slot is freed. -/
def detached (slot : Nat) (g : Hide) (s : State) : State :=
  { stripped slot g s with
    engine := { queue := s.engine.queue.filter fun e => decide (e.slot ≠ slot),
                pass := s.engine.pass.map (emptied slot) }
    arbiter := { s.arbiter with waiting := s.arbiter.waiting.filter fun k => decide (k ≠ slot) } }

theorem completeDiscard_eq {s : State} {slot : Nat} {g : Hide} (hg : s.hide slot = some g) :
    s.completeDiscard slot =
      (((detached slot g s).freeSlot slot).clearHide slot).raise (.hide slot .discardDone) := by
  have hall : s.withdrawAll slot = (List.range g.placements.length).foldl (State.withdraw slot) s := by
    rw [State.withdrawAll, hg]
  have hengine : (s.withdrawAll slot).engine = s.engine := withdrawAll_engine s slot
  have harbiter : (s.withdrawAll slot).arbiter = s.arbiter := withdrawAll_arbiter s slot
  have hstack : (s.withdrawAll slot).stackOf slot = s.stackOf slot := by rw [State.stackOf, hengine]; rfl
  have hpops : ((s.stackOf slot).foldl (State.popEntry slot) (s.withdrawAll slot)).arbiter = s.arbiter :=
    (foldl_inv _ (fun u : State => u.arbiter = s.arbiter) (fun u e hu => (popEntry_arbiter u slot e).trans hu) _ _ harbiter)
  have hdetached : (((s.withdrawAll slot).popAll slot).leaveQueue slot).leaveWaiting slot = detached slot g s := by
    rw [popAll_eq, hstack, hengine]
    unfold State.leaveQueue State.leaveWaiting
    dsimp only
    rw [hpops, hall]
    rfl
  rw [State.completeDiscard, hdetached]

theorem stripped_returned {s : State} {slot : Nat} {g : Hide} (hg : s.hide slot = some g) (id : Nat) :
    Returned s id (g.placements.countP (drawsOn id) + (s.stackOf slot).countP fun e => decide (e.line = id))
      (stripped slot g s) := by
  obtain ⟨_, H⟩ := withdraws_returned hg id g.placements.length le_rfl
  rw [List.take_length] at H
  exact pops_returned _ H

theorem freeSlot_book (slot : Nat) (s : State) : (s.freeSlot slot).book = s.book := by simp

theorem mem_completeDiscard {s : State} {slot : Nat} {g : Hide} (hg : s.hide slot = some g) (e : Event) :
    e ∈ (s.completeDiscard slot).attn.events ↔ e = .hide slot .discardDone ∨
      (e ∈ ((detached slot g s).freeSlot slot).attn.events ∧ e.source ≠ slot) := by
  rw [completeDiscard_eq hg, raise_events, mem_insertEvent]
  simp [State.clearHide]

/-! ### A slot freed (R55, R61) -/

theorem mem_retired (frames retired : List Nat) (f : Nat) :
    f ∈ frames.foldl (fun r f => insertNat f r) retired ↔ f ∈ retired ∨ f ∈ frames := by
  induction frames generalizing retired with
  | nil => simp
  | cons a t ih =>
    rw [List.foldl_cons, ih, mem_insertNat, List.mem_cons]
    tauto

/-- A slot's hide dropped and its poisoned frames retired, before the throttle is evaluated. -/
def dropped (slot : Nat) (s : State) : State :=
  { s with hides := (s.freeSlot slot).hides, grid := { s.grid with retired := (s.freeSlot slot).grid.retired } }

theorem releaseEval_retired (s : State) : s.releaseEval.grid.retired = s.grid.retired := by
  unfold State.releaseEval State.toNormal
  (repeat' split) <;> first | rfl | simp

theorem freeSlot_dropped {s : State} {slot : Nat} {g : Hide} (hg : s.hide slot = some g) :
    s.freeSlot slot = (dropped slot s).releaseEval := by
  have hd : dropped slot s = { s with
      hides := { s.hides with slots := Tab.del s.hides.slots slot }
      grid := { s.grid with
        retired := (State.poisonedFrames g).foldl (fun r f => insertNat f r) s.grid.retired } } := by
    unfold dropped
    rw [freeSlot_eq hg, releaseEval_hides, releaseEval_retired]
  rw [hd, freeSlot_eq hg]

theorem freeSlot_retired {s : State} {slot : Nat} {g : Hide} (hg : s.hide slot = some g) (f : Nat) :
    f ∈ (s.freeSlot slot).grid.retired ↔ f ∈ s.grid.retired ∨ ∃ tile ∈ g.poisoned, Tab.get g.frames tile = some f := by
  rw [freeSlot_eq hg, releaseEval_retired, ← mem_poisonedFrames]
  exact mem_retired ..

theorem releaseEval_resumes {s : State} (h : s.settings.frameResume ≤ s.free) (ht : s.grid.throttle = .throttled) :
    s.releaseEval = State.raise (.store .throttleOff) { s with grid := { s.grid with throttle := .normal } } := by
  rw [State.releaseEval, if_pos h, State.toNormal, ht]

theorem releaseEval_stays {s : State} (h : s.free < s.settings.frameResume ∨ s.grid.throttle = .normal) :
    s.releaseEval = s := by
  unfold State.releaseEval
  split
  · next hr => rw [State.toNormal, h.resolve_left (by omega)]
  · rfl

/-! ### CLOSE and DISCARD (R50 to R53) -/

theorem closeBody_done {s : State} {slot : Nat} {g : Hide} (hslot : slot < 12) (hg : s.hide slot = some g)
    (hd : g.state = .done) :
    closeBody slot s = ((s.freeSlot slot).clearHide slot, .accept (.closed slot g.tag)) := by
  rw [closeBody, onHide_in hslot hg (by rw [hd]; rfl)]

theorem discardBody_nesting {s : State} {slot : Nat} {g : Hide} (hslot : slot < 12) (hg : s.hide slot = some g)
    (hn : g.state = .nesting) : discardBody slot s =
      (s.putHide slot { g with state := .discarding, route := some .engine }, .accept (.discarded slot g.tag 10)) := by
  have hbegin : s.beginDiscard slot .engine = s.putHide slot { g with state := .discarding, route := some .engine } :=
    modHide_some _ hg
  unfold discardBody
  rw [onHide_in hslot hg (by rw [hn]; rfl), hn, hbegin]
  rfl

theorem discardBody_cutting {s : State} {slot : Nat} {g : Hide} {c : Fin 4} (hslot : slot < 12)
    (hg : s.hide slot = some g) (hn : g.state = .cutting) (hc : g.channel = some c) : discardBody slot s =
      ((s.putHide slot { g with state := .discarding, route := some .channel }).modChan c
        fun ch => { ch with state := .aborting, deadlines := [] }, .accept (.discarded slot g.tag 10)) := by
  have hbegin : s.beginDiscard slot .channel = s.putHide slot { g with state := .discarding, route := some .channel } :=
    modHide_some _ hg
  have habort (t : State) : t.abortChannel g.channel =
      t.modChan c fun ch => { ch with state := .aborting, deadlines := [] } := by
    rw [hc]
    rfl
  unfold discardBody
  rw [onHide_in hslot hg (by rw [hn]; rfl), hn, habort, hbegin]
  rfl

theorem discardBody_completes {s : State} {slot : Nat} {g : Hide} (hslot : slot < 12) (hg : s.hide slot = some g)
    (hn : g.state ∉ [HideState.nesting, .cutting, .discarding]) :
    discardBody slot s = (s.completeDiscard slot, .accept (.discarded slot g.tag 0)) := by
  simp only [List.mem_cons, List.not_mem_nil, or_false, not_or] at hn
  obtain ⟨h1, h2, h3⟩ := hn
  unfold discardBody
  rw [onHide_in hslot hg]
  · split
    · next h => exact absurd h h1
    · next h => exact absurd h h2
    · rfl
  · cases hs : g.state <;> first | rfl | exact absurd hs h3

/-- Settles O30: the two requests by the hide's state, the completion as withdrawals, pops and a slot freed, and the
returns counted on each line. -/
theorem hidesAreClosedAndDiscarded : Obligations.HidesAreClosedAndDiscarded := by
  unfold Obligations.HidesAreClosedAndDiscarded
  refine fun u h slot g s hslot hg => ⟨fun ht hd => ?_, fun ht => ⟨fun hn => ?_, fun c hn hc => ?_, fun hn => ?_⟩, ?_, ?_⟩
  · exact congrArg _ (request_next 0x39 _ _ _ ht (closeBody_done hslot (by simpa using hg) hd))
  · exact congrArg _ (request_next 0x38 _ _ _ ht (discardBody_nesting hslot (by simpa using hg) hn))
  · exact congrArg _ (request_next 0x38 _ _ _ ht (discardBody_cutting hslot (by simpa using hg) hn hc))
  · exact congrArg _ (request_next 0x38 _ _ _ ht (discardBody_completes hslot (by simpa using hg) hn))
  · refine ⟨completeDiscard_eq hg, fun e he hs => ?_, (mem_completeDiscard hg _).mpr (Or.inl rfl),
      fun i p hp => ⟨withdraw_taken hp, fun h1 h2 => withdraw_left hp (not_or.mpr ⟨h1, h2⟩)⟩, fun id => ?_⟩
    · exact ((mem_completeDiscard hg e).mp he).resolve_right fun k => k.2 hs
    · have hline : (s.completeDiscard slot).line id = (stripped slot g s).line id := by
        rw [completeDiscard_eq hg]
        unfold State.line
        rw [raise_book, clearHide_book, freeSlot_book]
        rfl
      exact hline.trans (stripped_returned hg id)
  · obtain ⟨hhide, hreleased, _⟩ := freeSlot_same hg
    refine ⟨by rw [hhide, if_pos rfl], fun k hk => by rw [hhide, if_neg hk], hreleased, freeSlot_retired hg,
      fun h1 h2 => ?_, fun h => ?_⟩
    · exact (freeSlot_dropped hg).trans (releaseEval_resumes (s := dropped slot s) h1 h2)
    · exact (freeSlot_dropped hg).trans (releaseEval_stays (s := dropped slot s) h)

/-! ### RELEASE (R46, R47) -/

theorem releaseBody_noRoom {s : State} {slot code : Nat} {mask : Byte} {g : Hide} (hslot : slot < 12)
    (hg : s.hide slot = some g) (hn : g.state = .nested) (hu : (urgencyOf code).isSome = true)
    (hm : maskOk mask = true) (hp : g.anyPlaced = true) (hr : s.hides.released = 4294967295) :
    releaseBody slot code mask s = (s, .refuse .noRoom 0) := by
  unfold releaseBody
  rw [onHide_in hslot hg (by rw [hn]; rfl), checked_pass hu, checked_pass hm, checked_pass hp,
    checked_fail (by rw [hr]; rfl)]

theorem releaseBody_numbers {s : State} {slot code : Nat} {mask : Byte} {g : Hide} {u : Urgency} (hslot : slot < 12)
    (hg : s.hide slot = some g) (hn : g.state = .nested) (hu : urgencyOf code = some u)
    (hm : maskOk mask = true) (hp : g.anyPlaced = true) (hr : s.hides.released < 4294967295) :
    let n := s.hides.released + 1
    let t := State.putHide { s with hides := { s.hides with released := n } } slot
      { g with state := .dispatchWait, release := some ⟨n, u, mask⟩ }
    releaseBody slot code mask s = ((t.joinWaiting slot).evaluate, .accept (.released slot n)) := by
  unfold releaseBody
  rw [onHide_in hslot hg (by rw [hn]; rfl), hu, checked_pass (ok := (some u).isSome) rfl, checked_pass hm, checked_pass hp,
    checked_pass (decide_eq_true hr), checked_nil]
  rfl

theorem urgencyOf_eq {code : Nat} {u : Urgency} (h : code = 0 ∧ u = .rush ∨ code = 1 ∧ u = .normal) :
    urgencyOf code = some u := by
  rcases h with ⟨rfl, rfl⟩ | ⟨rfl, rfl⟩ <;> rfl

theorem maskOk_of {mask : Byte} (h1 : 1 ≤ mask.toNat) (h2 : mask.toNat ≤ 15) : maskOk mask = true := by
  simp only [maskOk, Bool.and_eq_true, decide_eq_true_eq]
  omega

theorem anyPlaced_of {g : Hide} (h : ∃ p ∈ g.placements, p.state = .placed) : g.anyPlaced = true := by
  simpa [Hide.anyPlaced] using h

/-- Settles O31: the checks of RELEASE, the last of them on the number. -/
theorem releasesAreNumbered : Obligations.ReleasesAreNumbered := by
  unfold Obligations.ReleasesAreNumbered
  intro h slot code u mask g s ht hslot hg hn hu h1 h2 hp n
  have hg' : (s.hunt .control).hide slot = some g := by simpa using hg
  have hurg := urgencyOf_eq hu
  refine ⟨fun hr => ?_, fun hr => ?_⟩
  · exact congrArg _ (request_next 0x48 _ _ _ ht
      (releaseBody_noRoom hslot hg' hn (by rw [hurg]; rfl) (maskOk_of h1 h2) (anyPlaced_of hp) hr))
  · exact congrArg _ (request_next 0x48 _ _ _ ht
      (releaseBody_numbers hslot hg' hn hurg (maskOk_of h1 h2) (anyPlaced_of hp) hr))

end Sys2Proof.Proofs.Discards
end

section
/-! The statements about fit tests and searches (R98 to R100). -/

namespace Sys2Proof.Proofs.Fits

open Sys2Proof.Machine Sys2Proof.Laws

/-! ### One cell (R98) -/

/-- What a cell test with clean reads asks of one cell. -/
def CellFits (retest : Bool) (band : Option (Nat × Nat)) (g : Hide) (s : State) (zone x y : Nat) : Prop :=
  (retest = true ∨ x < g.width ∧ y < g.height) ∧
  ∃ f, Tab.get g.frames (g.tileOf x y) = some f ∧ g.tileOf x y ∉ g.poisoned ∧
    ((Mem.read outsideCode s.grid.contents (cellAddr f x y)).toNat < 4 ∧
      (Mem.read outsideCode s.grid.contents (cellAddr f x y)).toNat + 1 ≤ zone) ∧
    (∀ b, band = some b → ∃ i j k l, Tab.get g.thick (g.tileOf x y) = some (.valid i j k l) ∧
      b.1 ≤ (i + j + k + l) / 4 ∧ (i + j + k + l) / 4 ≤ b.2) ∧
    (retest = true ∨ Mem.read noCover s.grid.covers (cellAddr f x y) = 0)

theorem averageIn_iff (o : Option Thickness) (b : Nat × Nat) :
    (o.bind Thickness.average).any (fun a => decide (b.1 ≤ a) && decide (a ≤ b.2)) = true ↔
      ∃ i j k l, o = some (.valid i j k l) ∧ b.1 ≤ (i + j + k + l) / 4 ∧ (i + j + k + l) / 4 ≤ b.2 := by
  rcases o with _ | ⟨i, j, k, l⟩ | _
  · simp
  · simp only [Option.bind_some, Thickness.average, Option.any_some, Bool.and_eq_true, decide_eq_true_eq,
      Option.some.injEq, Thickness.valid.injEq]
    constructor
    · exact fun h => ⟨i, j, k, l, ⟨rfl, rfl, rfl, rfl⟩, h⟩
    · rintro ⟨_, _, _, _, ⟨rfl, rfl, rfl, rfl⟩, h⟩
      exact h
  · simp [Thickness.average]

theorem thicknessOk_iff (g : Hide) (band : Option (Nat × Nat)) (tile : Nat) :
    thicknessOk g band tile = true ↔ ∀ b, band = some b → ∃ i j k l, Tab.get g.thick tile = some (.valid i j k l) ∧
      b.1 ≤ (i + j + k + l) / 4 ∧ (i + j + k + l) / 4 ≤ b.2 := by
  unfold thicknessOk
  cases band with
  | none => simp
  | some b => simpa using averageIn_iff (Tab.get g.thick tile) b

theorem inExtent_iff (g : Hide) (x y : Nat) : g.inExtent x y = true ↔ x < g.width ∧ y < g.height := by
  simp [Hide.inExtent]

/-- The cover of a cell of the extent in a framed tile. -/
theorem coverAt_framed {s : State} {slot x y f : Nat} {g : Hide} (hg : s.hide slot = some g)
    (hin : g.inExtent x y = true) (hf : Tab.get g.frames (g.tileOf x y) = some f) :
    s.coverAt slot x y = some (Mem.read noCover s.grid.covers (cellAddr f x y)).toNat := by
  unfold State.coverAt
  rw [hg]
  simp only [Hide.cellAt, if_pos hin, hf, Option.map_some]

theorem covered_iff {s : State} {slot x y f : Nat} {g : Hide} (hg : s.hide slot = some g)
    (hin : g.inExtent x y = true) (hf : Tab.get g.frames (g.tileOf x y) = some f) :
    s.coverAt slot x y = some 0 ↔ Mem.read noCover s.grid.covers (cellAddr f x y) = 0 := by
  rw [coverAt_framed hg hin hf, Option.some.injEq]
  exact ⟨fun h => BitVec.eq_of_toNat_eq h, fun h => by rw [h]; rfl⟩

/-- With clean reads a cell test passes exactly where the cell fits. -/
theorem testCell_pass_iff {retest : Bool} {slot zone x y : Nat} {band : Option (Nat × Nat)} {g : Hide} {s : State}
    (ht : s.tape = []) (hg : s.hide slot = some g) :
    (testCell retest slot band g zone x y s).2 = .pass ↔ CellFits retest band g s zone x y := by
  unfold testCell CellFits
  rw [readCell_clean s slot x y g ht hg, ← inExtent_iff]
  by_cases hin : retest = true ∨ g.inExtent x y = true
  · rw [if_neg (by rcases hin with h | h <;> simp [h])]
    cases hf : Tab.get g.frames (g.tileOf x y) with
    | none => simp
    | some f =>
      by_cases hp : g.tileOf x y ∈ g.poisoned
      · simp [hp]
      · rcases contentRead_cases s (cellAddr f x y) with ⟨e, hread, hval, hlt⟩ | ⟨hread, hnot⟩
        · have hcover : retest = true ∨ s.coverAt slot x y = some 0 ↔
              retest = true ∨ Mem.read noCover s.grid.covers (cellAddr f x y) = 0 := by
            rcases hin with h | h
            · simp [h]
            · rw [covered_iff hg h hf]
          have hcontains : g.poisoned.contains (g.tileOf x y) = false := by simpa using hp
          simp only [hcontains, hread, Bool.false_eq_true, if_false, hin, true_and, Option.some.injEq, exists_eq_left', hp,
            not_false_eq_true, hval, hlt, ← thicknessOk_iff, ← hcover]
          cases retest <;> (repeat' split) <;> simp_all
        · simp [hp, hread, hnot]
  · rw [if_pos (by simpa [not_or] using hin)]
    simp [hin]

/-- With clean reads a test of cells changes nothing, and passes exactly where every cell does. -/
theorem testCells_clean {retest : Bool} {slot x y : Nat} {band : Option (Nat × Nat)} {g : Hide} {s : State}
    (ht : s.tape = []) (hg : s.hide slot = some g) (cells : List BodyCell) :
    (testCells retest slot band g x y cells s).1 = s ∧ ((testCells retest slot band g x y cells s).2 = .pass ↔
      ∀ c ∈ cells, CellFits retest band g s c.zone (x + c.i) (y + c.j)) := by
  induction cells with
  | nil => exact ⟨rfl, by simp [testCells]⟩
  | cons c t ih =>
    have hsame := testCell_clean retest slot band g c.zone (x + c.i) (y + c.j) s ht hg
    have hone := testCell_pass_iff (retest := retest) (zone := c.zone) (x := x + c.i) (y := y + c.j) (band := band) ht hg
    simp only [List.forall_mem_cons, testCells]
    cases hr : (testCell retest slot band g c.zone (x + c.i) (y + c.j) s).2 with
    | pass =>
      dsimp only
      rw [hsame]
      exact ⟨ih.1, ih.2.trans (and_iff_right (hone.mp hr)).symm⟩
    | fail =>
      refine ⟨hsame, ?_⟩
      dsimp only
      rw [hr] at hone ⊢
      exact ⟨fun h => (nomatch h), fun h => (nomatch (hone.mpr h.1))⟩

theorem fitTest_hide {s : State} {slot : Nat} {g : Hide} (hg : s.hide slot = some g) (retest : Bool)
    (band : Option (Nat × Nat)) (v : Variant) (x y : Nat) :
    fitTest retest slot band v x y s = testCells retest slot band g x y v.body s := by
  rw [fitTest, hg]

/-- Settles O34: the test cell by cell, up to the first that does not fit. -/
theorem fitTestsPassExactlyOnFits : Obligations.FitTestsPassExactlyOnFits := by
  unfold Obligations.FitTestsPassExactlyOnFits
  intro retest slot band v x y g s ht hg
  rw [fitTest_hide hg]
  exact testCells_clean ht hg v.body

/-! ### Searches (R100) -/

theorem mem_candidatesAt {g : Hide} {pc : Piece} (hs : Tab.sorted pc.variants = true) (X Y o x y : Nat) :
    (o, x, y) ∈ candidatesAt g pc X Y ↔ x = X ∧ y = Y ∧
      ∃ v, Tab.get pc.variants o = some v ∧ pc.offsets.getLsbD ((o + 8 - g.backbone % 8) % 8) = true ∧
        x + v.width ≤ g.width ∧ y + v.height ≤ g.height := by
  simp only [candidatesAt, List.mem_map, List.mem_filter, Prod.mk.injEq, Bool.and_eq_true, allowed_eq, boxFits,
    decide_eq_true_eq]
  constructor
  · rintro ⟨⟨k, v⟩, ⟨hm, hk, hw, hh⟩, rfl, rfl, rfl⟩
    exact ⟨rfl, rfl, v, get_of_mem hs hm, hk, hw, hh⟩
  · rintro ⟨rfl, rfl, v, hv, hk, hw, hh⟩
    exact ⟨(o, v), ⟨mem_of_get hv, hk, hw, hh⟩, rfl, rfl, rfl⟩

theorem mem_candidates {g : Hide} {pc : Piece} (hs : Tab.sorted pc.variants = true) (o x y : Nat) :
    (o, x, y) ∈ candidates g pc ↔ x < g.width ∧ y < g.height ∧
      ∃ v, Tab.get pc.variants o = some v ∧ pc.offsets.getLsbD ((o + 8 - g.backbone % 8) % 8) = true ∧
        x + v.width ≤ g.width ∧ y + v.height ≤ g.height := by
  simp only [candidates, List.mem_flatMap, List.mem_range, mem_candidatesAt hs]
  constructor
  · rintro ⟨_, hy, _, hx, rfl, rfl, h⟩
    exact ⟨hx, hy, h⟩
  · rintro ⟨hx, hy, h⟩
    exact ⟨y, hy, x, hx, rfl, rfl, h⟩

/-- The order of R100: by row, by column, by orientation. -/
def Before (a b : Nat × Nat × Nat) : Prop :=
  a.2.2 < b.2.2 ∨ a.2.2 = b.2.2 ∧ (a.2.1 < b.2.1 ∨ a.2.1 = b.2.1 ∧ a.1 < b.1)

theorem sorted_pairwise {α : Type} {t : Tab α} (h : Tab.sorted t = true) : t.Pairwise fun a b => a.1 < b.1 := by
  induction t with
  | nil => exact List.Pairwise.nil
  | cons e t ih =>
    rw [sorted_cons] at h
    exact List.Pairwise.cons h.1 (ih h.2)

theorem candidatesAt_pairwise {g : Hide} {pc : Piece} (hs : Tab.sorted pc.variants = true) (x y : Nat) :
    (candidatesAt g pc x y).Pairwise Before :=
  List.Pairwise.map _ (fun _ _ h => .inr ⟨rfl, .inr ⟨rfl, h⟩⟩) ((sorted_pairwise hs).filter _)

theorem candidates_pairwise {g : Hide} {pc : Piece} (hs : Tab.sorted pc.variants = true) :
    (candidates g pc).Pairwise Before := by
  refine List.pairwise_flatMap.mpr ⟨fun Y _ => List.pairwise_flatMap.mpr ⟨fun X _ => candidatesAt_pairwise hs X Y, ?_⟩, ?_⟩
  · refine List.pairwise_lt_range.imp fun {X1 X2} hX a ha b hb => ?_
    obtain ⟨ha1, ha2, -⟩ := (mem_candidatesAt hs X1 Y _ _ _).mp ha
    obtain ⟨hb1, hb2, -⟩ := (mem_candidatesAt hs X2 Y _ _ _).mp hb
    exact .inr ⟨ha2.trans hb2.symm, .inl (ha1.trans_lt (hX.trans_eq hb1.symm))⟩
  · refine List.pairwise_lt_range.imp fun {Y1 Y2} hY a ha b hb => .inl ?_
    obtain ⟨X1, -, ha⟩ := List.mem_flatMap.mp ha
    obtain ⟨X2, -, hb⟩ := List.mem_flatMap.mp hb
    obtain ⟨-, ha2, -⟩ := (mem_candidatesAt hs X1 Y1 _ _ _).mp ha
    obtain ⟨-, hb2, -⟩ := (mem_candidatesAt hs X2 Y2 _ _ _).mp hb
    exact ha2.trans_lt (hY.trans_eq hb2.symm)

/-- What follows a failed test. -/
theorem searchOn_eq (g : Hide) (q : Search) : searchOn g q =
    if q.tried + 1 < (candidates g q.piece).length then .search { q with tried := q.tried + 1 }
    else if q.role = .mirror then .mirrorNoFit else .ending .noFit := by
  unfold searchOn
  cases q.role <;> rfl

theorem fitTestEvent_search {p : Pass} {q : Search} {g : Hide} {s : State} (hp : s.engine.pass = some p)
    (hph : p.phase = .search q) (hg : s.hide p.slot = some g) : fitTestEvent s = searchTest p q g s := by
  unfold fitTestEvent
  rw [hp]
  dsimp only
  rw [hph, hg]

theorem searchTest_pass {p : Pass} {q : Search} {g : Hide} {o x y : Nat} {v : Variant} {s : State}
    (hc : (candidates g q.piece)[q.tried]? = some (o, x, y)) (hv : Tab.get q.piece.variants o = some v)
    (hr : (fitTest false p.slot q.piece.band v x y s).2 = .pass) :
    searchTest p q g s = (fitTest false p.slot q.piece.band v x y s).1.setPhase (.found q o x y) := by
  unfold searchTest
  rw [hc]
  dsimp only
  rw [hv]
  dsimp only
  rw [hr]

theorem searchTest_fail {p : Pass} {q : Search} {g : Hide} {o x y code fx fy : Nat} {fresh : Option Nat} {v : Variant}
    {s : State} (hc : (candidates g q.piece)[q.tried]? = some (o, x, y)) (hv : Tab.get q.piece.variants o = some v)
    (hr : (fitTest false p.slot q.piece.band v x y s).2 = .fail code fx fy fresh) :
    searchTest p q g s =
      ((fitTest false p.slot q.piece.band v x y s).1.handFresh p.slot fresh).setPhase (searchOn g q) := by
  unfold searchTest
  rw [hc]
  dsimp only
  rw [hv]
  dsimp only
  rw [hr]

/-- Settles O35: the candidates as a list by row, column and orientation, and the event of one test. -/
theorem searchesTestTheirCandidatesInOrder : Obligations.SearchesTestTheirCandidatesInOrder := by
  unfold Obligations.SearchesTestTheirCandidatesInOrder
  refine ⟨fun g pc hs => ⟨mem_candidates hs, candidates_pairwise hs⟩, ?_⟩
  intro p q g o x y v reads s hp hph hg hc hv
  have hevent : fitTestEvent { s with tape := reads } = searchTest p q g { s with tape := reads } :=
    fitTestEvent_search hp hph hg
  have hexec : exec (.fitTest reads) s = .next (s.withReads reads fitTestEvent) := rfl
  rw [hexec, withReads_eq, hevent]
  refine ⟨fun hr => ?_, fun code fx fy fresh hr => ?_⟩
  · rw [searchTest_pass hc hv hr]
  · rw [searchTest_fail hc hv hr, searchOn_eq]

end Sys2Proof.Proofs.Fits
end

section
/-! The statements about the nest engine (chapter 7): NEST, the stop checks, the pushes, the ends of steps and passes. -/

namespace Sys2Proof.Proofs.Nest

open Sys2Proof.Machine Sys2Proof.Laws Sys2Proof.Proofs.Book Sys2Proof.Proofs.Pieces Sys2Proof.Proofs.Discards

/-! ### NEST and NEST_TAKE (R115 to R117) -/

theorem lineIs_of {s : State} {id : Nat} {l : Line} (hl : s.line id = some l) (ok : Line → Bool) :
    lineIs s id ok = ok l := by
  rw [lineIs, hl]
  rfl

theorem lineIs_iff (s : State) (id : Nat) (ok : Line → Bool) :
    lineIs s id ok = true ↔ ∃ l, s.line id = some l ∧ ok l = true := by
  unfold lineIs
  cases s.line id <;> simp

/-- A step that NEST takes. -/
def Nestable (s : State) (q : StepReq) : Prop :=
  q.mode ≤ 1 ∧ 1 ≤ q.quota ∧ ∃ l, s.line q.line = some l ∧ l.state = .active ∧ (l.pair = none → q.quota ≤ 64) ∧
    ∀ p, l.pair = some p → q.quota ≤ 32 ∧ ∃ m, s.line p.mirror = some m ∧ m.state = .active

theorem active_of_nestable {s : State} {q : StepReq} (h : Nestable s q) : lineIs s q.line Line.isActive = true := by
  obtain ⟨-, -, l, hl, ha, -⟩ := h
  exact (lineIs_of hl _).trans (decide_eq_true ha)

theorem mirrorReady_of_nestable {s : State} {q : StepReq} (h : Nestable s q) : mirrorReady s q.line = true := by
  obtain ⟨-, -, l, hl, -, -, hpair⟩ := h
  refine (lineIs_of hl _).trans ?_
  cases hp : l.pair with
  | none => rfl
  | some p =>
    obtain ⟨-, m, hm, hma⟩ := hpair p hp
    exact (lineIs_of hm _).trans (decide_eq_true hma)

theorem quotaOk_of_nestable {s : State} {q : StepReq} (h : Nestable s q) : quotaOk s q = true := by
  obtain ⟨-, hq, l, hl, -, hsingle, hpair⟩ := h
  refine Bool.and_eq_true_iff.mpr ⟨decide_eq_true hq, (lineIs_of hl _).trans (decide_eq_true ?_)⟩
  cases hp : l.pair with
  | none => exact hsingle hp
  | some p => exact (hpair p hp).1

theorem stepModeOf_of_le {n : Nat} (h : n ≤ 1) : stepModeOf n = some (if n = 0 then .fill else .exact) := by
  obtain rfl | rfl : n = 0 ∨ n = 1 := by omega
  · rfl
  · rfl

theorem overSteps_pass {steps : List StepReq} {ok : StepReq → Bool} (h : ∀ q ∈ steps, ok q = true) (reason : Reason)
    (base : Nat) : ∀ c ∈ overSteps steps ok reason base, c.1 = true := by
  intro c hc
  obtain ⟨e, he, rfl⟩ := List.mem_map.mp hc
  exact h _ (List.fst_mem_of_mem_zipIdx he)

theorem planStep_of_nestable {s : State} {q : StepReq} (h : Nestable s q) : planStep s q =
    { line := q.line, quota := q.quota, mode := if q.mode = 0 then .fill else .exact,
      pair := (s.line q.line).bind Line.pair } := by
  rw [planStep, stepModeOf_of_le h.1]
  rfl

theorem nestBody_queues {s : State} {slot : Nat} {steps : List StepReq} {g : Hide} (hslot : slot < 12)
    (hg : s.hide slot = some g) (hst : g.state = .mapped ∨ g.state = .nested)
    (hn : 1 ≤ steps.length ∧ steps.length ≤ 16) (h : ∀ q ∈ steps, Nestable s q) :
    nestBody slot steps s = ({ s.putHide slot { g with state := .nestWait } with
        engine := { s.engine with queue := s.engine.queue ++ [⟨slot, steps.map (planStep s)⟩] } },
      .accept (.queued slot 4 s.engine.queue.length)) := by
  have hused : ∀ q ∈ steps, (s.line q.line).isSome = true := fun q hq => by
    obtain ⟨-, -, l, hl, -⟩ := h q hq
    rw [hl]
    rfl
  have hmode : ∀ q ∈ steps, (stepModeOf q.mode).isSome = true := fun q hq => by
    rw [stepModeOf_of_le (h q hq).1]
    rfl
  unfold nestBody
  rw [onHide_in hslot hg (by rcases hst with h | h <;> rw [h] <;> rfl), checked_of_none]
  · rfl
  refine firstFail_of_all fun c hc => ?_
  simp only [List.mem_append, List.mem_singleton] at hc
  rcases hc with ((((rfl | hc) | hc) | hc) | hc) | hc
  · simpa using hn
  · exact overSteps_pass hused _ _ c hc
  · exact overSteps_pass (fun q hq => active_of_nestable (h q hq)) _ _ c hc
  · exact overSteps_pass (fun q hq => mirrorReady_of_nestable (h q hq)) _ _ c hc
  · exact overSteps_pass (fun q hq => quotaOk_of_nestable (h q hq)) _ _ c hc
  · exact overSteps_pass hmode _ _ c hc

theorem takeHide_head {s : State} {e : QueueEntry} {rest : List QueueEntry} {g : Hide}
    (he : s.engine = { queue := e :: rest, pass := none }) (hg : s.hide e.slot = some g) :
    takeHide s = State.putHide { s with engine := { queue := rest, pass := some ⟨e.slot, e.plan, 0, 0, [], .attempt⟩ } }
      e.slot { g with state := .nesting, report := some ⟨[], 0, 0⟩ } := by
  unfold takeHide
  rw [he]
  exact modHide_some _ hg

/-- Settles O32: the six checks of NEST over all steps, and the head of the queue taken. -/
theorem nestsAreQueuedAndTaken : Obligations.NestsAreQueuedAndTaken := by
  unfold Obligations.NestsAreQueuedAndTaken
  refine ⟨fun h slot steps g s ht hslot hg hst h1 h2 hq => ?_,
    fun e rest g s he hg => congrArg Host.Outcome.next (takeHide_head he hg)⟩
  have hn : ∀ q ∈ steps, Nestable (s.hunt .control) q := by simpa [Nestable] using hq
  have hplan : steps.map (planStep (s.hunt .control)) = steps.map fun q =>
      ({ line := q.line, quota := q.quota, mode := if q.mode = 0 then .fill else .exact,
         pair := (s.line q.line).bind Line.pair } : PlanStep) :=
    List.map_congr_left fun q hm => by rw [planStep_of_nestable (hn q hm), hunt_line]
  have hbody := nestBody_queues hslot (by simpa using hg) hst ⟨h1, h2⟩ hn
  rw [hplan, hunt_engine] at hbody
  exact congrArg _ (request_next 0x40 _ _ _ ht hbody)

/-! ### The stop checks (R118) -/

theorem stopChecks_eq {s : State} {p : Pass} {k : PlanStep} {g : Hide} (hp : s.engine.pass = some p)
    (hph : p.phase = .attempt) (hk : p.plan[p.step]? = some k) (hg : s.hide p.slot = some g) :
    stopChecks s = s.setPhase (stopPhase p g k s) := by
  unfold stopChecks
  rw [hp]
  dsimp only
  rw [hph, hg, hk]

theorem lineStops_eq_false_iff (s : State) (k : PlanStep) : lineStops s k = false ↔
    (∃ l, s.line k.line = some l ∧ l.state = .active ∧ l.pair = k.pair) ∧
      ∀ q, k.pair = some q → ∃ l, s.line q.mirror = some l ∧ l.state = .active := by
  simp only [lineStops, Bool.or_eq_false_iff, Bool.not_eq_false', lineIs_iff, Line.isActive, Bool.and_eq_true,
    decide_eq_true_eq]
  refine and_congr_right fun _ => ?_
  cases k.pair <;> simp [lineIs_iff, Line.isActive]

theorem demandMet_eq_false_iff (s : State) (k : PlanStep) : demandMet s k = false ↔
    (∀ l, s.line k.line = some l → l.openUnits ≠ 0) ∧
      ∀ q m, k.pair = some q → s.line q.mirror = some m → m.openUnits ≠ 0 := by
  have hline (id : Nat) : (lineIs s id fun l => decide (l.openUnits = 0)) = false ↔
      ∀ l, s.line id = some l → l.openUnits ≠ 0 := by
    rw [← Bool.not_eq_true, lineIs_iff]
    simp
  simp only [demandMet, Bool.or_eq_false_iff, hline]
  refine and_congr_right fun _ => ?_
  cases k.pair with
  | none => simp
  | some q =>
    rw [Option.any_some, hline]
    exact ⟨fun h _ m e hm => h m (Option.some.inj e ▸ hm), fun h m hm => h q m rfl hm⟩

theorem listFull_eq_false_iff (g : Hide) (p : Pass) (k : PlanStep) : listFull g p k = false ↔
    g.placements.length + p.stack.length + (if k.pair.isSome then 2 else 1) ≤ 160 := by
  simp [listFull, Config.placements]

theorem beginSearch_of {s : State} {slot line : Nat} {g : Hide} {l : Line} {pc : Piece} (hg : s.hide slot = some g)
    (hl : s.line line = some l) (hpc : s.piece l.slot = some pc) (role : Role) (noFit : Phase) :
    beginSearch slot role line noFit s =
      if (candidates g pc).isEmpty then noFit else .search ⟨role, line, l.slot, l.pair, pc, 0⟩ := by
  unfold beginSearch
  rw [hg, hl]
  dsimp only
  rw [hpc]

/-- Settles O33: the branches of the stop checks in their order. -/
theorem stopChecksAreMadeInOrder : Obligations.StopChecksAreMadeInOrder := by
  unfold Obligations.StopChecksAreMadeInOrder
  intro p k g s hp hph hk hg active stands wanted roomy goes
  have hstands : lineStops s k = false ↔ stands := lineStops_eq_false_iff s k
  have hwanted : demandMet s k = false ↔ wanted := demandMet_eq_false_iff s k
  have hroomy : listFull g p k = false ↔ roomy := listFull_eq_false_iff g p k
  have hgoes {ph : Phase} (h : stopPhase p g k s = ph) : goes ph :=
    congrArg Host.Outcome.next ((stopChecks_eq hp hph hk hg).trans (by rw [h]))
  refine ⟨fun hd => hgoes (if_pos hd), fun hd h1 => hgoes ?_, fun hd h1 h2 => hgoes ?_, fun hd h1 h2 h3 => hgoes ?_,
    fun hd h1 h2 h3 hq => hgoes ?_, fun hd h1 h2 h3 hq l pc hl hpc => hgoes ?_⟩ <;> rw [stopPhase, if_neg hd]
  · rw [if_pos (Bool.eq_true_of_not_eq_false (mt hstands.mp h1))]
  · rw [if_neg (by simp [hstands.mpr h1]), if_pos (Bool.eq_true_of_not_eq_false (mt hwanted.mp h2))]
  · rw [if_neg (by simp [hstands.mpr h1]), if_neg (by simp [hwanted.mpr h2]),
      if_pos (Bool.eq_true_of_not_eq_false (mt hroomy.mp h3))]
  · rw [if_neg (by simp [hstands.mpr h1]), if_neg (by simp [hwanted.mpr h2]), if_neg (by simp [hroomy.mpr h3]), if_pos hq]
  · rw [if_neg (by simp [hstands.mpr h1]), if_neg (by simp [hwanted.mpr h2]), if_neg (by simp [hroomy.mpr h3]), if_neg hq]
    exact beginSearch_of hg hl hpc _ _

/-! ### The pushes (R119 to R122) -/

theorem stackOf_pass {s : State} {p : Pass} (hp : s.engine.pass = some p) : s.stackOf p.slot = p.stack := by
  unfold State.stackOf
  rw [hp]
  exact if_pos rfl

/-- The top entry popped, and the phase set. -/
theorem popTop_setPhase {s : State} {p : Pass} {e : Entry} {rest : List Entry} (hp : s.engine.pass = some p)
    (hs : p.stack = e :: rest) (ph : Phase) : (s.popTop p.slot).setPhase ph =
      { (s.unmarkCover p.slot e.slot e.variant e.x e.y).claimReturn e.line with
        engine := { s.engine with pass := some { p with stack := rest, phase := ph } } } := by
  have hengine : (State.popEntry p.slot s e).engine = s.engine := (pops_same p.slot [e] s).2
  unfold State.popTop
  rw [stackOf_pass hp, hs]
  dsimp only
  rw [State.setPhase, State.setStack, hengine, hp]
  rfl

theorem stillNamed_iff (s : State) (q : Search) : stillNamed s q = true ↔
    ∃ l, s.line q.line = some l ∧ l.slot = q.slot ∧ l.pair = q.pair ∧ s.piece q.slot = some q.piece := by
  simp only [stillNamed, Bool.and_eq_true, lineIs_iff, decide_eq_true_eq]
  constructor
  · rintro ⟨⟨l, hl, h1, h2⟩, h3⟩
    exact ⟨l, hl, h1, h2, h3⟩
  · rintro ⟨l, hl, h1, h2, h3⟩
    exact ⟨⟨l, hl, h1, h2⟩, h3⟩

/-- The search's line is refused its reserve, and the step ends for the reason. -/
def RefusedFor (s : State) (q : Search) (r : EndReason) : Prop := reserveFound q s = none ∧ foundEnd s q = r

theorem refusedFor_renamed {s : State} {q : Search} (h : stillNamed s q = false) : RefusedFor s q .notActive := by
  simp [RefusedFor, reserveFound, foundEnd, h]

theorem refusedFor_line {s : State} {q : Search} {l : Line} (h : stillNamed s q = true) (hl : s.line q.line = some l)
    (hr : l.state ≠ .active ∨ l.openUnits = 0) :
    RefusedFor s q (if l.state = .active ∨ l.state = .complete then .demandMet else .notActive) := by
  refine ⟨(if_pos h).trans (claimReserve_refused hl hr), ?_⟩
  rw [foundEnd, if_pos h, refusedEnd, lineIs_of hl]
  exact if_congr (by simp [Line.demandEnded, Line.isActive]) rfl rfl

theorem pushFound_refused {s : State} {q : Search} {r : EndReason} (h : RefusedFor s q r) (p : Pass) (o x y : Nat) :
    pushFound p q o x y s =
      if q.role = .mirror then (s.popTop p.slot).setPhase (.ending r) else s.setPhase (.ending r) := by
  obtain ⟨hnone, hend⟩ := h
  unfold pushFound
  rw [hnone, hend]
  cases q.role <;> rfl

theorem pushFound_reserved {s t : State} {q : Search} {o : Nat} {v : Variant} (h : reserveFound q s = some t)
    (hv : Tab.get q.piece.variants o = some v) (p : Pass) (x y : Nat) : pushFound p q o x y s =
      afterPush p q.role ((t.markCover p.slot q.piece.margin v x y).pushEntry ⟨q.line, q.slot, o, x, y, q.role⟩) := by
  unfold pushFound coverFound
  rw [h, hv]

theorem unitPush_found {s : State} {p : Pass} {q : Search} {o x y : Nat} (hp : s.engine.pass = some p)
    (hph : p.phase = .found q o x y) : unitPush s = pushFound p q o x y s := by
  unfold unitPush
  rw [hp]
  dsimp only
  rw [hph]

theorem unitPush_mirrorNoFit {s : State} {p : Pass} (hp : s.engine.pass = some p) (hph : p.phase = .mirrorNoFit) :
    unitPush s = (s.popTop p.slot).setPhase (.ending .noFit) := by
  unfold unitPush
  rw [hp]
  dsimp only
  rw [hph]

theorem afterPush_unit {role : Role} (h : role ≠ .primary) (p : Pass) (s : State) :
    afterPush p role s = s.countUnit.setPhase .attempt := by
  cases role with
  | single => rfl
  | mirror => rfl
  | primary => exact absurd rfl h

theorem afterPush_primary {p : Pass} {k : PlanStep} (hk : p.plan[p.step]? = some k) (s : State) :
    afterPush p .primary s = s.setPhase (beginSearch p.slot .mirror k.mirror .mirrorNoFit s) := by
  unfold afterPush
  rw [hk]

/-- Settles O36: the push where the reserve is granted, and the end of the step where it is refused. -/
theorem unitsArePushedOrTheStepEnds : Obligations.UnitsArePushedOrTheStepEnds := by
  unfold Obligations.UnitsArePushedOrTheStepEnds
  intro p q o x y s hp ends popped refused
  have hpopped {e : Entry} {rest : List Entry} (hs : p.stack = e :: rest) (r : EndReason) :
      .next ((s.popTop p.slot).setPhase (.ending r)) = popped e rest r :=
    congrArg Host.Outcome.next (popTop_setPhase hp hs (.ending r))
  refine ⟨fun e rest hph hs => ?_, fun hph => ?_⟩
  · exact (congrArg Host.Outcome.next (unitPush_mirrorNoFit hp hph)).trans (hpopped hs _)
  have hexec : exec .unitPush s = .next (pushFound p q o x y s) := congrArg Host.Outcome.next (unitPush_found hp hph)
  have hrefused {r : EndReason} (h : RefusedFor s q r) : refused r := by
    rw [pushFound_refused h] at hexec
    exact ⟨fun hrole => hexec.trans (by rw [if_neg hrole]),
      fun e rest hrole hs => hexec.trans (by rw [if_pos hrole]; exact hpopped hs r)⟩
  refine ⟨fun l v hl hslot hpair hpc hv => ?_, fun h => hrefused (refusedFor_renamed ?_)⟩
  · have hnamed : stillNamed s q = true := (stillNamed_iff s q).mpr ⟨l, hl, hslot, hpair, hpc⟩
    refine ⟨fun ha ho => ?_, fun ha ho => hrefused ?_, fun hc => hrefused ?_, fun hc => hrefused ?_⟩
    · intro t
      have hpush : exec .unitPush s = .next (afterPush p q.role t) := hexec.trans
        (congrArg _ (pushFound_reserved ((if_pos hnamed).trans (claimReserve_granted hl ha ho)) hv p x y))
      refine ⟨fun hrole => by rw [hpush, afterPush_unit hrole], fun k hrole hk => ?_⟩
      rw [hpush, hrole, afterPush_primary hk]
    · simpa [ha] using refusedFor_line hnamed hl (.inr ho)
    · simpa [hc] using refusedFor_line hnamed hl (.inl (by simp [hc]))
    · rcases hc with hc | hc
      · simpa [hc] using refusedFor_line hnamed hl (.inl (by simp [hc]))
      · simpa [hc] using refusedFor_line hnamed hl (.inl (by simp [hc]))
  · rw [← Bool.not_eq_true, stillNamed_iff]
    rintro ⟨l, hl, h1, h2, h3⟩
    rcases h l hl with h | h | h
    · exact h h1
    · exact h h2
    · exact h h3

/-! ### The ends of steps (R123, R124) -/

theorem stepEnd_eq {s : State} {p : Pass} {k : PlanStep} {r : EndReason} (hp : s.engine.pass = some p)
    (hph : p.phase = .ending r) (hk : p.plan[p.step]? = some k) : stepEnd s = endStep p k r s := by
  unfold stepEnd
  rw [hp]
  dsimp only
  rw [hph, hk]

theorem rolledBack_iff (mode : StepMode) (r : EndReason) : rolledBack mode r = true ↔ mode = .exact ∧ r ≠ .quota := by
  simp [rolledBack]

theorem putHide_putHide (s : State) (slot : Nat) (a b : Hide) :
    (s.putHide slot a).putHide slot b = s.putHide slot b := by
  simp only [State.putHide, put_put]

theorem modHide_modHide {s : State} {slot : Nat} {g : Hide} (hg : s.hide slot = some g) (a b : Hide → Hide) :
    (s.modHide slot a).modHide slot b = s.putHide slot (b (a g)) := by
  rw [modHide_some a hg, modHide_some b (hide_putHide_self s slot (a g)), putHide_putHide]

theorem endStep_commits {s : State} {p : Pass} {k : PlanStep} {r : EndReason} {g : Hide} (hg : s.hide p.slot = some g)
    (h : rolledBack k.mode r = false) : endStep p k r s = (s.putHide p.slot { g with
      placements := g.placements ++
        (p.stack.reverse.zipIdx g.placements.length).map fun e => enginePlacement e.1 e.2
      report := addResult ⟨k.line, p.units, r, false⟩ p.stack.length (p.stack.map (entryBody s)).sum g.report }).putPass
        (some (nextStep p)) := by
  rw [endStep, if_neg (by simp [h]), commitStack, modHide_modHide hg]

/-- The stack popped leaves the engine's queue and the pass, which then moves on. -/
theorem putPass_popAll (s : State) (slot : Nat) (o : Option Pass) :
    (s.popAll slot).putPass o = ((s.stackOf slot).foldl (State.popEntry slot) s).putPass o := by
  obtain ⟨-, hengine⟩ := pops_same slot (s.stackOf slot) s
  rw [popAll_eq, State.putPass, State.putPass, hengine]

theorem putPass_modHide (s : State) (slot : Nat) (f : Hide → Hide) (o : Option Pass) :
    (s.modHide slot f).putPass o = (s.putPass o).modHide slot f := by
  cases hg : s.hide slot with
  | none => rw [modHide_none f hg, modHide_none f (by exact hg)]
  | some g =>
    rw [modHide_some f hg, modHide_some f (by exact hg)]
    rfl

theorem endStep_rollsBack {s : State} {p : Pass} {k : PlanStep} {r : EndReason} {g : Hide}
    (hp : s.engine.pass = some p) (hg : s.hide p.slot = some g) (h : rolledBack k.mode r = true) :
    endStep p k r s = ((p.stack.foldl (State.popEntry p.slot) s).putHide p.slot
      { g with report := addResult ⟨k.line, 0, r, true⟩ 0 0 g.report }).putPass (some (nextStep p)) := by
  obtain ⟨hhides, -⟩ := pops_same p.slot p.stack s
  have hpopped : (p.stack.foldl (State.popEntry p.slot) s).hide p.slot = some g := by
    unfold State.hide at hg ⊢
    rw [hhides]
    exact hg
  rw [endStep, if_pos h, putPass_modHide, putPass_popAll, stackOf_pass hp, ← putPass_modHide, modHide_some _ hpopped]

/-- Settles O37: the entries committed in push order, or popped newest first. -/
theorem stepsEndInACommitOrARollback : Obligations.StepsEndInACommitOrARollback := by
  unfold Obligations.StepsEndInACommitOrARollback
  intro p k r g s hp hph hk hg next
  have hexec : exec .stepEnd s = .next (endStep p k r s) := congrArg Host.Outcome.next (stepEnd_eq hp hph hk)
  refine ⟨fun h => ?_, fun h1 h2 => ?_⟩
  · have hnot : rolledBack k.mode r = false := by
      rw [← Bool.not_eq_true, rolledBack_iff]
      rintro ⟨hm, hr⟩
      rcases h with h | h
      · rw [h] at hm
        exact nomatch hm
      · exact hr h
    rw [hexec, endStep_commits hg hnot]
    rfl
  · rw [hexec, endStep_rollsBack hp hg ((rolledBack_iff _ _).mpr ⟨h1, h2⟩)]
    rfl

/-! ### The ends of passes (R128, R129) -/

theorem passEndEvent_at {s : State} {p : Pass} {g : Hide} (hp : s.engine.pass = some p) (hph : p.phase = .passEnd)
    (hg : s.hide p.slot = some g) :
    passEndEvent s = if g.state = .discarding then s.setPhase .aborting else endPass p.slot g s := by
  unfold passEndEvent
  rw [hp]
  dsimp only
  rw [hph, hg]

theorem passAbort_at {s : State} {p : Pass} {g : Hide} (hp : s.engine.pass = some p) (hg : s.hide p.slot = some g) :
    passAbort s =
      if g.state = .discarding ∧ atHideTest p.phase then (s.completeDiscard p.slot).putPass none else s := by
  unfold passAbort
  rw [hp]
  dsimp only
  rw [hg]

/-- Settles O38: the two events by the state of the pass's hide. -/
theorem passesEndOrAreAborted : Obligations.PassesEndOrAreAborted := by
  unfold Obligations.PassesEndOrAreAborted
  intro p g reads s hp hg
  have hexec : exec (.passEnd reads) s = .next { passEndEvent { s with tape := reads } with tape := s.tape } :=
    congrArg Host.Outcome.next (withReads_eq s reads passEndEvent)
  have habort : exec .passAbort s = .next (passAbort s) := rfl
  have hend (hph : p.phase = .passEnd) := passEndEvent_at (s := { s with tape := reads }) hp hph hg
  refine ⟨fun hph hd => ?_, fun hph hd => ?_, fun hph hd => ?_, fun hd => ?_⟩
  · rw [hexec, hend hph, if_neg hd]
    rfl
  · rw [hexec, hend hph, if_pos hd]
    rfl
  · have hat : atHideTest p.phase = true := by
      rcases hph with h | h | h <;> rw [h] <;> rfl
    rw [habort, passAbort_at hp hg, if_pos ⟨hd, hat⟩]
  · rw [habort, passAbort_at hp hg, if_neg fun h => hd h.1]

end Sys2Proof.Proofs.Nest
end

section
/-! The statements about placing by hand and strikes (R103, R107 to R109). -/

namespace Sys2Proof.Proofs.Placing

open Sys2Proof.Machine Sys2Proof.Laws Sys2Proof.Proofs.Book Sys2Proof.Proofs.Pieces Sys2Proof.Proofs.Discards

/-! ### One spot (R107) -/

/-- The spot of a piece on a hide that PLACE takes. -/
structure SpotFits (s : State) (g : Hide) (k : Nat) (a : Spot) (pc : Piece) (v : Variant) : Prop where
  orientation : a.orientation < 8
  column : a.x < g.width
  row : a.y < g.height
  piece : s.piece k = some pc
  usable : pc.offsets.getLsbD ((a.orientation + 8 - g.backbone % 8) % 8) = true
  variant : Tab.get pc.variants a.orientation = some v

section Spots

variable {s : State} {g : Hide} {k slot : Nat} {a : Spot} {pc : Piece} {v : Variant}

theorem SpotFits.variantOf (F : SpotFits s g k a pc v) : s.variantOf k a.orientation = some (pc, v) :=
  variantOf_of F.piece F.variant

/-- Only the piece is read of the state. -/
theorem SpotFits.of_piece (F : SpotFits s g k a pc v) {t : State} (h : t.piece k = s.piece k) : SpotFits t g k a pc v :=
  { F with piece := h.trans F.piece }

theorem SpotFits.checks (F : SpotFits s g k a pc v) (base : Nat) :
    ∀ c ∈ spotChecks s g k base a.orientation a.x a.y, c.1 = true := by
  simp only [spotChecks, List.forall_mem_cons, F.piece, F.variantOf, Option.any_some, allowed_eq, decide_eq_true_eq]
  exact ⟨F.orientation, F.column, F.row, F.usable, rfl, by simp⟩

theorem SpotFits.tryFit (F : SpotFits s g k a pc v) :
    tryFit slot k a.orientation a.x a.y s = fitTest false slot pc.band v a.x a.y s := by
  rw [Machine.tryFit, F.variantOf]

theorem SpotFits.coverFor (F : SpotFits s g k a pc v) :
    s.coverFor slot k a.orientation a.x a.y = s.markCover slot pc.margin v a.x a.y := by
  rw [State.coverFor, F.variantOf]

theorem fitTest_line (s : State) (retest : Bool) (slot : Nat) (band : Option (Nat × Nat)) (v : Variant) (x y id : Nat) :
    (fitTest retest slot band v x y s).1.line id = s.line id := by
  unfold State.line
  rw [fitTest_book]

theorem fitTest_piece (s : State) (retest : Bool) (slot : Nat) (band : Option (Nat × Nat)) (v : Variant) (x y k : Nat) :
    (fitTest retest slot band v x y s).1.piece k = s.piece k := by
  unfold State.piece
  rw [fitTest_library]

/-- A line with one unit more reserved. -/
def oneReserved (l : Line) : Line := { l with openUnits := l.openUnits - 1, reserved := l.reserved + 1 }

/-- The record committed at a spot. -/
def placedAt (id k : Nat) (b : Spot) (partner : Option Nat) : Placement :=
  manualPlacement id k b.orientation b.x b.y partner

theorem commitManual_code {t : State} (h : (t.hide slot).isSome = true) (ps : List Placement) :
    stateCode (t.commitManual slot ps) slot = 6 := by
  obtain ⟨g, hg⟩ := Option.isSome_iff_exists.mp h
  rw [stateCode, State.commitManual, hide_modHide_self, hg]
  rfl

/-! ### PLACE (R107) -/

theorem placeWork_fails {code fx fy : Nat} {fresh : Option Nat} (F : SpotFits s g k a pc v)
    (hr : (fitTest false slot pc.band v a.x a.y s).2 = .fail code fx fy fresh) (id n : Nat) :
    placeWork slot id k a.orientation a.x a.y n s =
      ((fitTest false slot pc.band v a.x a.y s).1.handFresh slot fresh, .refuseNoFit code fx fy) := by
  unfold placeWork
  rw [F.tryFit]
  dsimp only
  rw [hr]

theorem placeWork_fits {id : Nat} {l : Line} (F : SpotFits s g k a pc v) (hg : s.hide slot = some g)
    (hl : s.line id = some l) (ha : l.state = .active) (ho : 1 ≤ l.openUnits)
    (hr : (fitTest false slot pc.band v a.x a.y s).2 = .pass) (n : Nat) :
    placeWork slot id k a.orientation a.x a.y n s =
      (((((fitTest false slot pc.band v a.x a.y s).1.putLine id (oneReserved l)).markCover slot pc.margin v a.x
          a.y).commitManual slot [placedAt id k a none]), .accept (.placed [(n, placedAt id k a none)] 6)) := by
  have hline : (fitTest false slot pc.band v a.x a.y s).1.line id = some l := (fitTest_line ..).trans hl
  have F1 : SpotFits ((fitTest false slot pc.band v a.x a.y s).1.putLine id (oneReserved l)) g k a pc v :=
    F.of_piece ((putLine_piece ..).trans (fitTest_piece ..))
  have hreserve : (fitTest false slot pc.band v a.x a.y s).1.claimReserve id =
      some ((fitTest false slot pc.band v a.x a.y s).1.putLine id (oneReserved l)) := claimReserve_granted hline ha ho
  unfold placeWork
  rw [F.tryFit]
  dsimp only
  rw [hr]
  dsimp only
  rw [hreserve]
  dsimp only
  rw [F1.coverFor, State.placedResult, commitManual_code]
  · rfl
  · exact (fitTest_isSome false slot pc.band v a.x a.y s).trans (by rw [hg]; rfl)

theorem placeBody_works {id : Nat} {l : Line} (F : SpotFits s g l.slot a pc v) (hslot : slot < 12)
    (hg : s.hide slot = some g) (hst : g.state = .mapped ∨ g.state = .nested) (hl : s.line id = some l)
    (ha : l.state = .active) (ho : 1 ≤ l.openUnits) (hpair : l.pair = none) (hroom : g.placements.length + 1 ≤ 160) :
    placeBody slot id a.orientation a.x a.y s =
      placeWork slot id l.slot a.orientation a.x a.y g.placements.length s := by
  unfold placeBody
  rw [onHide_in hslot hg (by rcases hst with h | h <;> rw [h] <;> rfl), hl]
  refine checked_of_none (firstFail_of_all ?_) _ _
  simp only [List.forall_mem_append, List.forall_mem_cons, decide_eq_true_eq]
  exact ⟨⟨⟨ha, by rw [hpair]; rfl, ho, by simp⟩, F.checks 0⟩, hroom, by simp⟩

/-! ### PLACE_PAIR (R108) -/

/-- The second test of a pair, made with the first piece marked. -/
def secondTest (slot : Nat) (a b : Spot) (pc pc2 : Piece) (v v2 : Variant) (s : State) : State × FitResult :=
  fitTest false slot pc2.band v2 b.x b.y
    ((fitTest false slot pc.band v a.x a.y s).1.markCover slot pc.margin v a.x a.y)

theorem secondTest_line (a b : Spot) (pc pc2 : Piece) (v v2 : Variant) (s : State) (id : Nat) :
    (secondTest slot a b pc pc2 v v2 s).1.line id = s.line id :=
  (fitTest_line ..).trans (fitTest_line s false slot pc.band v a.x a.y id)

theorem secondTest_piece (a b : Spot) (pc pc2 : Piece) (v v2 : Variant) (s : State) (k : Nat) :
    (secondTest slot a b pc pc2 v v2 s).1.piece k = s.piece k :=
  (fitTest_piece ..).trans (fitTest_piece s false slot pc.band v a.x a.y k)

theorem secondTest_isSome (a b : Spot) (pc pc2 : Piece) (v v2 : Variant) (s : State) :
    ((secondTest slot a b pc pc2 v v2 s).1.hide slot).isSome = (s.hide slot).isSome :=
  (fitTest_isSome ..).trans (fitTest_isSome false slot pc.band v a.x a.y s)

section Pair

variable {b : Spot} {k2 : Nat} {pc2 : Piece} {v2 : Variant}

theorem placePairWork_firstFails {code fx fy : Nat} {fresh : Option Nat} (F : SpotFits s g k a pc v)
    (hr : (fitTest false slot pc.band v a.x a.y s).2 = .fail code fx fy fresh) (id mirror k2 : Nat) (b : Spot) (n : Nat) :
    placePairWork slot id mirror k k2 a b n s =
      ((fitTest false slot pc.band v a.x a.y s).1.handFresh slot fresh, .refuseNoFit code fx fy) := by
  unfold placePairWork
  rw [F.tryFit]
  dsimp only
  rw [hr]

/-- The second test as PLACE_PAIR makes it. -/
theorem tryFit_second (F : SpotFits s g k a pc v) (F2 : SpotFits s g k2 b pc2 v2) :
    tryFit slot k2 b.orientation b.x b.y
        ((fitTest false slot pc.band v a.x a.y s).1.coverFor slot k a.orientation a.x a.y) =
      secondTest slot a b pc pc2 v v2 s := by
  have F1 : SpotFits (fitTest false slot pc.band v a.x a.y s).1 g k a pc v := F.of_piece (fitTest_piece ..)
  have F3 : SpotFits ((fitTest false slot pc.band v a.x a.y s).1.markCover slot pc.margin v a.x a.y) g k2 b pc2 v2 :=
    F2.of_piece (fitTest_piece s false slot pc.band v a.x a.y k2)
  rw [F1.coverFor, F3.tryFit]
  rfl

theorem placePairWork_secondFails {code fx fy : Nat} {fresh : Option Nat} (F : SpotFits s g k a pc v)
    (F2 : SpotFits s g k2 b pc2 v2) (hr : (fitTest false slot pc.band v a.x a.y s).2 = .pass)
    (hr2 : (secondTest slot a b pc pc2 v v2 s).2 = .fail code fx fy fresh) (id mirror n : Nat) :
    placePairWork slot id mirror k k2 a b n s =
      (((secondTest slot a b pc pc2 v v2 s).1.unmarkCover slot k a.orientation a.x a.y).handFresh slot fresh,
        .refuseNoFit (16 + code) fx fy) := by
  unfold placePairWork
  rw [F.tryFit]
  dsimp only
  rw [hr]
  dsimp only
  rw [tryFit_second F F2, hr2]

theorem reserveBoth_granted {id mirror : Nat} {l m : Line} (hl : s.line id = some l) (ha : l.state = .active)
    (ho : 1 ≤ l.openUnits) (hne : mirror ≠ id) (hm : s.line mirror = some m) (hma : m.state = .active)
    (hmo : 1 ≤ m.openUnits) :
    reserveBoth id mirror s = some ((s.putLine id (oneReserved l)).putLine mirror (oneReserved m)) := by
  unfold reserveBoth
  rw [claimReserve_granted hl ha ho, Option.bind_some]
  exact claimReserve_granted ((line_putLine_other s _ hne).trans hm) hma hmo

theorem placePairWork_fits {id mirror : Nat} {l m : Line} (F : SpotFits s g k a pc v) (F2 : SpotFits s g k2 b pc2 v2)
    (hg : s.hide slot = some g) (hl : s.line id = some l) (ha : l.state = .active) (ho : 1 ≤ l.openUnits)
    (hne : mirror ≠ id) (hm : s.line mirror = some m) (hma : m.state = .active) (hmo : 1 ≤ m.openUnits)
    (hr : (fitTest false slot pc.band v a.x a.y s).2 = .pass) (hr2 : (secondTest slot a b pc pc2 v v2 s).2 = .pass)
    (n : Nat) :
    placePairWork slot id mirror k k2 a b n s =
      ((((((secondTest slot a b pc pc2 v v2 s).1.putLine id (oneReserved l)).putLine mirror (oneReserved m)).markCover slot
          pc2.margin v2 b.x b.y).commitManual slot [placedAt id k a (some (n + 1)), placedAt mirror k2 b (some n)]),
        .accept (.placed
          (([placedAt id k a (some (n + 1)), placedAt mirror k2 b (some n)].zipIdx n).map fun e => (e.2, e.1)) 6)) := by
  have hboth := reserveBoth_granted ((secondTest_line a b pc pc2 v v2 s id).trans hl) ha ho hne
    ((secondTest_line (slot := slot) a b pc pc2 v v2 s mirror).trans hm) hma hmo
  have F3 : SpotFits (((secondTest slot a b pc pc2 v v2 s).1.putLine id (oneReserved l)).putLine mirror (oneReserved m))
      g k2 b pc2 v2 :=
    F2.of_piece ((putLine_piece ..).trans ((putLine_piece ..).trans (secondTest_piece a b pc pc2 v v2 s k2)))
  unfold placePairWork
  rw [F.tryFit]
  dsimp only
  rw [hr]
  dsimp only
  rw [tryFit_second F F2, hr2]
  dsimp only
  rw [hboth]
  dsimp only
  rw [F3.coverFor, State.placedResult, commitManual_code]
  · rfl
  · exact (secondTest_isSome a b pc pc2 v v2 s).trans (by rw [hg]; rfl)

theorem placePairBody_works {id : Nat} {l m : Line} {q : Pairing} (F : SpotFits s g l.slot a pc v)
    (F2 : SpotFits s g m.slot b pc2 v2) (hslot : slot < 12) (hg : s.hide slot = some g)
    (hst : g.state = .mapped ∨ g.state = .nested) (hl : s.line id = some l) (ha : l.state = .active)
    (ho : 1 ≤ l.openUnits) (hpair : l.pair = some q) (hm : s.line q.mirror = some m) (hma : m.state = .active)
    (hmo : 1 ≤ m.openUnits) (hroom : g.placements.length + 2 ≤ 160) :
    placePairBody slot id a b s = placePairWork slot id q.mirror l.slot m.slot a b g.placements.length s := by
  have hmirror : s.mirrorOf l = some (q.mirror, some m) := by
    rw [State.mirrorOf, hpair, Option.map_some, hm]
  unfold placePairBody
  rw [onHide_in hslot hg (by rcases hst with h | h <;> rw [h] <;> rfl), hl]
  dsimp only
  rw [hmirror]
  refine checked_of_none (firstFail_of_all ?_) _ _
  simp only [List.forall_mem_append, List.forall_mem_cons, decide_eq_true_eq]
  exact ⟨⟨⟨⟨by rw [hpair]; rfl, ha, decide_eq_true hma, ho, decide_eq_true hmo, by simp⟩, F.checks 0⟩, F2.checks 16⟩,
    hroom, by simp⟩

end Pair

end Spots

/-- Settles O39: the two bodies by the results of their tests. -/
theorem piecesArePlacedByHand : Obligations.PiecesArePlacedByHand := by
  unfold Obligations.PiecesArePlacedByHand
  intro h slot id a reads g l pc v s hslot hg hst hl ha ho h1 h2 h3 h4 h5 h6 r n reserved record
  have hg' : State.hide { s.hunt .control with tape := reads } slot = some g := (hunt_hide s _ slot).trans hg
  have hline (k : Nat) : State.line { s.hunt .control with tape := reads } k = s.line k := hunt_line s _ k
  have hpiece (k : Nat) : State.piece { s.hunt .control with tape := reads } k = s.piece k := hunt_piece s _ k
  have F : SpotFits { s.hunt .control with tape := reads } g l.slot a pc v := ⟨h1, h2, h3, (hpiece _).trans h4, h5, h6⟩
  refine ⟨fun ht hp hroom => ?_, ?_⟩
  · have hbody := placeBody_works F hslot hg' hst ((hline id).trans hl) ha ho hp hroom
    refine ⟨fun hr => ?_, fun code fx fy fresh hr => ?_⟩
    · exact congrArg _ (reads_request_next 0x41 (placeBody slot id a.orientation a.x a.y) reads _ _ ht
        (hbody.trans (placeWork_fits F hg' ((hline id).trans hl) ha ho hr n)))
    · exact congrArg _ (reads_request_next 0x41 (placeBody slot id a.orientation a.x a.y) reads _ _ ht
        (hbody.trans (placeWork_fails F hr id n)))
  · intro q m b pc2 v2 ht hp hne hm hma hmo k1 k2 k3 k4 k5 k6 hroom r2 both
    have F2 : SpotFits { s.hunt .control with tape := reads } g m.slot b pc2 v2 := ⟨k1, k2, k3, (hpiece _).trans k4, k5, k6⟩
    have hbody := placePairBody_works F F2 hslot hg' hst ((hline id).trans hl) ha ho hp ((hline _).trans hm) hma hmo hroom
    refine ⟨fun hr hr2 => ?_, fun code fx fy fresh hr => ?_, fun code fx fy fresh hr hr2 => ?_⟩
    · exact congrArg _ (reads_request_next 0x42 (placePairBody slot id a b) reads _ _ ht
        (hbody.trans (placePairWork_fits F F2 hg' ((hline id).trans hl) ha ho hne ((hline _).trans hm) hma hmo hr hr2 n)))
    · exact congrArg _ (reads_request_next 0x42 (placePairBody slot id a b) reads _ _ ht
        (hbody.trans (placePairWork_firstFails F hr id q.mirror m.slot b n)))
    · exact congrArg _ (reads_request_next 0x42 (placePairBody slot id a b) reads _ _ ht
        (hbody.trans (placePairWork_secondFails F F2 hr hr2 id q.mirror n)))

/-! ### Strikes (R103, R109) -/

theorem placement_congr {s t : State} (h : t.hides = s.hides) (slot j : Nat) : t.placement slot j = s.placement slot j := by
  unfold State.placement State.hide
  rw [h]

theorem modPlacement_placement_other (s : State) (slot : Nat) {i j : Nat} (h : j ≠ i) (f : Placement → Placement) :
    (s.modPlacement slot i f).placement slot j = s.placement slot j := by
  cases hg : s.hide slot with
  | none => rw [State.modPlacement, modHide_none _ hg]
  | some g =>
    rw [State.modPlacement, modHide_some _ hg, placement_of_hide (hide_putHide_self ..), placement_of_hide hg]
    exact List.getElem?_modify_ne _ _ (Ne.symm h)

section Strikes

variable {s : State} {g : Hide} {slot : Nat}

/-- A PLACED placement made STRUCK. -/
def struckOne (slot : Nat) (s : State) (i : Nat) (p : Placement) : State :=
  (((s.modPlacement slot i fun q => { q with state := .struck }).unmarkCover slot p.slot p.variant p.x p.y).claimReturn
    p.line).raise (.hide slot .struck)

theorem struckOne_placement_other (s : State) (slot : Nat) {i j : Nat} (h : j ≠ i) (p : Placement) :
    (struckOne slot s i p).placement slot j = s.placement slot j :=
  (placement_congr (s := s.modPlacement slot i fun q => { q with state := .struck }) (by simp [struckOne]) slot j).trans
    (modPlacement_placement_other s slot h _)

theorem strikeOne_placed {i : Nat} {p : Placement} (hp : s.placement slot i = some p) (h : p.state = .placed) :
    s.strikeOne slot i = struckOne slot s i p := by
  unfold State.strikeOne
  rw [hp]
  exact if_pos h

theorem strikeOne_left {i : Nat} (h : ∀ p, s.placement slot i = some p → p.state ≠ .placed) : s.strikeOne slot i = s := by
  unfold State.strikeOne
  cases hp : s.placement slot i with
  | none => rfl
  | some p => exact if_neg (h p hp)

theorem isPlaced_of {i : Nat} {p : Placement} (hp : s.placement slot i = some p) :
    s.isPlaced slot i = decide (p.state = .placed) := by
  rw [State.isPlaced, hp]
  rfl

theorem isPlaced_false {i : Nat} (h : ∀ p, s.placement slot i = some p → p.state ≠ .placed) :
    s.isPlaced slot i = false := by
  cases hp : s.placement slot i with
  | none => rw [State.isPlaced, hp]; rfl
  | some p => rw [isPlaced_of hp, decide_eq_false (h p hp)]

/-- A strike whose partner, if any, is not PLACED. -/
theorem strike_alone {i : Nat} {p : Placement} (hp : s.placement slot i = some p) (h : p.state = .placed)
    (hpartner : ∀ j, p.partner = some j → ∀ q, s.placement slot j = some q → q.state ≠ .placed)
    (hne : ∀ j, p.partner = some j → j ≠ i) :
    s.strike slot i = struckOne slot s i p ∧ s.strikeCount slot i = 1 := by
  unfold State.strike State.strikeCount
  rw [hp, Option.bind_some]
  cases hj : p.partner with
  | none => exact ⟨strikeOne_placed hp h, rfl⟩
  | some j =>
    dsimp only
    rw [strikeOne_placed hp h, isPlaced_false (hpartner j hj)]
    refine ⟨strikeOne_left fun q hq => hpartner j hj q ?_, rfl⟩
    rw [← hq, struckOne_placement_other s slot (hne j hj)]

/-- A strike that takes a PLACED partner. -/
theorem strike_both {i j : Nat} {p q : Placement} (hp : s.placement slot i = some p) (h : p.state = .placed)
    (hj : p.partner = some j) (hne : j ≠ i) (hq : s.placement slot j = some q) (hqs : q.state = .placed) :
    s.strike slot i = struckOne slot (struckOne slot s i p) j q ∧ s.strikeCount slot i = 2 := by
  unfold State.strike State.strikeCount
  rw [hp, Option.bind_some, hj]
  dsimp only
  rw [strikeOne_placed hp h, isPlaced_of hq, decide_eq_true hqs]
  exact ⟨strikeOne_placed ((struckOne_placement_other s slot hne p).trans hq) hqs, rfl⟩

theorem strikeBody_strikes {i : Nat} {p : Placement} (hslot : slot < 12) (hg : s.hide slot = some g)
    (hst : g.state = .nested ∨ g.state = .dispatchWait ∨ g.state = .cutting) (hp : g.placements[i]? = some p)
    (h : p.state = .placed) : strikeBody slot i s = ((s.strike slot i).settle slot,
      .accept (.struck (s.strikeCount slot i) (stateCode ((s.strike slot i).settle slot) slot))) := by
  have hlt : i < g.placements.length := (List.getElem?_eq_some_iff.mp hp).1
  have hplaced : s.isPlaced slot i = true :=
    (isPlaced_of ((placement_of_hide hg i).trans hp)).trans (decide_eq_true h)
  unfold strikeBody
  rw [onHide_in hslot hg (by rcases hst with h | h | h <;> rw [h] <;> rfl), checked_pass (decide_eq_true hlt),
    checked_pass hplaced, checked_nil]

end Strikes

theorem hunt_placement (s : State) (l : Link) (slot i : Nat) : (s.hunt l).placement slot i = s.placement slot i :=
  placement_congr (hunt_hides s l) slot i

theorem hunt_strikeCount (s : State) (l : Link) (slot i : Nat) :
    (s.hunt l).strikeCount slot i = s.strikeCount slot i := by
  unfold State.strikeCount State.isPlaced
  simp only [hunt_placement]

/-- Settles O40: one strike after the other, the second at the partner's index. -/
theorem strikesTakeThePlacedPartner : Obligations.StrikesTakeThePlacedPartner := by
  unfold Obligations.StrikesTakeThePlacedPartner
  refine ⟨fun slot i p s hp h => ⟨strike_alone hp h, fun j q hj hne hq hqs => strike_both hp h hj hne hq hqs⟩, ?_⟩
  intro h slot i g p s ht hslot hg hst hp hs
  have hbody := strikeBody_strikes (s := s.hunt .control) hslot (by simpa using hg) hst hp hs
  rw [hunt_strikeCount] at hbody
  exact congrArg _ (request_next 0x43 _ _ _ ht hbody)

end Sys2Proof.Proofs.Placing
end

section
/-! The statements about sweeps, covers and checked reads (R68 to R73, R102 to R105). -/

namespace Sys2Proof.Proofs.Sweeps

open Sys2Proof.Machine Sys2Proof.Laws Sys2Proof.Proofs.Discards

/-! ### One candidate (R102, R104) -/

theorem retest_left {slot i : Nat} {p : Placement} {w : Sweep} (hp : w.s.placement slot i = some p)
    (h : p.state ≠ .placed) : Sweep.retest slot w i = w := by
  unfold Sweep.retest
  rw [hp]
  exact if_neg h

theorem retest_pass {slot i : Nat} {p : Placement} {w : Sweep} {pc : Piece} {v : Variant}
    (hp : w.s.placement slot i = some p) (h : p.state = .placed) (hpc : w.s.piece p.slot = some pc)
    (hv : Tab.get pc.variants p.variant = some v) (hr : (fitTest true slot pc.band v p.x p.y w.s).2 = .pass) :
    Sweep.retest slot w i = { w with s := (fitTest true slot pc.band v p.x p.y w.s).1 } := by
  unfold Sweep.retest
  rw [hp]
  dsimp only
  rw [if_pos h, variantOf_of hpc hv]
  dsimp only
  rw [hr]

theorem retest_fail {slot i code fx fy : Nat} {fresh : Option Nat} {p : Placement} {w : Sweep} {pc : Piece} {v : Variant}
    (hp : w.s.placement slot i = some p) (h : p.state = .placed) (hpc : w.s.piece p.slot = some pc)
    (hv : Tab.get pc.variants p.variant = some v)
    (hr : (fitTest true slot pc.band v p.x p.y w.s).2 = .fail code fx fy fresh) :
    Sweep.retest slot w i = { w with
      s := (fitTest true slot pc.band v p.x p.y w.s).1.strike slot i
      struck := w.struck + (fitTest true slot pc.band v p.x p.y w.s).1.strikeCount slot i
      fresh := joinFresh fresh w.fresh } := by
  unfold Sweep.retest
  rw [hp]
  dsimp only
  rw [if_pos h, variantOf_of hpc hv]
  dsimp only
  rw [hr]

/-! ### The candidates (R102) -/

theorem bodyMeets_iff (s : State) (p : Placement) (area : Nat → Nat → Bool) : s.bodyMeets p area = true ↔
    ∃ pc v, s.piece p.slot = some pc ∧ Tab.get pc.variants p.variant = some v ∧
      ∃ c ∈ v.body, area (p.x + c.i) (p.y + c.j) = true := by
  unfold State.bodyMeets State.variantOf
  cases s.piece p.slot with
  | none => simp
  | some pc => cases hv : Tab.get pc.variants p.variant <;> simp [hv]

theorem meeting_eq {s : State} {slot : Nat} {g : Hide} (hg : s.hide slot = some g) (st : PlacementState)
    (area : Nat → Nat → Bool) : s.meeting slot st area =
      (g.placements.zipIdx.filter fun e => decide (e.1.state = st) && s.bodyMeets e.1 area).map (·.2) := by
  rw [State.meeting, hg]

theorem meeting_pairwise {s : State} {slot : Nat} {g : Hide} (hg : s.hide slot = some g) (st : PlacementState)
    (area : Nat → Nat → Bool) : (s.meeting slot st area).Pairwise (· < ·) := by
  have hall : (g.placements.zipIdx.map (·.2)).Pairwise (· < ·) := by
    rw [List.zipIdx_map_snd]
    exact List.pairwise_lt_range'
  rw [meeting_eq hg]
  exact hall.sublist (List.filter_sublist.map _)

theorem mem_meeting {s : State} {slot : Nat} {g : Hide} (hg : s.hide slot = some g) (st : PlacementState)
    (area : Nat → Nat → Bool) (i : Nat) : i ∈ s.meeting slot st area ↔
      ∃ p pc v, g.placements[i]? = some p ∧ p.state = st ∧ s.piece p.slot = some pc ∧
        Tab.get pc.variants p.variant = some v ∧ ∃ c ∈ v.body, area (p.x + c.i) (p.y + c.j) = true := by
  simp only [meeting_eq hg, List.mem_map, List.mem_filter, Bool.and_eq_true, decide_eq_true_eq, bodyMeets_iff,
    List.mem_zipIdx_iff_getElem?]
  constructor
  · rintro ⟨⟨p, _⟩, ⟨hp, hst, pc, v, h⟩, rfl⟩
    exact ⟨p, pc, v, hp, hst, h⟩
  · rintro ⟨p, pc, v, hp, hst, h⟩
    exact ⟨(p, i), ⟨hp, hst, pc, v, h⟩, rfl⟩

/-! ### The rounds (R105) -/

/-- One further round, where the round before poisoned a tile. -/
def nextRound (slot cols : Nat) (w : Sweep) : Sweep :=
  if w.fresh = [] then w else Sweep.round slot (inTiles cols w.fresh) (inTiles cols w.fresh) w

theorem nextRound_done {w : Sweep} (h : w.fresh = []) (slot cols : Nat) : nextRound slot cols w = w := if_pos h

theorem rounds_succ (slot cols n : Nat) (w : Sweep) :
    Sweep.rounds slot cols (n + 1) w = Sweep.rounds slot cols n (nextRound slot cols w) := by
  by_cases h : w.fresh = []
  · rw [nextRound_done h, Sweep.rounds, if_pos (by simp [h])]
    cases n with
    | zero => rfl
    | succ n => rw [Sweep.rounds, if_pos (by simp [h])]
  · rw [nextRound, if_neg h, Sweep.rounds, if_neg (by simpa using h)]

theorem repeat_comm {α : Type} (f : α → α) (n : Nat) (a : α) : Nat.repeat f n (f a) = f (Nat.repeat f n a) := by
  induction n with
  | zero => rfl
  | succ n ih => exact congrArg f ih

theorem rounds_eq_repeat (slot cols n : Nat) (w : Sweep) :
    Sweep.rounds slot cols n w = Nat.repeat (nextRound slot cols) n w := by
  induction n generalizing w with
  | zero => rfl
  | succ n ih => rw [rounds_succ, ih, repeat_comm]; rfl

theorem rounds_done {w : Sweep} (h : w.fresh = []) (slot cols n : Nat) : Sweep.rounds slot cols n w = w := by
  cases n with
  | zero => rfl
  | succ n => rw [Sweep.rounds, if_pos (by simp [h])]

theorem frames_sorted {s : State} {slot : Nat} {g : Hide} (h : s.canonical = true) (hg : s.hide slot = some g) :
    Tab.sorted g.frames = true := by
  simp only [State.canonical, Bool.and_eq_true, canonical_iff] at h
  obtain ⟨⟨_, _, _, _, _, hall⟩, _⟩ := h
  exact (Bool.and_eq_true_iff.mp (hall _ (mem_of_get hg))).1

theorem sweep_eq {s : State} {slot : Nat} {g : Hide} (hg : s.hide slot = some g) (area changed : Nat → Nat → Bool) :
    s.sweep slot area changed =
      Sweep.rounds slot g.cols (g.cols * g.tileRows + 1) (Sweep.round slot area changed ⟨s, 0, [], []⟩) := by
  rw [State.sweep, State.colsOf, State.roundsOf, hg]
  rfl

/-- A sweep ends after a round that poisons no tile. -/
theorem sweep_ends {s : State} {slot : Nat} {g : Hide} (hg : s.hide slot = some g) (hc : s.canonical = true)
    (htiles : ∀ e ∈ g.frames, e.1 < g.cols * g.tileRows) (area changed : Nat → Nat → Bool) :
    (s.sweep slot area changed).fresh = [] := by
  rw [sweep_eq hg]
  refine rounds_end _ _ _ _ fun _ => ?_
  have hle := (round_less slot area changed ⟨s, 0, [], []⟩).1
  have hall := sound_le s slot g hg (frames_sorted hc hg) _ htiles
  dsimp only at hle
  omega

theorem colsOf_hide {s : State} {slot : Nat} {g : Hide} (hg : s.hide slot = some g) : s.colsOf slot = g.cols := by
  rw [State.colsOf, hg]
  rfl

theorem sweepTile_eq {s : State} {slot : Nat} {g : Hide} (hg : s.hide slot = some g) (tile : Nat) :
    s.sweepTile slot tile = s.sweep slot (fun x y => decide (g.tileOf x y = tile))
      fun x y => decide (g.tileOf x y = tile) := by
  rw [State.sweepTile, colsOf_hide hg, inTiles_eq]
  simp only [List.mem_singleton]

theorem sweepFlaw_eq {slot : Nat} {rect : Rect} {a : Applied} {g : Hide} (hg : a.s.hide slot = some g) :
    sweepFlaw slot rect a = a.s.sweep slot
      (fun x y => decide (rect.x0 ≤ x ∧ x ≤ rect.x1 ∧ rect.y0 ≤ y ∧ y ≤ rect.y1 ∨ g.tileOf x y ∈ a.fresh))
      fun x y => decide ((x, y) ∈ a.changed ∨ g.tileOf x y ∈ a.fresh) := by
  rw [sweepFlaw, colsOf_hide hg, inTiles_eq]
  congr 1 <;> funext x y <;> simp [Bool.decide_or, Bool.decide_and, Rect.has, Bool.and_assoc]

/-- Settles O41: the candidates one by one, the rounds to one that poisons no tile, and the two areas. -/
theorem sweepsRetestStrikeAndMark : Obligations.SweepsRetestStrikeAndMark := by
  unfold Obligations.SweepsRetestStrikeAndMark
  refine ⟨fun slot i p w hp => ⟨retest_left hp, fun pc v h hpc hv => ⟨retest_pass hp h hpc hv,
      fun code fx fy fresh => retest_fail hp h hpc hv⟩, rfl⟩,
    fun slot st area g s hg => ⟨meeting_pairwise hg st area, mem_meeting hg st area⟩, fun slot area changed w => rfl,
    ?_, fun slot tile rect a g hg => ⟨sweepTile_eq hg tile, sweepFlaw_eq hg⟩⟩
  intro slot area changed g s hg hc htiles first last
  refine ⟨fun ht => ?_, sweep_ends hg hc htiles area changed, g.cols * g.tileRows + 1, ?_⟩
  · exact (sweep_eq hg area changed).trans (rounds_done (clean_round slot area changed _ ht) _ _ _)
  · have hnext : nextRound slot g.cols = fun w => if w.fresh = [] then w else
        let tiles (x y : Nat) : Bool := decide (g.tileOf x y ∈ w.fresh)
        Sweep.round slot tiles tiles w := by
      funext w
      rw [nextRound, inTiles_eq]
    rw [← hnext]
    exact (sweep_eq hg area changed).trans (rounds_eq_repeat _ _ _ _)

/-! ### Cover counts (R68) -/

theorem markCover_eq {s : State} {slot : Nat} {g : Hide} (hg : s.hide slot = some g) (margin : Nat) (v : Variant)
    (x y : Nat) : s.markCover slot margin v x y =
      { s with grid := { s.grid with covers := addCover s.grid.covers (claimed g margin v x y) } } := by
  rw [State.markCover, State.claimedOn, hg]

theorem unmarkCover_eq {s : State} {slot k o : Nat} {g : Hide} {pc : Piece} {v : Variant} (hg : s.hide slot = some g)
    (hpc : s.piece k = some pc) (hv : Tab.get pc.variants o = some v) (x y : Nat) : s.unmarkCover slot k o x y =
      { s with grid := { s.grid with covers := subCover s.grid.covers (claimed g pc.margin v x y) } } := by
  rw [State.unmarkCover, variantOf_of hpc hv]
  dsimp only
  rw [State.claimedOn, hg]

theorem subCover_addCover {covers : Mem} {addrs : List Nat} (h : addrs.Nodup) (hw : Mem.wf noCover covers = true) :
    subCover (addCover covers addrs) addrs = covers := by
  obtain ⟨hadd, hkept, hform⟩ := fold_cover (· + 1) addrs h covers
  obtain ⟨hsub, hkept2, hform2⟩ := fold_cover (· - 1) addrs h (addCover covers addrs)
  refine wf_ext (hform2 (hform hw)) hw fun a => ?_
  by_cases ha : a ∈ addrs
  · refine (hsub a ha).trans ?_
    rw [show Mem.read noCover (addCover covers addrs) a = _ from hadd a ha]
    exact BitVec.add_sub_cancel ..
  · exact (hkept2 a ha).trans (hkept a ha)

/-! ### Checked reads (R70, R71) -/

theorem readCell_noFrame {s : State} {slot x y : Nat} {g : Hide} (hg : s.hide slot = some g)
    (hf : Tab.get g.frames (g.tileOf x y) = none) : s.readCell slot x y = (s, .noFrame) := by
  unfold State.readCell
  rw [hg]
  dsimp only
  rw [hf]

theorem readCell_poisoned {s : State} {slot x y f : Nat} {g : Hide} (hg : s.hide slot = some g)
    (hf : Tab.get g.frames (g.tileOf x y) = some f) (hp : g.tileOf x y ∈ g.poisoned) :
    s.readCell slot x y = (s, .poisoned false) := by
  unfold State.readCell
  rw [hg]
  dsimp only
  rw [hf]
  exact if_pos (by simpa using hp)

section Sound

variable {s : State} {slot x y f : Nat} {g : Hide}

theorem readCell_right (hg : s.hide slot = some g) (hf : Tab.get g.frames (g.tileOf x y) = some f)
    (hp : g.tileOf x y ∉ g.poisoned) (h : s.tape.head? = none ∨ s.tape.head? = some .clean) :
    s.readCell slot x y = ({ s with tape := s.tape.tail }, s.contentRead (cellAddr f x y)) := by
  unfold State.readCell
  rw [hg]
  dsimp only
  rw [hf]
  dsimp only
  rw [if_neg (by simpa using hp)]
  rcases h with h | h <;> rw [h]

theorem readCell_corrected (hg : s.hide slot = some g) (hf : Tab.get g.frames (g.tileOf x y) = some f)
    (hp : g.tileOf x y ∉ g.poisoned) (h : s.tape.head? = some .singleBit) : s.readCell slot x y =
      ({ s with tape := s.tape.tail, grid := { s.grid with corrected := min 65535 (s.grid.corrected + 1) } },
        s.contentRead (cellAddr f x y)) := by
  unfold State.readCell
  rw [hg]
  dsimp only
  rw [hf]
  dsimp only
  rw [if_neg (by simpa using hp), h]

theorem readCell_lost (hg : s.hide slot = some g) (hf : Tab.get g.frames (g.tileOf x y) = some f)
    (hp : g.tileOf x y ∉ g.poisoned) (h : s.tape.head? = some .uncorrectable) : s.readCell slot x y =
      ((State.putHide { s with tape := s.tape.tail } slot
        { g with poisoned := insertNat (g.tileOf x y) g.poisoned }).raise (.store .framePoisoned), .poisoned true) := by
  have hput : State.modHide { s with tape := s.tape.tail } slot
      (fun k => { k with poisoned := insertNat (g.tileOf x y) k.poisoned }) = _ := modHide_some _ hg
  unfold State.readCell
  rw [hg]
  dsimp only
  rw [hf]
  dsimp only
  rw [if_neg (by simpa using hp), h]
  dsimp only
  rw [State.poisonTile, hput]

end Sound

theorem contentRead_eq {s : State} {a : Nat} {held : CellRead}
    (h1 : ∀ e : Grade, (Mem.read outsideCode s.grid.contents a).toNat = e.val → held = .grade e)
    (h2 : 4 ≤ (Mem.read outsideCode s.grid.contents a).toNat → held = .outside) : s.contentRead a = held := by
  rcases contentRead_cases s a with ⟨e, hread, hval, -⟩ | ⟨hread, hnot⟩
  · rw [hread, h1 e hval]
  · rw [hread, h2 (by omega)]

/-! ### Poisonings handed on (R72) -/

theorem handPoison_unswept {s : State} {slot : Nat} {g : Hide} (hg : s.hide slot = some g)
    (h : g.state = .mapping ∨ g.state = .committing ∨ g.state = .discarding) (tile : Nat) :
    s.handPoison slot tile = s := by
  unfold State.handPoison
  rw [hg]
  dsimp only
  rcases h with h | h | h <;> rw [h]

theorem handPoison_nesting {s : State} {slot : Nat} {g : Hide} (hg : s.hide slot = some g) (h : g.state = .nesting)
    (tile : Nat) : s.handPoison slot tile =
      s.putHide slot { g with deferredPoison := insertNat tile g.deferredPoison } := by
  unfold State.handPoison
  rw [hg]
  dsimp only
  rw [h]

theorem handPoison_sweeps {s : State} {slot : Nat} {g : Hide} (hg : s.hide slot = some g)
    (h : g.state ∈ [HideState.mapped, .nestWait, .nested, .dispatchWait, .cutting, .done]) (tile : Nat) :
    s.handPoison slot tile = (s.sweepTile slot tile).s.settle slot := by
  simp only [List.mem_cons, List.not_mem_nil, or_false] at h
  unfold State.handPoison
  rw [hg]
  dsimp only
  rcases h with h | h | h | h | h | h <;> rw [h]

/-- Settles O42: the counts over a claimed list that names no cell twice, the reads by the outcome, and the hand-over by
the hide's state. -/
theorem coverIsCountedAndReadsAreChecked : Obligations.CoverIsCountedAndReadsAreChecked := by
  unfold Obligations.CoverIsCountedAndReadsAreChecked
  refine ⟨fun margin x y v g hv hn => ⟨claimed_nodup margin x y v g hn, claimed_mem margin x y v g hv⟩, ?_, ?_, ?_⟩
  · intro slot x y k o pc v g s hg hn hpc hv
    have hnodup : (claimed g pc.margin v x y).Nodup := claimed_nodup pc.margin x y v g hn
    have hundone (covers : Mem) := unmarkCover_eq (s := { s with grid := { s.grid with covers := covers } }) hg hpc hv x y
    rw [markCover_eq hg, unmarkCover_eq hg hpc hv]
    obtain ⟨hadd, hkept, -⟩ := fold_cover (· + 1) _ hnodup s.grid.covers
    obtain ⟨hsub, hkept2, -⟩ := fold_cover (· - 1) _ hnodup s.grid.covers
    refine ⟨⟨rfl, rfl⟩, fun a ha => ⟨hadd a ha, hsub a ha⟩, fun a ha => ⟨hkept a ha, hkept2 a ha⟩, fun hw => ?_⟩
    refine (hundone _).trans ?_
    dsimp only
    rw [subCover_addCover hnodup hw]
  · intro slot x y g s hg tile
    refine ⟨readCell_noFrame hg, fun f hf => ⟨readCell_poisoned hg hf, fun hp => ⟨fun held h1 h2 => ?_,
      readCell_lost hg hf hp⟩⟩⟩
    have hheld : s.contentRead (cellAddr f x y) = held := contentRead_eq h1 h2
    rw [← hheld]
    exact ⟨readCell_right hg hf hp, readCell_corrected hg hf hp⟩
  · intro slot tile g s hg
    exact ⟨fun k => mem_insertNat tile k g.poisoned, fun h => handPoison_unswept hg h tile,
      fun h => handPoison_nesting hg h tile, fun h => handPoison_sweeps hg h tile⟩

end Sys2Proof.Proofs.Sweeps
end

section
/-! The statements about the settling of a hide and about grants (R49, R136 to R138, R154). -/

namespace Sys2Proof.Proofs.Grants

open Sys2Proof.Machine Sys2Proof.Laws Sys2Proof.Proofs.Dispatch

/-! ### The settling of a hide (R49, R154) -/

theorem makeDone_eq {s : State} {slot : Nat} {g : Hide} (hg : s.hide slot = some g) : s.makeDone slot =
    (s.putHide slot { g with state := .done, channel := none }).raise (.hide slot .hideDone) := by
  rw [State.makeDone, modHide_some _ hg]

theorem settle_other {s : State} {slot : Nat} {g : Hide} (hg : s.hide slot = some g) (h1 : g.state ≠ .dispatchWait)
    (h2 : g.state ≠ .cutting) : s.settle slot = s := by
  unfold State.settle
  rw [hg]
  dsimp only
  split
  · next h => exact absurd h h1
  · next h => exact absurd h h2
  · rfl

theorem settle_waiting {s : State} {slot : Nat} {g : Hide} (hg : s.hide slot = some g) (h : g.state = .dispatchWait) :
    s.settle slot = if g.anyPlaced then s else (s.leaveWaiting slot).makeDone slot := by
  unfold State.settle
  rw [hg]
  dsimp only
  rw [h]

theorem settle_cutting {s : State} {slot : Nat} {g : Hide} {c : Fin 4} (hg : s.hide slot = some g)
    (h : g.state = .cutting) (hc : g.channel = some c) : s.settle slot =
      if g.anyPlaced || g.anyTicketed then s.modChan c fun ch => { ch with state := State.workState g.anyPlaced ch.state }
      else ((s.modChan c fun ch => { ch with state := .idle, hide := none }).makeDone slot).evaluate := by
  unfold State.settle
  rw [hg]
  dsimp only
  rw [h]
  dsimp only
  rw [hc]

theorem workState_atWork {st : ChannelState} (h : st = .running ∨ st = .draining) (placed : Bool) :
    State.workState placed st = if placed then .running else .draining := by
  rcases h with rfl | rfl <;> rfl

theorem workState_held (placed : Bool) : State.workState placed .held = .held := rfl

/-- Settles O44: the settling by the hide's state and by what it holds. -/
theorem hidesAndChannelsAreSettled : Obligations.HidesAndChannelsAreSettled := by
  unfold Obligations.HidesAndChannelsAreSettled
  intro slot g s hg done
  have hleft : State.hide (s.leaveWaiting slot) slot = some g := hg
  refine ⟨settle_other hg, fun h hp => ?_, fun h hp => ?_, fun c h hc =>
    ⟨fun hp hw => ?_, fun hp ht hw => ?_, fun hpt hw => ?_, fun hp ht => ?_⟩⟩
  · rw [settle_waiting hg h, if_pos hp]
  · rw [settle_waiting hg h, if_neg (by simp [hp]), makeDone_eq hleft]
    rfl
  · rw [settle_cutting hg h hc, if_pos (by simp [hp]), State.modChan, workState_atWork hw, hp]
    rfl
  · rw [settle_cutting hg h hc, if_pos (by simp [ht]), State.modChan, workState_atWork hw, hp]
    rfl
  · have hsame : ({ s.chan c with state := State.workState g.anyPlaced (s.chan c).state } : Channel) = s.chan c := by
      rw [hw, workState_held, ← hw]
    rw [settle_cutting hg h hc, if_pos (by simpa using hpt), State.modChan, hsame, putChan_same]
  · have hidle : (s.modChan c fun ch => { ch with state := .idle, hide := none }).hide slot = some g := hg
    rw [settle_cutting hg h hc, if_neg (by simp [hp, ht]), makeDone_eq hidle]
    rfl

/-! ### One grant after another (R136) -/

theorem nextGrant_hold {s : State} (h : s.arbiter.state = .hold) : s.nextGrant = none := by
  rw [State.nextGrant, h]

theorem evaluate_none {s : State} (h : s.nextGrant = none) : s.evaluate = s ∧ s.grantCount = 0 := by
  unfold State.evaluate State.grantCount State.grants
  rw [h]
  exact ⟨rfl, rfl⟩

theorem evaluate_some {s t : State} (h : s.nextGrant = some t) :
    s.evaluate = t.evaluate ∧ s.grantCount = t.grantCount + 1 := by
  have hfew : (idles t).length ≤ 3 := by
    have hall : (idles s).length ≤ 4 := List.length_filter_le _ _
    have hless := idles_grant h
    omega
  have hstep : State.grants 4 s = ((State.grants 3 t).1, (State.grants 3 t).2 + 1) := by
    rw [State.grants, h]
  unfold State.evaluate State.grantCount
  rw [hstep, grants_more 3 t hfew]
  exact ⟨rfl, rfl⟩

/-! ### What is grantable (R136) -/

/-- The mask names the channel, which is IDLE. -/
def Free (s : State) (r : Release) (c : Fin 4) : Prop := r.mask.getLsbD c.1 = true ∧ (s.chan c).state = .idle

theorem eligible_iff (s : State) (r : Release) (c : Fin 4) : s.eligible r.mask c = true ↔ Free s r c := by
  simp [State.eligible, Free]

/-- The hide is of the class and grantable. -/
def GrantableAs (s : State) (u : Urgency) (slot : Nat) : Prop :=
  ∃ g r, s.hide slot = some g ∧ g.release = some r ∧ r.urgency = u ∧ ∃ c, Free s r c

theorem releaseOf_iff (s : State) (slot : Nat) (r : Release) :
    s.releaseOf slot = some r ↔ ∃ g, s.hide slot = some g ∧ g.release = some r := by
  rw [State.releaseOf, Option.bind_eq_some_iff]

theorem grantable_of {s : State} {slot : Nat} {r : Release} {c : Fin 4} (hr : s.releaseOf slot = some r)
    (h : Free s r c) : s.grantable slot = true := by
  rw [State.grantable, hr]
  exact List.any_eq_true.mpr ⟨c, mem_channels c, (eligible_iff s r c).mpr h⟩

theorem grantableAs_iff (s : State) (u : Urgency) (slot : Nat) :
    (s.grantable slot && s.hasUrgency u slot) = true ↔ GrantableAs s u slot := by
  rw [Bool.and_eq_true]
  constructor
  · rintro ⟨h1, h2⟩
    rw [State.hasUrgency, Option.any_eq_true] at h2
    obtain ⟨r, hr, hu⟩ := h2
    rw [State.grantable, hr, Option.any_some, List.any_eq_true] at h1
    obtain ⟨c, -, hc⟩ := h1
    obtain ⟨g, hg, hrel⟩ := (releaseOf_iff s slot r).mp hr
    exact ⟨g, r, hg, hrel, of_decide_eq_true hu, c, (eligible_iff s r c).mp hc⟩
  · rintro ⟨g, r, hg, hrel, hu, c, hc⟩
    have hr := releaseOf_of_hide hg hrel
    refine ⟨grantable_of hr hc, ?_⟩
    rw [State.hasUrgency, hr]
    exact decide_eq_true hu

theorem firstOf_isSome_iff (s : State) (u : Urgency) :
    (s.firstOf u).isSome = true ↔ ∃ k ∈ s.arbiter.waiting, GrantableAs s u k := by
  simp only [State.firstOf, List.find?_isSome, grantableAs_iff]

theorem firstOf_of {s : State} {u : Urgency} {before after : List Nat} {slot : Nat}
    (hw : s.arbiter.waiting = before ++ slot :: after) (h : GrantableAs s u slot)
    (hbefore : ∀ k ∈ before, ¬ GrantableAs s u k) : s.firstOf u = some slot := by
  have hnone : before.find? (fun k => s.grantable k && s.hasUrgency u k) = none :=
    List.find?_eq_none.mpr fun k hk => mt (grantableAs_iff s u k).mp (hbefore k hk)
  rw [State.firstOf, hw, List.find?_append, hnone, Option.none_or, List.find?_cons_of_pos]
  exact (grantableAs_iff s u slot).mpr h

/-! ### The grant made (R137, R138) -/

/-- Both classes have a grantable hide on the waiting list. -/
def Contest (s : State) : Prop :=
  (∃ k ∈ s.arbiter.waiting, GrantableAs s .rush k) ∧ ∃ k ∈ s.arbiter.waiting, GrantableAs s .normal k

/-- The class that wins, and the ratio counter that it leaves. -/
theorem choice_of {s : State} {u : Urgency} {slot n : Nat} (hfirst : s.firstOf u = some slot)
    (hwins : Contest s → if s.arbiter.ratio < s.settings.rushRatio then u = .rush else u = .normal)
    (h1 : Contest s → u = .rush → n = s.arbiter.ratio + 1) (h2 : ¬ Contest s ∨ u = .normal → n = 0) :
    s.choice = some (slot, n) := by
  have hcontest : Contest s ↔ (s.firstOf .rush).isSome = true ∧ (s.firstOf .normal).isSome = true := by
    rw [firstOf_isSome_iff, firstOf_isSome_iff]
    exact Iff.rfl
  unfold State.choice
  cases u with
  | rush =>
    cases hn : s.firstOf .normal with
    | none =>
      rw [hfirst, h2 (.inl fun h => by simp [hn] at hcontest; exact hcontest h)]
    | some b =>
      have hc : Contest s := hcontest.mpr (by rw [hfirst, hn]; exact ⟨rfl, rfl⟩)
      have hlt : s.arbiter.ratio < s.settings.rushRatio := by
        by_contra hnot
        have := hwins hc
        rw [if_neg hnot] at this
        exact nomatch this
      rw [hfirst, h1 hc rfl]
      exact if_pos hlt
  | normal =>
    rw [h2 (.inr rfl)]
    cases hr : s.firstOf .rush with
    | none => rw [hfirst]
    | some a =>
      have hc : Contest s := hcontest.mpr (by rw [hfirst, hr]; exact ⟨rfl, rfl⟩)
      have hge : ¬ s.arbiter.ratio < s.settings.rushRatio := by
        intro hlt
        have := hwins hc
        rw [if_pos hlt] at this
        exact nomatch this
      rw [hfirst]
      exact if_neg hge

theorem pickChannel_of {s : State} {slot : Nat} {r : Release} {c : Fin 4} (hr : s.releaseOf slot = some r)
    (hfree : Free s r c) (hlowest : s.settings.pick = .lowest → ∀ d < c, ¬ Free s r d)
    (hrotate : s.settings.pick = .rotate →
      ∀ k < c - (s.arbiter.lastGranted + 1), ¬ Free s r (s.arbiter.lastGranted + 1 + k)) :
    s.pickChannel slot = some c := by
  have hnot {d : Fin 4} (h : ¬ Free s r d) : s.eligible r.mask d = false :=
    Bool.eq_false_iff.mpr (mt (eligible_iff s r d).mp h)
  have hyes : s.eligible r.mask c = true := (eligible_iff s r c).mpr hfree
  rw [State.pickChannel, hr, Option.bind_some, State.pickOrder]
  cases hp : s.settings.pick with
  | lowest => exact pick_lowest c _ hyes fun d hd => hnot (hlowest hp d hd)
  | rotate => exact pick_rotate _ c _ hyes fun k hk => hnot (hrotate hp k hk)

theorem nextGrant_of {s : State} {slot n : Nat} {c : Fin 4} (h : s.arbiter.state = .run)
    (hchoice : s.choice = some (slot, n)) (hpick : s.pickChannel slot = some c) :
    s.nextGrant = some (s.grant slot c n) := by
  rw [State.nextGrant, h]
  dsimp only
  rw [hchoice]
  dsimp only
  rw [hpick]
  rfl

/-- Settles O45: the evaluation one grant at a time, and the grant by class, hide and channel. -/
theorem grantsAreMadeByClassHideAndChannel : Obligations.GrantsAreMadeByClassHideAndChannel := by
  unfold Obligations.GrantsAreMadeByClassHideAndChannel
  refine ⟨fun s => ⟨fun h => evaluate_none (nextGrant_hold h), (grants_state 4 s).2, evaluate_none,
    fun t => evaluate_some, fun h slot hslot g r c hg hr hm hidle => ?_⟩, ?_⟩
  · have hquiet := evaluate_quiet s h slot hslot
    rw [grantable_of (releaseOf_of_hide hg hr) ⟨hm, hidle⟩] at hquiet
    exact nomatch hquiet
  · intro before after slot g r c s hrun hw hg hr free grantable contest hfree hbefore hwins hlowest hrotate n h1 h2
    have hfirst : s.firstOf r.urgency = some slot := firstOf_of hw ⟨g, r, hg, hr, rfl, c, hfree⟩ hbefore
    have hchoice : s.choice = some (slot, n) := choice_of hfirst hwins h1 h2
    have hpick : s.pickChannel slot = some c := pickChannel_of (releaseOf_of_hide hg hr) hfree hlowest hrotate
    rw [nextGrant_of hrun hchoice hpick, grant_eq hg, hrun]

end Sys2Proof.Proofs.Grants
end

section
/-! The statements about the channels' service, the return checks, faults and resets (R147 to R149, R160 to R163). -/

namespace Sys2Proof.Proofs.Service

open Sys2Proof.Machine Sys2Proof.Laws Sys2Proof.Proofs.Discards Sys2Proof.Proofs.Nest

/-! ### Channel records -/

theorem modChan_modChan (s : State) (c : Fin 4) (a b : Channel → Channel) :
    (s.modChan c a).modChan c b = s.putChan c (b (a (s.chan c))) := by
  rw [State.modChan, State.modChan, chan_putChan_self, putChan_putChan]

theorem onChannel_in (s : State) (c : Fin 4) (go : Fin 4 → State × Reply) : onChannel s c.1 go = go c := dif_pos c.2

/-! ### Entering and leaving service (R147 to R149) -/

theorem enterService_in {s : State} {c : Fin 4} (h1 : (s.chan c).state = .stopped) (h2 : (s.chan c).enabled = true)
    (h3 : (s.chan c).ready = true) :
    s.enterService c = (s.putChan c { s.chan c with state := .idle }).evaluate := if_pos ⟨h1, h2, h3⟩

theorem enterService_out {s : State} {c : Fin 4}
    (h : ¬ ((s.chan c).state = .stopped ∧ (s.chan c).enabled = true ∧ (s.chan c).ready = true)) :
    s.enterService c = s := if_neg h

/-- The channel with its enabled flag set. -/
def enabledOn (s : State) (c : Fin 4) : State := s.putChan c { s.chan c with enabled := true }

theorem cutterEnableBody_eq (s : State) (c : Fin 4) : cutterEnableBody c.1 s =
    ((enabledOn s c).enterService c, channelReply ((enabledOn s c).enterService c) c) := onChannel_in s c _

theorem cutterEnableBody_enters {s : State} {c : Fin 4} (h1 : (s.chan c).state = .stopped)
    (h2 : (s.chan c).ready = true) :
    let u := ((enabledOn s c).putChan c { (enabledOn s c).chan c with state := .idle }).evaluate
    cutterEnableBody c.1 s = (u, channelReply u c) := by
  rw [cutterEnableBody_eq, enterService_in] <;> simp [enabledOn, h1, h2]

theorem cutterEnableBody_stays {s : State} {c : Fin 4} (h : (s.chan c).state ≠ .stopped ∨ (s.chan c).ready = false) :
    cutterEnableBody c.1 s = (enabledOn s c, channelReply (enabledOn s c) c) := by
  rw [cutterEnableBody_eq, enterService_out]
  rintro ⟨h1, -, h3⟩
  simp only [enabledOn, chan_putChan_self] at h1 h3
  rcases h with h | h
  · exact h h1
  · rw [h] at h3
    exact nomatch h3

theorem busy_iff (st : ChannelState) :
    st.busy = true ↔ st = .running ∨ st = .draining ∨ st = .held ∨ st = .aborting := by
  cases st <;> simp [ChannelState.busy, ChannelState.atWork]

theorem cutterDisableBody_stops {s : State} {c : Fin 4}
    (h : (s.chan c).state = .stopped ∨ (s.chan c).state = .idle ∨ (s.chan c).state = .faulted) :
    let t := s.putChan c { s.chan c with
      enabled := false, state := if (s.chan c).state = .idle then .stopped else (s.chan c).state }
    cutterDisableBody c.1 s = (t, channelReply t c) := by
  refine (onChannel_in s c _).trans (if_neg ?_)
  rw [busy_iff]
  rcases h with h | h | h <;> simp [h]

theorem cutterDisableBody_busy {s : State} {c : Fin 4} (h : (s.chan c).state.busy = true) :
    cutterDisableBody c.1 s = (s, .refuse .wrongState (s.chan c).state.code) :=
  (onChannel_in s c _).trans (if_pos h)

/-- The channel with its ready flag set and READY_SEEN raised. -/
def readySeen (s : State) (c : Fin 4) : State :=
  (s.putChan c { s.chan c with ready := true }).raise (.channel c .readySeen)

theorem readyBody_idle {s : State} {c : Fin 4} (h : (s.chan c).state = .idle) : readyBody c s = (s, .accept .nothing) := by
  rw [readyBody, h]

theorem readyBody_faulted {s : State} {c : Fin 4} (h : (s.chan c).state = .faulted) :
    readyBody c s = (readySeen s c, .accept .nothing) := by
  rw [readyBody, h]
  rfl

theorem readyBody_stopped {s : State} {c : Fin 4} (h : (s.chan c).state = .stopped) :
    readyBody c s = ((readySeen s c).enterService c, .accept .nothing) := by
  rw [readyBody, h]
  rfl

theorem readyBody_working {s : State} {c : Fin 4} (h1 : (s.chan c).state ≠ .stopped) (h2 : (s.chan c).state ≠ .idle)
    (h3 : (s.chan c).state ≠ .faulted) : readyBody c s = (s.channelFault c .cutterRestarted 0, .accept .nothing) := by
  unfold readyBody
  cases h : (s.chan c).state with
  | stopped => exact absurd h h1
  | idle => exact absurd h h2
  | faulted => exact absurd h h3
  | running => rfl
  | draining => rfl
  | held => rfl
  | aborting => rfl

theorem readySeen_chan (s : State) (c : Fin 4) : (readySeen s c).chan c = { s.chan c with ready := true } := by
  rw [readySeen, raise_chan, chan_putChan_self]

/-- Settles O46: the three requests by the channel's state and flags. -/
theorem channelsEnterAndLeaveService : Obligations.ChannelsEnterAndLeaveService := by
  unfold Obligations.ChannelsEnterAndLeaveService
  intro c h s view
  have hchan : (s.hunt .control).chan c = s.chan c := hunt_chan s .control c
  refine ⟨fun ht => ⟨⟨fun h1 h2 => ?_, fun hout => ?_⟩, fun hrest => ?_, fun hbusy => ?_⟩, ?_⟩
  · have hbody := cutterEnableBody_enters (s := s.hunt .control) (c := c) (by rw [hchan]; exact h1) (by rw [hchan]; exact h2)
    rw [enabledOn, hchan] at hbody
    exact congrArg _ (request_next 0x50 _ _ _ ht hbody)
  · have hbody := cutterEnableBody_stays (s := s.hunt .control) (c := c) (by rw [hchan]; exact hout)
    rw [enabledOn, hchan] at hbody
    exact congrArg _ (request_next 0x50 _ _ _ ht hbody)
  · have hbody := cutterDisableBody_stops (s := s.hunt .control) (c := c) (by rw [hchan]; exact hrest)
    rw [hchan] at hbody
    exact congrArg _ (request_next 0x51 _ _ _ ht hbody)
  · have hbody := cutterDisableBody_busy (s := s.hunt .control) (c := c) (by rw [hchan]; exact (busy_iff _).mpr hbusy)
    rw [hchan] at hbody
    exact congrArg _ (request_next 0x51 _ _ _ ht hbody)
  · intro reads ht w t taken
    have hw : w.chan c = s.chan c := hunt_chan s (.cutter c) c
    have hseen : readySeen w c = t := by rw [readySeen, hw]
    have htchan : t.chan c = { s.chan c with ready := true } := by rw [← hseen, readySeen_chan, hw]
    have htaken {u : State} (hb : readyBody c w = (u, .accept .nothing)) : taken u :=
      congrArg _ (reads_request_next 0x68 (readyBody c) reads _ _ ht hb)
    refine ⟨fun h1 => htaken (readyBody_idle (hw ▸ h1)), fun h1 => htaken ?_, fun h1 h2 => htaken ?_, fun h1 h2 => htaken ?_⟩
    · rw [readyBody_faulted (by rw [hw]; exact h1), hseen]
    · rw [readyBody_stopped (by rw [hw]; exact h1), hseen, enterService_out (by rw [htchan]; simp [h2])]
    · rw [readyBody_stopped (by rw [hw]; exact h1), hseen,
        enterService_in (by rw [htchan]; exact h1) (by rw [htchan]; exact h2) (by rw [htchan])]

/-! ### Return checks (R106) -/

theorem partnerStruck_iff (s : State) (slot : Nat) (p : Placement) : s.partnerStruck slot p = true ↔
    ∃ j q, p.partner = some j ∧ s.placement slot j = some q ∧ q.state = .struck := by
  unfold State.partnerStruck
  cases p.partner with
  | none => simp
  | some j => cases hq : s.placement slot j <;> simp [hq]

section ReturnCheck

variable {slot i : Nat} {p : Placement} {w : Sweep}

theorem returnCheck_passedOver (h : ∀ p, w.s.placement slot i = some p → p.state ≠ .placed) :
    returnCheck slot w i = w := by
  unfold returnCheck
  cases hp : w.s.placement slot i with
  | none => rfl
  | some p => exact if_pos (h p hp)

theorem returnCheck_partner (hp : w.s.placement slot i = some p) (h : p.state = .placed)
    (hs : w.s.partnerStruck slot p = true) :
    returnCheck slot w i = { w with s := w.s.strike slot i, struck := w.struck + w.s.strikeCount slot i } := by
  unfold returnCheck
  rw [hp]
  dsimp only
  rw [if_neg (not_not_intro h), if_pos hs]

theorem returnCheck_unmarked (hp : w.s.placement slot i = some p) (h : p.state = .placed)
    (hs : w.s.partnerStruck slot p = false) (hm : p.marker = false) : returnCheck slot w i = w := by
  unfold returnCheck
  rw [hp]
  dsimp only
  rw [if_neg (not_not_intro h), if_neg (by simp [hs]), if_neg (by simp [hm])]

variable {pc : Piece} {v : Variant}

theorem returnCheck_pass (hp : w.s.placement slot i = some p) (h : p.state = .placed)
    (hs : w.s.partnerStruck slot p = false) (hm : p.marker = true) (hpc : w.s.piece p.slot = some pc)
    (hv : Tab.get pc.variants p.variant = some v) (hr : (fitTest true slot pc.band v p.x p.y w.s).2 = .pass) :
    returnCheck slot w i = { w with
      s := (fitTest true slot pc.band v p.x p.y w.s).1.modPlacement slot i fun q => { q with marker := false } } := by
  unfold returnCheck
  rw [hp]
  dsimp only
  rw [if_neg (not_not_intro h), if_neg (by simp [hs]), if_pos hm, variantOf_of hpc hv]
  dsimp only
  rw [hr]

theorem returnCheck_fail {code fx fy : Nat} {fresh : Option Nat} (hp : w.s.placement slot i = some p)
    (h : p.state = .placed) (hs : w.s.partnerStruck slot p = false) (hm : p.marker = true)
    (hpc : w.s.piece p.slot = some pc) (hv : Tab.get pc.variants p.variant = some v)
    (hr : (fitTest true slot pc.band v p.x p.y w.s).2 = .fail code fx fy fresh) :
    returnCheck slot w i = { w with
      s := (fitTest true slot pc.band v p.x p.y w.s).1.strike slot i
      struck := w.struck + (fitTest true slot pc.band v p.x p.y w.s).1.strikeCount slot i
      fresh := joinFresh fresh w.fresh } := by
  unfold returnCheck
  rw [hp]
  dsimp only
  rw [if_neg (not_not_intro h), if_neg (by simp [hs]), if_pos hm, variantOf_of hpc hv]
  dsimp only
  rw [hr]

end ReturnCheck

/-- Settles O47: the return check by the partner, the marker and the re-test. -/
theorem returnChecksAreMade : Obligations.ReturnChecksAreMade := by
  unfold Obligations.ReturnChecksAreMade
  refine ⟨fun slot i p w hp h => ?_, fun slot i w => returnCheck_passedOver⟩
  simp only [← partnerStruck_iff, Bool.not_eq_true]
  exact ⟨returnCheck_partner hp h, returnCheck_unmarked hp h, fun pc v hs hm hpc hv =>
    ⟨returnCheck_pass hp h hs hm hpc hv, fun code fx fy fresh => returnCheck_fail hp h hs hm hpc hv⟩⟩

/-! ### A hide let go (R106, R160, R161) -/

theorem letGo_rest {s : State} {c : Fin 4}
    (h : (s.chan c).state = .stopped ∨ (s.chan c).state = .idle ∨ (s.chan c).state = .faulted) : s.letGo c = s := by
  have hwork : (s.chan c).state.atWork = false := by
    rcases h with h | h | h <;> rw [h] <;> rfl
  have habort : (s.chan c).state ≠ .aborting := by
    rcases h with h | h | h <;> rw [h] <;> exact nofun
  unfold State.letGo
  cases s.assigned c with
  | none => rfl
  | some e =>
    dsimp only
    rw [if_neg (by simp [hwork]), if_neg habort]

section Assigned

variable {s : State} {c : Fin 4} {slot : Nat} {g : Hide}

theorem letGo_aborting (h1 : (s.chan c).hide = some slot) (h2 : s.hide slot = some g)
    (h : (s.chan c).state = .aborting) : s.letGo c = s.completeDiscard slot := by
  unfold State.letGo
  rw [assigned_of h1 h2, h]
  rfl

theorem letGo_atWork (h1 : (s.chan c).hide = some slot) (h2 : s.hide slot = some g)
    (h : (s.chan c).state.atWork = true) : s.letGo c = (s.returnAll c slot).giveBack slot := by
  unfold State.letGo
  rw [assigned_of h1 h2]
  exact if_pos h

end Assigned

theorem putHide_same {s : State} {slot : Nat} {g : Hide} (hs : Tab.sorted s.hides.slots = true)
    (hg : s.hide slot = some g) : s.putHide slot g = s := by
  rw [State.putHide, put_same hs hg]

/-- A placement out on the channel made PLACED, and any other left. -/
def returned (c : Fin 4) (p : Placement) : Placement :=
  if outOn c p then { p with state := .placed, ticket := none } else p

theorem returned_returned (c : Fin 4) (p : Placement) : returned c (returned c p) = returned c p := by
  unfold returned
  by_cases h : outOn c p = true
  · rw [if_pos h]
    rfl
  · rw [if_neg h, if_neg h]

theorem outOn_iff (c : Fin 4) (p : Placement) :
    outOn c p = true ↔ p.state = .ticketed ∧ p.ticket.map Prod.snd = some c := by
  cases h : p.ticket <;> simp [outOn, h]

/-- Placements returned one after another are one write of their hide. -/
theorem returnPlacements_eq (c : Fin 4) (slot : Nat) (is : List Nat) {s : State} {g : Hide}
    (hs : Tab.sorted s.hides.slots = true) (hg : s.hide slot = some g) :
    is.foldl (fun t i => t.returnPlacement c slot i) s =
      s.putHide slot { g with placements := is.foldl (fun l i => l.modify i (returned c)) g.placements } := by
  induction is generalizing s g with
  | nil => exact (putHide_same hs hg).symm
  | cons i t ih =>
    have hone : s.returnPlacement c slot i =
        s.putHide slot { g with placements := g.placements.modify i (returned c) } := modHide_some _ hg
    rw [List.foldl_cons, hone, ih (sorted_put _ _ hs) (hide_putHide_self ..), putHide_putHide]
    rfl

/-- The returned placements, all at once. -/
theorem returned_placements {s : State} {c : Fin 4} {slot : Nat} {g : Hide} (hg : s.hide slot = some g) :
    (s.outIndices c slot).foldl (fun l i => l.modify i (returned c)) g.placements = g.placements.map (returned c) := by
  refine List.ext_getElem? fun i => ?_
  rw [foldl_modify _ (returned_returned c), List.getElem?_map]
  cases hp : g.placements[i]? with
  | none => rfl
  | some p =>
    rw [Option.map_some, Option.map_some]
    split
    · rfl
    · next hnot =>
      have hout : ¬ outOn c p = true := fun h => hnot (mem_outIndices hg hp h)
      rw [returned, if_neg hout]

theorem out_of_mem_outIndices {s : State} {c : Fin 4} {slot i : Nat} {g : Hide} (hg : s.hide slot = some g)
    (h : i ∈ s.outIndices c slot) : ∃ p, g.placements[i]? = some p ∧ outOn c p = true := by
  simp only [State.outIndices, hg, List.mem_map, List.mem_filter] at h
  obtain ⟨⟨p, _⟩, ⟨hp, hout⟩, rfl⟩ := h
  exact ⟨p, List.mem_zipIdx_iff_getElem?.mp hp, hout⟩

theorem returned_struck {c : Fin 4} {p : Placement} (h : (returned c p).state = .struck) : p.state = .struck := by
  unfold returned at h
  split at h
  · exact nomatch h
  · exact h

theorem returned_partner (c : Fin 4) (p : Placement) : (returned c p).partner = p.partner := by
  unfold returned
  split <;> rfl

theorem returned_marker (c : Fin 4) (p : Placement) : (returned c p).marker = p.marker := by
  unfold returned
  split <;> rfl

/-- A return of all placements out, where no return check has anything to do. -/
theorem returnAll_eq {s : State} {c : Fin 4} {slot : Nat} {g : Hide} (hs : Tab.sorted s.hides.slots = true)
    (hg : s.hide slot = some g)
    (h : ∀ p ∈ g.placements, outOn c p = true → p.marker = false ∧
      ∀ j q, p.partner = some j → g.placements[j]? = some q → q.state ≠ .struck) :
    s.returnAll c slot = s.putHide slot { g with placements := g.placements.map (returned c) } := by
  have hback : (s.outIndices c slot).foldl (fun t i => t.returnPlacement c slot i) s =
      s.putHide slot { g with placements := g.placements.map (returned c) } := by
    rw [returnPlacements_eq c slot _ hs hg, returned_placements hg]
  have hplacement (j : Nat) : (s.putHide slot { g with placements := g.placements.map (returned c) }).placement slot j =
      (g.placements[j]?).map (returned c) := by
    rw [placement_of_hide (hide_putHide_self ..)]
    exact List.getElem?_map ..
  rw [State.returnAll, hback]
  refine returnChecks_none _ _ _ fun i hi q hq => ?_
  obtain ⟨p, hp, hout⟩ := out_of_mem_outIndices hg hi
  rw [hplacement, hp, Option.map_some] at hq
  obtain rfl : returned c p = q := Option.some.inj hq
  obtain ⟨hmarker, hpartner⟩ := h p (List.mem_of_getElem? hp) hout
  refine ⟨?_, (returned_marker c p).trans hmarker⟩
  rw [← Bool.not_eq_true, partnerStruck_iff]
  rintro ⟨j, r, hj, hr, hstruck⟩
  rw [returned_partner] at hj
  rw [hplacement] at hr
  obtain ⟨r', hr', rfl⟩ := Option.map_eq_some_iff.mp hr
  exact hpartner j r' hj hr' (returned_struck hstruck)

/-! ### Channel faults (R160, R161) -/

/-- The record of a channel that faults. -/
def faultRecord (ch : Channel) (cause : FaultCause) (code : Nat) : Channel :=
  { ch with
    state := .faulted, hide := none, deadlines := [], queryCount := 0, outstanding := none,
    lastFault := some (cause, code), ready := decide (cause = .cutterRestarted) }

theorem channelFault_eq (s : State) (c : Fin 4) (cause : FaultCause) (code : Nat) : s.channelFault c cause code =
    if (s.chan c).state.atWork then
      (((s.letGo c).putChan c (faultRecord (s.chan c) cause code)).raise (.channel c .fault)).evaluate
    else ((s.letGo c).putChan c (faultRecord (s.chan c) cause code)).raise (.channel c .fault) := by
  rw [State.channelFault, State.recordFault, State.clearWork, modChan_modChan, letGo_chan]
  rfl

/-- Settles O48: the hide let go by the channel's state, and the record of the fault. -/
theorem channelFaultsGiveTheHideBack : Obligations.ChannelFaultsGiveTheHideBack := by
  unfold Obligations.ChannelFaultsGiveTheHideBack
  intro c cause code s record faulted
  refine ⟨fun h => ?_, fun slot g h1 h2 => ⟨fun h => ?_, fun h => ?_, fun hs hp => ?_⟩⟩
  · rw [channelFault_eq, letGo_rest h, if_neg (by rcases h with h | h | h <;> rw [h] <;> exact nofun)]
    rfl
  · rw [channelFault_eq, letGo_aborting h1 h2 h, if_neg (by rw [h]; exact nofun)]
    rfl
  · intro u k hk
    have hwork : (s.chan c).state.atWork = true := (atWork_iff _).mpr h
    rw [channelFault_eq, letGo_atWork h1 h2 hwork, if_pos hwork]
    refine ⟨fun hp => ?_, fun hp => ?_⟩
    · rw [giveBack_placed hk hp]
      rfl
    · rw [giveBack_none hk hp]
      rfl
  · have hmap : returned c = fun p => if p.state = .ticketed ∧ (p.ticket.map Prod.snd) = some c then
        { p with state := .placed, ticket := none } else p :=
      funext fun p => if_congr (outOn_iff c p) rfl rfl
    rw [← hmap]
    exact returnAll_eq hs h2 fun p hm hout => by
      obtain ⟨ht, hticket⟩ := (outOn_iff c p).mp hout
      exact hp p hm ht hticket

/-! ### CUTTER_RESET (R163) -/

/-- The record of a channel that is reset. -/
def resetRecord (ch : Channel) : Channel :=
  { ch with
    state := if ch.enabled && (decide (ch.state = .faulted) && ch.ready) then .idle else .stopped
    hide := none, deadlines := [], queryCount := 0, outstanding := none
    ready := decide (ch.state = .faulted) && ch.ready, ticketCounter := 1 }

theorem resetState_eq (s : State) (c : Fin 4) : s.resetState c = (resetRecord (s.chan c)).state := by
  rw [State.resetState, State.readyKept, Bool.and_comm (s.chan c).ready]
  rfl

theorem cutterReset_eq (s : State) (c : Fin 4) : s.cutterReset c =
    if s.redispatched c || decide ((resetRecord (s.chan c)).state = .idle) then
      ((s.letGo c).putChan c (resetRecord (s.chan c))).evaluate
    else (s.letGo c).putChan c (resetRecord (s.chan c)) := by
  rw [State.cutterReset, State.clearWork, modChan_modChan, letGo_chan, State.readyKept, resetState_eq,
    Bool.and_comm (s.chan c).ready]
  rfl

theorem cutterResetBody_eq (s : State) (c : Fin 4) :
    cutterResetBody c.1 s = (s.cutterReset c, channelReply (s.cutterReset c) c) := onChannel_in s c _

/-- A channel that is not FAULTED comes out of a reset STOPPED. -/
theorem resetRecord_stopped {ch : Channel} (h : ch.state ≠ .faulted) : (resetRecord ch).state = .stopped := by
  simp [resetRecord, h]

theorem resetRecord_idle_iff (ch : Channel) :
    (resetRecord ch).state = .idle ↔ (ch.enabled && (decide (ch.state = .faulted) && ch.ready)) = true := by
  unfold resetRecord
  dsimp only
  split <;> simp_all

theorem redispatched_eq {s : State} {c : Fin 4} {slot : Nat} {g : Hide} (h1 : (s.chan c).hide = some slot)
    (h2 : s.hide slot = some g) (hwork : (s.chan c).state.atWork = true) :
    s.redispatched c = ((s.letGo c).hide slot).any fun h => decide (h.state = .dispatchWait) := by
  rw [State.redispatched, hwork, assigned_of h1 h2]
  rfl

theorem redispatched_idle {s : State} {c : Fin 4} (h : (s.chan c).state.atWork = false) :
    s.redispatched c = false := by
  rw [State.redispatched, h]
  rfl

theorem cutterReset_rest {s : State} {c : Fin 4}
    (h : (s.chan c).state = .stopped ∨ (s.chan c).state = .idle ∨ (s.chan c).state = .faulted) : s.cutterReset c =
      if (s.chan c).enabled && (decide ((s.chan c).state = .faulted) && (s.chan c).ready) then
        (s.putChan c (resetRecord (s.chan c))).evaluate
      else s.putChan c (resetRecord (s.chan c)) := by
  have hwork : (s.chan c).state.atWork = false := by
    rcases h with h | h | h <;> rw [h] <;> rfl
  rw [cutterReset_eq, letGo_rest h, redispatched_idle hwork]
  exact if_congr (by rw [Bool.false_or, decide_eq_true_eq, resetRecord_idle_iff]) rfl rfl

section Assigned

variable {s : State} {c : Fin 4} {slot : Nat} {g k : Hide}

theorem cutterReset_aborting (h1 : (s.chan c).hide = some slot) (h2 : s.hide slot = some g)
    (h : (s.chan c).state = .aborting) :
    s.cutterReset c = (s.completeDiscard slot).putChan c (resetRecord (s.chan c)) := by
  rw [cutterReset_eq, letGo_aborting h1 h2 h, redispatched_idle (by rw [h]; rfl),
    resetRecord_stopped (by rw [h]; exact nofun)]
  rfl

theorem notFaulted_of_atWork {st : ChannelState} (h : st.atWork = true) : st ≠ .faulted := by
  rintro rfl
  exact nomatch h

theorem cutterReset_redispatches (h1 : (s.chan c).hide = some slot) (h2 : s.hide slot = some g)
    (h : (s.chan c).state.atWork = true) (hk : (s.returnAll c slot).hide slot = some k) (hp : k.anyPlaced = true) :
    s.cutterReset c = (((State.joinWaiting slot ((s.returnAll c slot).putHide slot
      { k with state := .dispatchWait, channel := none })).raise (.hide slot .redispatch)).putChan c
        (resetRecord (s.chan c))).evaluate := by
  have hredispatched : s.redispatched c = true := by
    rw [redispatched_eq h1 h2 h, letGo_atWork h1 h2 h, giveBack_placed hk hp, raise_hide]
    exact (congrArg (Option.any _) (hide_putHide_self ..)).trans rfl
  rw [cutterReset_eq, hredispatched, letGo_atWork h1 h2 h, giveBack_placed hk hp]
  rfl

theorem cutterReset_done (h1 : (s.chan c).hide = some slot) (h2 : s.hide slot = some g)
    (h : (s.chan c).state.atWork = true) (hk : (s.returnAll c slot).hide slot = some k) (hp : k.anyPlaced = false) :
    s.cutterReset c = (((s.returnAll c slot).putHide slot { k with state := .done, channel := none }).raise
      (.hide slot .hideDone)).putChan c (resetRecord (s.chan c)) := by
  have hredispatched : s.redispatched c = false := by
    rw [redispatched_eq h1 h2 h, letGo_atWork h1 h2 h, giveBack_none hk hp, raise_hide, hide_putHide_self]
    rfl
  rw [cutterReset_eq, hredispatched, letGo_atWork h1 h2 h, giveBack_none hk hp,
    resetRecord_stopped (notFaulted_of_atWork h)]
  rfl

end Assigned

/-- Settles O49: the faults as one fault of the channel, and the reset by the channel's state. -/
theorem cuttersFaultAndCutterResetStopsTheChannel : Obligations.CuttersFaultAndCutterResetStopsTheChannel := by
  unfold Obligations.CuttersFaultAndCutterResetStopsTheChannel
  constructor
  · intro c h code reads s w
    refine ⟨fun ht => ?_, fun ht n1 n2 n3 => ?_⟩
    · exact congrArg _ (reads_request_next 0x6A (cutterFaultBody c code) reads _ _ ht rfl)
    · have hw : w.chan c = s.chan c := hunt_chan s (.cutter c) c
      rw [← hw] at n1 n2 n3
      exact congrArg _ (reads_request_next 0x68 (readyBody c) reads _ _ ht (readyBody_working n1 n2 n3))
  · intro c h reads s ht ch ready idle record w taken
    have hw : w.chan c = ch := hunt_chan s .control c
    have hrecord : resetRecord (w.chan c) = record := by rw [hw]; rfl
    have htaken {t : State} (e : w.cutterReset c = t) : taken t := e ▸
      congrArg _ (reads_request_next 0x52 (cutterResetBody c.1) reads _ _ ht (cutterResetBody_eq w c))
    refine ⟨fun hrest => htaken ?_, fun slot g h1 h2 => ⟨fun ha => htaken ?_, fun hwork => ?_⟩⟩
    · rw [cutterReset_rest (by rw [hw]; exact hrest), hrecord, hw]
    all_goals
      have h1' : (w.chan c).hide = some slot := by rw [hw]; exact h1
      have h2' : w.hide slot = some g := (hunt_hide s .control slot).trans h2
    · rw [cutterReset_aborting h1' h2' (by rw [hw]; exact ha), hrecord]
    · intro u k hk
      have hwork' : (w.chan c).state.atWork = true := by rw [hw]; exact (atWork_iff _).mpr hwork
      refine ⟨fun hp => htaken ?_, fun hp => htaken ?_⟩
      · rw [cutterReset_redispatches h1' h2' hwork' hk hp, hrecord]
      · rw [cutterReset_done h1' h2' hwork' hk hp, hrecord]

end Sys2Proof.Proofs.Service
end

section
/-! The statements about reports, tickets and their answers (R150 to R153). -/

namespace Sys2Proof.Proofs.Tickets

open Sys2Proof.Machine Sys2Proof.Laws Sys2Proof.Proofs.Discards Sys2Proof.Proofs.Service

/-! ### Reports (R153) -/

theorem cutReportBody_range {outcome : Nat} (h : 2 < outcome) (c : Fin 4) (n reason detail : Nat) (s : State) :
    cutReportBody c n outcome reason detail s = (s, .refuse .range 1) := by
  match outcome, h with
  | _ + 3, _ => rfl

theorem cutOutcomeOf_of_le {outcome : Nat} (h : outcome ≤ 2) : ∃ o, cutOutcomeOf outcome = some o := by
  match outcome, h with
  | 0, _ => exact ⟨.cut, rfl⟩
  | 1, _ => exact ⟨.spoiled, rfl⟩
  | 2, _ => exact ⟨.skipped, rfl⟩

theorem cutReportBody_stale {s : State} {c : Fin 4} {n outcome : Nat} (h : outcome ≤ 2) (hf : s.findAtWork c n = none)
    (reason detail : Nat) : cutReportBody c n outcome reason detail s =
      (s.raise (.channel c .staleReport), .refuse .stale n) := by
  obtain ⟨o, ho⟩ := cutOutcomeOf_of_le h
  unfold cutReportBody
  rw [ho]
  dsimp only
  rw [hf]

theorem cutReportBody_resolves {s : State} {c : Fin 4} {n outcome slot i : Nat} {o : CutOutcome}
    (ho : cutOutcomeOf outcome = some o) (hf : s.findAtWork c n = some (slot, i)) (reason detail : Nat) :
    cutReportBody c n outcome reason detail s = (s.resolveReport c ⟨n, i⟩ slot o (reason, detail), .accept .nothing) := by
  unfold cutReportBody
  rw [ho]
  dsimp only
  rw [hf]

/-- The channel's record, and the hide, after a resolving report. -/
def reportEnds (c : Fin 4) (t : TicketRef) (slot : Nat) (s : State) : State :=
  (s.putChan c { s.chan c with
    deadlines := (s.chan c).deadlines.filter fun d => decide (d.ticket ≠ t), queryCount := 0 }).settle slot

theorem resolveReport_eq (s : State) (c : Fin 4) (t : TicketRef) (slot : Nat) (o : CutOutcome) (reason : Nat × Nat) :
    s.resolveReport c t slot o reason = reportEnds c t slot (s.resolve slot t.index o reason) := by
  rw [State.resolveReport, State.setCount, State.dropDeadline, modChan_modChan]
  rfl

section Resolve

variable {s : State} {slot i : Nat} {p : Placement}

theorem resolve_cut (hp : s.placement slot i = some p) (reason : Nat × Nat) :
    s.resolve slot i .cut reason = s.resolveCut slot i p := by
  unfold State.resolve
  rw [hp]

theorem resolve_spoiled (hp : s.placement slot i = some p) (reason : Nat × Nat) :
    s.resolve slot i .spoiled reason = s.resolveSpoiled slot i p := by
  unfold State.resolve
  rw [hp]

theorem resolve_skipped (hp : s.placement slot i = some p) (reason : Nat × Nat) :
    s.resolve slot i .skipped reason = s.resolveSkipped slot i p reason := by
  unfold State.resolve
  rw [hp]

end Resolve

/-- Settles O50: the report by its outcome, on the placement that the channel finds under the number. -/
theorem cutReportsResolveTickets : Obligations.CutReportsResolveTickets := by
  unfold Obligations.CutReportsResolveTickets
  intro c h n outcome reason detail s ht w out atWork
  have hw : w.chan c = s.chan c := hunt_chan s (.cutter c) c
  have hhide (k : Nat) : w.hide k = s.hide k := hunt_hide s (.cutter c) k
  refine ⟨fun ho => ?_, fun ho hnone => ?_, fun slot g i p hwork h1 h2 hp hout hfirst => ?_⟩
  · exact congrArg _ (request_next 0x69 _ _ _ ht (cutReportBody_range ho c n reason detail w))
  · have hf : w.findAtWork c n = none := findAtWork_none (by simp only [hw, hhide]; exact hnone)
    exact congrArg _ (request_next 0x69 _ _ _ ht (cutReportBody_stale ho hf reason detail))
  · have h2' : w.hide slot = some g := (hhide slot).trans h2
    have hf : w.findAtWork c n = some (slot, i) :=
      findAtWork_of (by rw [hw]; exact hwork) (by rw [hw]; exact h1) h2' hp hout hfirst
    have hp' : w.placement slot i = some p := placement_of h2' hp
    intro ends
    have hresolves {o : CutOutcome} {t : State} (ho : cutOutcomeOf outcome = some o)
        (hr : w.resolve slot i o (reason, detail) = t) :
        exec (.cutReport c h n outcome reason detail) s = .next ((ends t).accepts (.cutter c) 0x69 h .nothing) := by
      have hbody := cutReportBody_resolves ho hf reason detail
      rw [resolveReport_eq, hr] at hbody
      exact congrArg _ (request_next 0x69 _ _ _ ht hbody)
    refine ⟨fun ho => hresolves (by rw [ho]; rfl) (resolve_cut hp' _), fun ho => hresolves (by rw [ho]; rfl)
      (resolve_spoiled hp' _), fun ho => hresolves (by rw [ho]; rfl) (resolve_skipped hp' _)⟩

/-! ### The channel's own requests (R150, R173) -/

theorem linkFree_iff (s : State) (l : Link) :
    s.linkFree l = true ↔ ∀ q, (s.link l).inHand = some q → q.begun = false := by
  unfold State.linkFree State.beingSent
  cases (s.link l).inHand <;> simp [Option.filter]

theorem mayAsk_iff (s : State) (c : Fin 4) : s.mayAsk c = true ↔
    (s.chan c).outstanding = none ∧ ∀ q, (s.link (.cutter c)).inHand = some q → q.begun = false := by
  rw [State.mayAsk, Bool.and_eq_true, linkFree_iff, Option.isNone_iff_eq_none]

theorem mayAsk_false {s : State} {c : Fin 4} (h : (s.chan c).outstanding ≠ none ∨
    ∃ q, (s.link (.cutter c)).inHand = some q ∧ q.begun = true) : ¬ s.mayAsk c = true := by
  rw [mayAsk_iff]
  rintro ⟨hnone, hfree⟩
  rcases h with h | ⟨q, hq, hb⟩
  · exact h hnone
  · rw [hfree q hq] at hb
    exact nomatch hb

/-- A request sent, and the channel's record then changed. -/
theorem modChan_sendOwn (s : State) (c : Fin 4) (r : OwnRequest) (f : OutFrame) (a : Channel → Channel) :
    (s.sendOwn c r f).modChan c a = { s.putChan c (a { s.chan c with
      outstanding := some ⟨r, (s.chan c).nextTag⟩, nextTag := ((s.chan c).nextTag + 1) % 256 }) with
        sent := ⟨.cutter c, (s.chan c).nextTag, f⟩ :: s.sent } :=
  congrArg (fun t : State => { t with sent := ⟨.cutter c, (s.chan c).nextTag, f⟩ :: s.sent })
    (modChan_modChan s c
      (fun ch => { ch with outstanding := some ⟨r, ch.nextTag⟩, nextTag := (ch.nextTag + 1) % 256 }) a)

theorem answered_of {s : State} {c : Fin 4} {r : OwnRequest} {tag : Nat} (h : (s.chan c).outstanding = some ⟨r, tag⟩) :
    s.answered c tag = some r := by
  unfold State.answered
  rw [h]
  exact if_pos rfl

theorem waitingFor_of {s : State} {c : Fin 4} {r : OwnRequest} {tag : Nat}
    (h : (s.chan c).outstanding = some ⟨r, tag⟩) : s.waitingFor c = some r := by
  rw [State.waitingFor, h]
  rfl

/-! ### TICKET_SEND (R151) -/

theorem firstPlaced_of {ps : List Placement} {i : Nat} {p : Placement} (hp : ps[i]? = some p) (h : p.state = .placed)
    (hfirst : ∀ j q, j < i → ps[j]? = some q → q.state ≠ .placed) : firstPlaced ps = some (i, p) := by
  obtain ⟨hi, hpi⟩ := List.getElem?_eq_some_iff.mp hp
  have hfind : (ps.zipIdx.find? fun e => decide (e.1.state = .placed)) = some (p, i) := by
    refine List.find?_eq_some_iff_getElem.mpr ⟨decide_eq_true h, i, by simpa using hi, by simp [hpi], fun j hj => ?_⟩
    have hnot := hfirst j _ hj (List.getElem?_eq_getElem (hj.trans hi))
    simpa using hnot
  rw [firstPlaced, hfind]
  rfl

theorem firstPlaced_none {ps : List Placement} (h : ∀ p ∈ ps, p.state ≠ .placed) : firstPlaced ps = none := by
  have hfind : (ps.zipIdx.find? fun e => decide (e.1.state = .placed)) = none :=
    List.find?_eq_none.mpr fun e he => by simpa using h e.1 (List.fst_mem_of_mem_zipIdx he)
  rw [firstPlaced, hfind]
  rfl

/-- What a channel needs to send a ticket. -/
theorem maySend_iff (s : State) (c : Fin 4) : maySend s c = true ↔ (s.chan c).state = .running ∧
    s.ticketsOut c < s.settings.window c ∧ s.mayAsk c = true ∧ ∀ d ∈ (s.chan c).deadlines, d.expired = false := by
  simp [maySend, and_assoc]

theorem ticketSend_sends {s : State} {c : Fin 4} {slot i : Nat} {g : Hide} {p : Placement}
    (h1 : (s.chan c).hide = some slot) (h2 : s.hide slot = some g) (hmay : maySend s c = true)
    (hfirst : firstPlaced g.placements = some (i, p)) : ticketSend c s = sendTicket c slot g i p s := by
  unfold ticketSend
  rw [if_pos hmay, assigned_of h1 h2]
  dsimp only
  rw [hfirst]

theorem ticketSend_silent {s : State} {c : Fin 4} {slot : Nat} {g : Hide} (h1 : (s.chan c).hide = some slot)
    (h2 : s.hide slot = some g) (h : ¬ maySend s c = true ∨ firstPlaced g.placements = none) : ticketSend c s = s := by
  unfold ticketSend
  rw [assigned_of h1 h2]
  rcases h with h | h
  · exact if_neg h
  · split
    · dsimp only
      rw [h]
    · rfl

theorem sendTicket_eq {s : State} {c : Fin 4} {slot i : Nat} {g : Hide} {p : Placement} {pc : Piece}
    (hpc : s.piece p.slot = some pc) : sendTicket c slot g i p s =
      State.settle slot { (s.modPlacement slot i fun q => { q with
          state := .ticketed, ticket := some ((s.chan c).ticketCounter, c) }).putChan c { s.chan c with
        outstanding := some ⟨.ticket ⟨(s.chan c).ticketCounter, i⟩, (s.chan c).nextTag⟩
        nextTag := ((s.chan c).nextTag + 1) % 256
        deadlines := (s.chan c).deadlines ++ [⟨⟨(s.chan c).ticketCounter, i⟩, s.settings.cutDeadline, false⟩]
        ticketCounter := if (s.chan c).ticketCounter = 65535 then 1 else (s.chan c).ticketCounter + 1 } with
        sent := ⟨.cutter c, (s.chan c).nextTag,
          .ticket (s.chan c).ticketCounter g.tag i pc.code p.variant p.x p.y⟩ :: s.sent } := by
  have hcode : codeOf s p.slot = pc.code := by
    rw [codeOf, hpc]
    rfl
  unfold sendTicket
  dsimp only
  rw [modChan_sendOwn, modPlacement_chan, modPlacement_sent, hcode]
  rfl

/-! ### TICKET_ANSWER and TICKET_TIMEOUT (R152) -/

theorem ticketAnswer_accept {s : State} {c : Fin 4} {t : TicketRef} {tag : Nat}
    (h : (s.chan c).outstanding = some ⟨.ticket t, tag⟩) : ticketAnswer c tag .accept s = s.endOwn c := by
  unfold ticketAnswer
  rw [answered_of h]

theorem ticketAnswer_refuse {s : State} {c : Fin 4} {t : TicketRef} {tag : Nat}
    (h : (s.chan c).outstanding = some ⟨.ticket t, tag⟩) (reason detail : Nat) :
    ticketAnswer c tag (.refuse reason detail) s = ticketRefused c t (reason, detail) (s.endOwn c) := by
  unfold ticketAnswer
  rw [answered_of h]

theorem ticketTimeout_ends {s : State} {c : Fin 4} {t : TicketRef} {tag : Nat}
    (h : (s.chan c).outstanding = some ⟨.ticket t, tag⟩) : ticketTimeout c s = s.endOwn c := by
  unfold ticketTimeout
  rw [waitingFor_of h]

theorem ticketRefused_gone {s : State} {c : Fin 4} {t : TicketRef} (h : s.findTicket c t = none) (reason : Nat × Nat) :
    ticketRefused c t reason s = s := by
  unfold ticketRefused
  rw [h]

theorem ticketRefused_skips {s : State} {c : Fin 4} {t : TicketRef} {slot : Nat} {p : Placement}
    (h : s.findTicket c t = some slot) (hp : s.placement slot t.index = some p) (reason : Nat × Nat) :
    ticketRefused c t reason s = ((s.resolveSkipped slot t.index p reason).dropDeadline c t).settle slot := by
  unfold ticketRefused
  rw [h]
  dsimp only
  rw [resolve_skipped hp]

/-- The channel with no request outstanding. -/
theorem endOwn_hunt (s : State) (c : Fin 4) : (s.hunt (.cutter c)).endOwn c =
    (s.hunt (.cutter c)).putChan c { s.chan c with outstanding := none } := by
  rw [State.endOwn, State.modChan, hunt_chan]

/-- Settles O51: the ticket sent to the first PLACED placement, and its request ended by answer or timeout. -/
theorem ticketsAreSentAndAnswered : Obligations.TicketsAreSentAndAnswered := by
  unfold Obligations.TicketsAreSentAndAnswered
  intro c slot g s h1 h2 ch n
  refine ⟨fun i p pc hlink hrun hroom hnone hdue hp hpl hfirst hpc => ?_, fun h => ?_, fun m i tag hout => ?_⟩
  · have hmay : maySend s c = true := (maySend_iff s c).mpr ⟨hrun, hroom, (mayAsk_iff s c).mpr ⟨hnone, hlink⟩, hdue⟩
    exact congrArg Host.Outcome.next
      ((ticketSend_sends h1 h2 hmay (firstPlaced_of hp hpl hfirst)).trans (sendTicket_eq hpc))
  · refine congrArg Host.Outcome.next (ticketSend_silent h1 h2 ?_)
    rw [maySend_iff]
    rcases h with h | h | h | ⟨d, hd, he⟩ | h | h
    · exact .inl fun k => h k.1
    · exact .inl fun k => absurd k.2.1 (by omega)
    · exact .inl fun k => mayAsk_false (.inl h) k.2.2.1
    · refine .inl fun k => ?_
      rw [k.2.2.2 d hd] at he
      exact nomatch he
    · exact .inr (firstPlaced_none h)
    · exact .inl fun k => mayAsk_false (.inr h) k.2.2.1
  · intro out w
    have hw : (s.hunt (.cutter c)).endOwn c = w := endOwn_hunt s c
    have hout' : ((s.hunt (.cutter c)).chan c).outstanding = some ⟨.ticket ⟨m, i⟩, tag⟩ := by rw [hunt_chan]; exact hout
    have hchan : w.chan c = { ch with outstanding := none } := chan_putChan_self ..
    have hhide : w.hide slot = some g := (hunt_hide s (.cutter c) slot).trans h2
    have hrefuse (reason detail : Nat) : exec (.ticketAnswer c tag (.refuse reason detail)) s =
        .next (ticketRefused c ⟨m, i⟩ (reason, detail) w) :=
      congrArg Host.Outcome.next ((ticketAnswer_refuse hout' reason detail).trans (by rw [hw]))
    refine ⟨congrArg Host.Outcome.next ((ticketAnswer_accept hout').trans hw),
      congrArg Host.Outcome.next (ticketTimeout_ends hout), fun reason detail hgone => ?_,
      fun reason detail p hwork hp hpout => ?_⟩
    · have hfind : w.findTicket c ⟨m, i⟩ = none := findTicket_none (by rw [hchan]; exact h1) hhide (by rw [hchan]; exact hgone)
      rw [hrefuse, ticketRefused_gone hfind]
    · have hfind : w.findTicket c ⟨m, i⟩ = some slot :=
        findTicket_of (by rw [hchan]; exact hwork) (by rw [hchan]; exact h1) hhide hp hpout
      rw [hrefuse, ticketRefused_skips hfind (placement_of hhide hp)]
      rfl

end Sys2Proof.Proofs.Tickets
end

section
/-! The statements about deadlines, queries and aborts (R157 to R159, R162). -/

namespace Sys2Proof.Proofs.Queries

open Sys2Proof.Machine Sys2Proof.Laws Sys2Proof.Proofs.Discards Sys2Proof.Proofs.Service Sys2Proof.Proofs.Tickets

/-! ### The query sent (R157) -/

theorem find?_first {α : Type} {f : α → Bool} {a b : List α} {d : α} (ha : ∀ e ∈ a, f e = false) (hd : f d = true) :
    (a ++ d :: b).find? f = some d := by
  have hnone : a.find? f = none := List.find?_eq_none.mpr fun e he => by simp [ha e he]
  rw [List.find?_append, hnone, Option.none_or, List.find?_cons_of_pos hd]

theorem firstExpired_of {s : State} {c : Fin 4} {slot : Nat} {d : Deadline} {a b : List Deadline}
    (hd : (s.chan c).deadlines = a ++ d :: b) (he : d.expired = true) (ha : ∀ e ∈ a, e.expired = false)
    (hf : s.findTicket c d.ticket = some slot) : firstExpired s c = some d.ticket := by
  unfold firstExpired
  rw [hd, find?_first ha he]
  dsimp only
  rw [hf]
  rfl

theorem ticketQuerySend_sends {s : State} {c : Fin 4} {slot : Nat} {g : Hide} {t : TicketRef}
    (h1 : (s.chan c).hide = some slot) (h2 : s.hide slot = some g) (hmay : s.mayAsk c = true)
    (hf : firstExpired s c = some t) :
    ticketQuerySend c s = s.sendOwn c (.query t) (.ticketQuery t.number g.tag t.index) := by
  unfold ticketQuerySend
  rw [if_pos hmay, hf, assigned_of h1 h2]

/-! ### The ticket still out (R158, R159) -/

/-- The ticket's deadline restarted, and the query count raised. -/
def restarted (c : Fin 4) (t : TicketRef) (seconds : Nat) (s : State) : State :=
  s.putChan c { s.chan c with
    deadlines := (s.chan c).deadlines.map fun d =>
      if d.ticket = t then { d with seconds := seconds, expired := false } else d
    queryCount := (s.chan c).queryCount + 1 }

theorem restarted_count (c : Fin 4) (t : TicketRef) (seconds : Nat) (s : State) :
    ((restarted c t seconds s).chan c).queryCount = (s.chan c).queryCount + 1 := by
  rw [restarted, chan_putChan_self]

/-- What the OVERDUE setting makes of a query count at its limit. -/
def atLimit (c : Fin 4) (n : Nat) (o : Overdue) (s : State) : State :=
  match o with
  | .wait => (s.raise (.channel c .overdue)).setCount c 0
  | .fail => s.channelFault c .queryLimit n

section Counted

variable {s : State} {c : Fin 4} {t : TicketRef} {slot : Nat}

theorem compareLimit_eq (u : State) (n : Nat) : compareLimit c n u =
    if u.settings.queryLimit ≤ (u.chan c).queryCount then atLimit c n u.settings.overdue u else u := by
  unfold compareLimit
  cases u.settings.overdue <;> rfl

/-- A ticket still out, by the query count and the limit. -/
theorem stillOut_eq (hf : s.findTicket c t = some slot) : stillOut c t s =
    if (s.chan c).queryCount + 1 < s.settings.queryLimit then restarted c t s.settings.cutDeadline s
    else atLimit c t.number s.settings.overdue (restarted c t s.settings.cutDeadline s) := by
  have hout : stillOut c t s = compareLimit c t.number (restarted c t s.settings.cutDeadline s) := by
    unfold stillOut
    rw [hf]
    rfl
  rw [hout, compareLimit_eq, restarted_count]
  by_cases h : (s.chan c).queryCount + 1 < s.settings.queryLimit
  · rw [if_pos h]
    exact if_neg (Nat.not_le.mpr h)
  · rw [if_neg h]
    exact if_pos (Nat.not_lt.mp h)

/-! ### The answers (R158) -/

section Answers

variable {tag : Nat} (h : (s.chan c).outstanding = some ⟨.query t, tag⟩)
include h

theorem queryAnswer_finished (o : CutOutcome) (reason detail : Nat) :
    queryAnswer c tag (.finished o reason detail) s = finishedTicket c t o (reason, detail) (s.endOwn c) := by
  unfold queryAnswer
  rw [answered_of h]

theorem queryAnswer_inProgress : queryAnswer c tag .inProgress s = stillOut c t (s.endOwn c) := by
  unfold queryAnswer
  rw [answered_of h]

theorem queryAnswer_unknown : queryAnswer c tag .unknown s = unknownTicket c t (s.endOwn c) := by
  unfold queryAnswer
  rw [answered_of h]

theorem queryAnswer_refuse (reason detail : Nat) :
    queryAnswer c tag (.refuse reason detail) s = stillOut c t (s.endOwn c) := by
  unfold queryAnswer
  rw [answered_of h]

theorem queryTimeout_query : queryTimeout c s = stillOut c t (s.endOwn c) := by
  unfold queryTimeout
  rw [waitingFor_of h]

end Answers

theorem finishedTicket_out (hf : s.findTicket c t = some slot) (o : CutOutcome) (reason : Nat × Nat) :
    finishedTicket c t o reason s = s.resolveReport c t slot o reason := by
  unfold finishedTicket
  rw [hf]

theorem unknownTicket_out (hf : s.findTicket c t = some slot) : unknownTicket c t s =
    (((s.returnPlacement c slot t.index).dropDeadline c t).returnChecks slot [t.index]).settle slot := by
  unfold unknownTicket
  rw [hf]

/-- A ticket that is out no longer is left alone. -/
theorem ticket_gone (hf : s.findTicket c t = none) :
    (∀ o reason, finishedTicket c t o reason s = s) ∧ stillOut c t s = s ∧ unknownTicket c t s = s := by
  unfold finishedTicket stillOut unknownTicket
  rw [hf]
  exact ⟨fun _ _ => rfl, rfl, rfl⟩

/-- An answer to the query of a ticket that is out no longer ends the query. -/
theorem queryAnswer_gone {tag : Nat} (h : (s.chan c).outstanding = some ⟨.query t, tag⟩)
    (hf : (s.endOwn c).findTicket c t = none) (answer : QueryReply) : queryAnswer c tag answer s = s.endOwn c := by
  obtain ⟨hfinished, hstill, hunknown⟩ := ticket_gone hf
  cases answer with
  | finished o reason detail => rw [queryAnswer_finished h, hfinished]
  | inProgress => rw [queryAnswer_inProgress h, hstill]
  | unknown => rw [queryAnswer_unknown h, hunknown]
  | refuse reason detail => rw [queryAnswer_refuse h, hstill]

end Counted

/-- Two changes of a placement that agree on it. -/
theorem modPlacement_congr {s : State} {slot i : Nat} {g : Hide} {p : Placement} (hg : s.hide slot = some g)
    (hp : g.placements[i]? = some p) {a b : Placement → Placement} (h : a p = b p) :
    s.modPlacement slot i a = s.modPlacement slot i b := by
  have hlist : g.placements.modify i a = g.placements.modify i b := by
    refine List.ext_getElem? fun j => ?_
    rw [List.getElem?_modify, List.getElem?_modify]
    by_cases hj : i = j
    · rw [← hj, hp]
      simp [h]
    · simp [hj]
  rw [State.modPlacement, State.modPlacement, modHide_some _ hg, modHide_some _ hg, hlist]

theorem returnPlacement_out {s : State} {c : Fin 4} {slot i n : Nat} {g : Hide} {p : Placement}
    (hg : s.hide slot = some g) (hp : g.placements[i]? = some p) (hst : p.state = .ticketed)
    (ht : p.ticket = some (n, c)) : s.returnPlacement c slot i =
      s.modPlacement slot i fun q => { q with state := .placed, ticket := none } :=
  modPlacement_congr hg hp (if_pos ((outOn_iff c p).mpr ⟨hst, by rw [ht]; rfl⟩))

/-! ### The two events (R158) -/

/-- The state in which an answer to the channel's own request is handled. -/
def atAnswer (s : State) (c : Fin 4) (reads : List ReadOutcome) : State := { s.hunt (.cutter c) with tape := reads }

theorem atAnswer_chan (s : State) (c : Fin 4) (reads : List ReadOutcome) : (atAnswer s c reads).chan c = s.chan c :=
  hunt_chan s (.cutter c) c

theorem endOwn_atAnswer (s : State) (c : Fin 4) (reads : List ReadOutcome) : (atAnswer s c reads).endOwn c =
    { (s.hunt (.cutter c)).putChan c { s.chan c with outstanding := none } with tape := reads } :=
  congrArg (fun t : State => { t with tape := reads }) (endOwn_hunt s c)

theorem exec_queryAnswer_of {s t : State} {c : Fin 4} {tag : Nat} {answer : QueryReply} {reads : List ReadOutcome}
    (h : queryAnswer c tag answer (atAnswer s c reads) = t) :
    exec (.queryAnswer c tag answer reads) s = .next { t with tape := s.tape } := h ▸
  congrArg Host.Outcome.next (withReads_eq s reads fun t => queryAnswer c tag answer (t.hunt (.cutter c)))

theorem exec_queryTimeout_of {s t : State} {c : Fin 4} {reads : List ReadOutcome}
    (h : queryTimeout c { s with tape := reads } = t) :
    exec (.queryTimeout c reads) s = .next { t with tape := s.tape } := h ▸
  congrArg Host.Outcome.next (withReads_eq s reads (queryTimeout c))

/-- Settles O52: the expiry, the query, its answers on a ticket still out, and its end on one that is not. -/
theorem overdueTicketsAreQueried : Obligations.OverdueTicketsAreQueried := by
  unfold Obligations.OverdueTicketsAreQueried
  constructor
  · intro c slot g i m p s h1 h2 hwork hp hst hticket ch
    refine ⟨rfl, fun a d b hlink hnone hdead hdt he ha => ?_, fun tag reads hout => ?_⟩
    · have hf : s.findTicket c d.ticket = some slot := hdt ▸ findTicket_of hwork h1 h2 hp ⟨hst, hticket⟩
      have hexpired : firstExpired s c = some ⟨m, i⟩ := hdt ▸ firstExpired_of hdead he ha hf
      exact congrArg Host.Outcome.next (ticketQuerySend_sends h1 h2 ((mayAsk_iff s c).mpr ⟨hnone, hlink⟩) hexpired)
    · intro w restart counted
      have hw : (atAnswer s c reads).endOwn c = w := endOwn_atAnswer s c reads
      have hout' : ((atAnswer s c reads).chan c).outstanding = some ⟨.query ⟨m, i⟩, tag⟩ := by
        rw [atAnswer_chan]
        exact hout
      have hfound {t : State} (hchan : t.chan c = { ch with outstanding := none }) (hhide : t.hide slot = some g) :
          t.findTicket c ⟨m, i⟩ = some slot :=
        findTicket_of (by rw [hchan]; exact hwork) (by rw [hchan]; exact h1) hhide hp ⟨hst, hticket⟩
      have hcounted {t : State} (hchan : t.chan c = { ch with outstanding := none }) (hhide : t.hide slot = some g)
          (hset : t.settings = s.settings) : stillOut c ⟨m, i⟩ t = counted t := by
        rw [stillOut_eq (hfound hchan hhide), hset, congrArg Channel.queryCount hchan]
        rfl
      have hwchan : w.chan c = { ch with outstanding := none } := chan_putChan_self ..
      have hwhide : w.hide slot = some g := (hunt_hide s (.cutter c) slot).trans h2
      have hwout : stillOut c ⟨m, i⟩ w = counted w := hcounted hwchan hwhide (hunt_settings s (.cutter c))
      have hf := hfound hwchan hwhide
      refine ⟨fun o reason detail => exec_queryAnswer_of ?_, exec_queryAnswer_of ?_,
        fun reason detail => exec_queryAnswer_of ?_, exec_queryTimeout_of ?_, exec_queryAnswer_of ?_⟩
      · rw [queryAnswer_finished hout', hw, finishedTicket_out hf]
      · rw [queryAnswer_inProgress hout', hw, hwout]
      · rw [queryAnswer_refuse hout', hw, hwout]
      · exact (queryTimeout_query (s := { s with tape := reads }) hout).trans (hcounted (chan_putChan_self ..) h2 rfl)
      · rw [queryAnswer_unknown hout', hw, unknownTicket_out hf, returnPlacement_out hwhide hp hst hticket]
        rfl
  · intro c slot g i m tag s h1 h2 hout hgone ended
    have hfind {t : State} (hchan : t.chan c = { s.chan c with outstanding := none }) (hhide : t.hide slot = some g) :
        t.findTicket c ⟨m, i⟩ = none :=
      findTicket_none (by rw [hchan]; exact h1) hhide (by rw [hchan]; exact hgone)
    refine ⟨fun answer reads => ?_, fun reads => ?_⟩
    · have hout' : ((atAnswer s c reads).chan c).outstanding = some ⟨.query ⟨m, i⟩, tag⟩ := by
        rw [atAnswer_chan]
        exact hout
      have hnone : ((atAnswer s c reads).endOwn c).findTicket c ⟨m, i⟩ = none := by
        rw [endOwn_atAnswer]
        exact hfind (chan_putChan_self ..) ((hunt_hide s (.cutter c) slot).trans h2)
      exact exec_queryAnswer_of ((queryAnswer_gone hout' hnone answer).trans (endOwn_atAnswer s c reads))
    · have hnone : (State.endOwn c { s with tape := reads }).findTicket c ⟨m, i⟩ = none := hfind (chan_putChan_self ..) h2
      exact exec_queryTimeout_of
        ((queryTimeout_query (s := { s with tape := reads }) hout).trans (ticket_gone hnone).2.1)

/-! ### Aborts (R162) -/

section Aborting

variable {s : State} {c : Fin 4} {slot : Nat} {g : Hide}

theorem abortSend_sends (h : (s.chan c).state = .aborting) (h1 : (s.chan c).hide = some slot)
    (h2 : s.hide slot = some g) (hmay : s.mayAsk c = true) :
    abortSend c s = s.sendOwn c .abort (.abortHide g.tag) := by
  unfold abortSend
  rw [if_pos ⟨h, hmay⟩, assigned_of h1 h2]

theorem abortSend_silent (h : ¬ s.mayAsk c = true) : abortSend c s = s := if_neg fun k => h k.2

theorem endAbort_eq (h1 : (s.chan c).hide = some slot) : endAbort c s =
    (s.completeDiscard slot).putChan c { s.chan c with state := .idle, hide := none, outstanding := none } := by
  have hchan : (s.completeDiscard slot).chan c = s.chan c := by
    unfold State.chan
    rw [completeDiscard_chans]
  unfold endAbort
  rw [h1]
  dsimp only
  rw [State.modChan, hchan]

variable {tag : Nat}

theorem abortOut_of (h : (s.chan c).state = .aborting) (hout : (s.chan c).outstanding = some ⟨.abort, tag⟩) :
    abortOut s c = true := by
  rw [abortOut, waitingFor_of hout, h]
  rfl

theorem abortAnswer_ends (h : (s.chan c).state = .aborting) (hout : (s.chan c).outstanding = some ⟨.abort, tag⟩) :
    abortAnswer c tag s = (endAbort c s).evaluate := by
  unfold abortAnswer
  rw [abortOut_of h hout, answered_of hout]
  rfl

theorem abortTimeout_ends (h : (s.chan c).state = .aborting) (hout : (s.chan c).outstanding = some ⟨.abort, tag⟩) :
    abortTimeout c s = ((endAbort c s).raise (.channel c .abortUnanswered)).evaluate :=
  if_pos (abortOut_of h hout)

end Aborting

/-- Settles O53: ABORT_HIDE sent, and its end by any answer or by its timeout. -/
theorem abortsComplete : Obligations.AbortsComplete := by
  unfold Obligations.AbortsComplete
  intro c slot g s h h1 h2 ch ended
  refine ⟨fun hlink hnone => ?_, fun hbusy => ?_, fun tag hout => ⟨fun answer => ?_, ?_⟩⟩
  · exact congrArg Host.Outcome.next (abortSend_sends h h1 h2 ((mayAsk_iff s c).mpr ⟨hnone, hlink⟩))
  · exact congrArg Host.Outcome.next (abortSend_silent (mayAsk_false hbusy))
  · have hchan : (s.hunt (.cutter c)).chan c = ch := hunt_chan s (.cutter c) c
    refine congrArg Host.Outcome.next ((abortAnswer_ends (by rw [hchan]; exact h) (by rw [hchan]; exact hout)).trans ?_)
    rw [endAbort_eq (by rw [hchan]; exact h1), hchan]
  · exact congrArg Host.Outcome.next ((abortTimeout_ends h hout).trans (by rw [endAbort_eq h1]))

end Sys2Proof.Proofs.Queries
end
